-- ==== Sys2Proof/Word.lean ====
section
/-!
DEFINITION. The words, register numbers and small name sets of the Llynorn W9 (spec chapters 00, 01, 04):
nothing here computes more than a bit field.
-/
namespace Sys2Proof

/-- A byte of scratchpad, edge memory or host memory (R5). -/
abbrev Byte := BitVec 8

/-- A 32-bit scalar register, literal or instruction word (R73, R76). -/
abbrev Word := BitVec 32

/-- A 64-bit pair, TG, SG or counter value (R73). -/
abbrev DWord := BitVec 64

/-- Scalar register number x0 to x31 (R73). -/
abbrev XReg := Fin 32

/-- Vector register number v0 to v15 (R73). -/
abbrev VReg := Fin 16

/-- Ring number q0 to q15 (R73). -/
abbrev RingNo := Fin 16

/-- Context number 0 to 7 of a core (R23). -/
abbrev CtxNo := Fin 8

/-- The place of a core: bits [8:0] hold x and bits [17:9] hold y, as in a site word (R59). -/
abbrev Site := BitVec 18

/-- Logical x of a site (R6). -/
def Site.x (s : Site) : Nat := (s.extractLsb' 0 9).toNat

/-- Logical y of a site (R6). -/
def Site.y (s : Site) : Nat := (s.extractLsb' 9 9).toNat

/-- The site at logical (x, y) (R6, R59). -/
def Site.mk (x y : Nat) : Site := BitVec.ofNat 18 (y % 512 * 512 + x % 512)

/-- The five scopes of R7. -/
inductive Scope where
  | task | core | die | device | system
  deriving DecidableEq, Repr, Inhabited

/-- The 3-bit scope code of R7. -/
def Scope.code : Scope → Nat
  | .task => 0 | .core => 1 | .die => 2 | .device => 3 | .system => 4

/-- The order suffix of a load, store or atomic (R84). -/
inductive MemOrd where
  | plain | aq | rl | ar
  deriving DecidableEq, Repr, Inhabited

/-- The 2-bit order code of R84. -/
def MemOrd.code : MemOrd → Nat
  | .plain => 0 | .aq => 1 | .rl => 2 | .ar => 3

/-- Operand b of a format-A instruction: a register or the 32-bit literal word (R80). -/
inductive Src where
  | reg (r : XReg)
  | lit (v : Word)
  deriving DecidableEq, Repr, Inhabited

/-- Operand b of AMOCAS: an even pair or the 64-bit literal (R80, R128). -/
inductive PairSrc where
  | pair (r : XReg)
  | lit (v : DWord)
  deriving DecidableEq, Repr, Inhabited

/-- Operand vb of a format-V instruction: a v register or the broadcast literal (R83). -/
inductive VSrc where
  | reg (r : VReg)
  | lit (v : Word)
  deriving DecidableEq, Repr, Inhabited

/-- The four mesh directions, in the code order of FSCFG's DIR field (R257). -/
inductive Dir where
  | east | west | north | south
  deriving DecidableEq, Repr, Inhabited

/-- The ordering code of the part (R1). -/
inductive Variant where
  | ma | mb
  deriving DecidableEq, Repr, Inhabited

/-- The mesh classes, in the code order of R237. -/
inductive MeshClass where
  | request | reply | sum | control
  deriving DecidableEq, Repr, Inhabited

/-- One Hormar flit: 512 data bits and 32 control bits (R375). -/
structure Flit where
  data : BitVec 512
  ctl : Word
  deriving DecidableEq, Repr, Inhabited

/-- The outcome of one field's self-test (R410, R12): the columns of defective cores in its west and its east half. -/
structure SelfTest where
  west : List Nat
  east : List Nat
  deriving DecidableEq, Repr, Inhabited

end Sys2Proof
end

