-- ==== Sys2Proof/Syntax.lean ====
section
/-!
DEFINITION. The instructions of the Llynorn W9: one constructor for each row of the opcode table. The first 199 are the
encoded instructions of R86 with their fields turned into operands (R79 to R83). The others are the event rows of the
table, which have no encoding: where an event takes place (its site, context, or number of packet, link, queue, launch
or slot) stands in the state (`cur` and `num`), and a constructor's operands are what the outside world brings.
-/
namespace Sys2Proof

/-- The instruction set: every row of the opcode table. -/
inductive Instr where
  /-- ADD (R112). -/
  | add (rd ra : XReg) (b : Src)
  /-- SUB (R112). -/
  | sub (rd ra : XReg) (b : Src)
  /-- AND (R112). -/
  | and (rd ra : XReg) (b : Src)
  /-- OR (R112). -/
  | or (rd ra : XReg) (b : Src)
  /-- XOR (R112). -/
  | xor (rd ra : XReg) (b : Src)
  /-- ANDN (R112). -/
  | andn (rd ra : XReg) (b : Src)
  /-- SHL (R112). -/
  | shl (rd ra : XReg) (b : Src)
  /-- SHR (R112). -/
  | shr (rd ra : XReg) (b : Src)
  /-- SRA (R112). -/
  | sra (rd ra : XReg) (b : Src)
  /-- ROTL (R112). -/
  | rotl (rd ra : XReg) (b : Src)
  /-- SLT (R112). -/
  | slt (rd ra : XReg) (b : Src)
  /-- SLTN (R112). -/
  | sltn (rd ra : XReg) (b : Src)
  /-- MIN (R112). -/
  | min (rd ra : XReg) (b : Src)
  /-- MAX (R112). -/
  | max (rd ra : XReg) (b : Src)
  /-- MINN (R112). -/
  | minn (rd ra : XReg) (b : Src)
  /-- MAXN (R112). -/
  | maxn (rd ra : XReg) (b : Src)
  /-- MUL (R112). -/
  | mul (rd ra : XReg) (b : Src)
  /-- MULH (R112). -/
  | mulh (rd ra : XReg) (b : Src)
  /-- MULHN (R112). -/
  | mulhn (rd ra : XReg) (b : Src)
  /-- DIV (R113). -/
  | div (rd ra : XReg) (b : Src)
  /-- DIVN (R113). -/
  | divn (rd ra : XReg) (b : Src)
  /-- REM (R113). -/
  | rem (rd ra : XReg) (b : Src)
  /-- REMN (R113). -/
  | remn (rd ra : XReg) (b : Src)
  /-- CLZ (R112). -/
  | clz (rd ra : XReg)
  /-- CTZ (R112). -/
  | ctz (rd ra : XReg)
  /-- POPC (R112). -/
  | popc (rd ra : XReg)
  /-- BEXT (R114). -/
  | bext (rd ra : XReg) (b : Src)
  /-- BINS (R114). -/
  | bins (rd ra : XReg) (b : Src)
  /-- ADDI (R115). -/
  | addi (rd ra : XReg) (imm : BitVec 16)
  /-- ANDI (R115). -/
  | andi (rd ra : XReg) (imm : BitVec 16)
  /-- ORI (R115). -/
  | ori (rd ra : XReg) (imm : BitVec 16)
  /-- XORI (R115). -/
  | xori (rd ra : XReg) (imm : BitVec 16)
  /-- SLTI (R115). -/
  | slti (rd ra : XReg) (imm : BitVec 16)
  /-- SLTNI (R115). -/
  | sltni (rd ra : XReg) (imm : BitVec 16)
  /-- LUI (R115). -/
  | lui (rd : XReg) (imm : BitVec 16)
  /-- SHLI (R115). -/
  | shli (rd ra : XReg) (sh : BitVec 5)
  /-- SHRI (R115). -/
  | shri (rd ra : XReg) (sh : BitVec 5)
  /-- SRAI (R115). -/
  | srai (rd ra : XReg) (sh : BitVec 5)
  /-- LB (R121). -/
  | lb (rd ra : XReg) (ord : MemOrd) (scope : Scope) (off : BitVec 11)
  /-- LBN (R121). -/
  | lbn (rd ra : XReg) (ord : MemOrd) (scope : Scope) (off : BitVec 11)
  /-- LH (R121). -/
  | lh (rd ra : XReg) (ord : MemOrd) (scope : Scope) (off : BitVec 11)
  /-- LHN (R121). -/
  | lhn (rd ra : XReg) (ord : MemOrd) (scope : Scope) (off : BitVec 11)
  /-- LW (R121). -/
  | lw (rd ra : XReg) (ord : MemOrd) (scope : Scope) (off : BitVec 11)
  /-- LD (R121). -/
  | ld (rd ra : XReg) (ord : MemOrd) (scope : Scope) (off : BitVec 11)
  /-- SB (R121). -/
  | sb (rs ra : XReg) (ord : MemOrd) (scope : Scope) (off : BitVec 11)
  /-- SH (R121). -/
  | sh (rs ra : XReg) (ord : MemOrd) (scope : Scope) (off : BitVec 11)
  /-- SW (R121). -/
  | sw (rs ra : XReg) (ord : MemOrd) (scope : Scope) (off : BitVec 11)
  /-- SD (R121). -/
  | sd (rs ra : XReg) (ord : MemOrd) (scope : Scope) (off : BitVec 11)
  /-- AMOADD (R127). -/
  | amoadd (rd ra : XReg) (b : Src) (ord : MemOrd) (scope : Scope)
  /-- AMOAND (R127). -/
  | amoand (rd ra : XReg) (b : Src) (ord : MemOrd) (scope : Scope)
  /-- AMOOR (R127). -/
  | amoor (rd ra : XReg) (b : Src) (ord : MemOrd) (scope : Scope)
  /-- AMOXOR (R127). -/
  | amoxor (rd ra : XReg) (b : Src) (ord : MemOrd) (scope : Scope)
  /-- AMOMIN (R127). -/
  | amomin (rd ra : XReg) (b : Src) (ord : MemOrd) (scope : Scope)
  /-- AMOMAX (R127). -/
  | amomax (rd ra : XReg) (b : Src) (ord : MemOrd) (scope : Scope)
  /-- AMOMINN (R127). -/
  | amominn (rd ra : XReg) (b : Src) (ord : MemOrd) (scope : Scope)
  /-- AMOMAXN (R127). -/
  | amomaxn (rd ra : XReg) (b : Src) (ord : MemOrd) (scope : Scope)
  /-- AMOSWP (R127). -/
  | amoswp (rd ra : XReg) (b : Src) (ord : MemOrd) (scope : Scope)
  /-- AMOCAS (R128). -/
  | amocas (rd ra : XReg) (b : PairSrc) (ord : MemOrd) (scope : Scope)
  /-- BEQ (R129). -/
  | beq (ra rb : XReg) (off : BitVec 13)
  /-- BNE (R129). -/
  | bne (ra rb : XReg) (off : BitVec 13)
  /-- BLT (R129). -/
  | blt (ra rb : XReg) (off : BitVec 13)
  /-- BGE (R129). -/
  | bge (ra rb : XReg) (off : BitVec 13)
  /-- BLTN (R129). -/
  | bltn (ra rb : XReg) (off : BitVec 13)
  /-- BGEN (R129). -/
  | bgen (ra rb : XReg) (off : BitVec 13)
  /-- JAL (R130). -/
  | jal (rd : XReg) (off : BitVec 21)
  /-- JALR (R131). -/
  | jalr (rd ra : XReg) (imm : BitVec 16)
  /-- TDONE (R132). -/
  | tdone
  /-- TYIELD (R133). -/
  | tyield
  /-- TSPAWN (R134). -/
  | tspawn (rd ra : XReg)
  /-- TRAP (R135). -/
  | trap (code : BitVec 12)
  /-- TRET (R136). -/
  | tret
  /-- MFS (R137). -/
  | mfs (rd : XReg) (num : BitVec 12)
  /-- MTS (R137). -/
  | mts (ra : XReg) (num : BitVec 12)
  /-- BREAK (R135). -/
  | breakpt (code : BitVec 12)
  /-- VADD_F (R159). -/
  | vaddF (vd va : VReg) (b : VSrc)
  /-- VSUB_F (R159). -/
  | vsubF (vd va : VReg) (b : VSrc)
  /-- VMUL_F (R159). -/
  | vmulF (vd va : VReg) (b : VSrc)
  /-- VFMA_F (R159). -/
  | vfmaF (vd va : VReg) (b : VSrc) (vc : VReg)
  /-- VFMS_F (R159). -/
  | vfmsF (vd va : VReg) (b : VSrc) (vc : VReg)
  /-- VMIN_F (R159). -/
  | vminF (vd va : VReg) (b : VSrc)
  /-- VMAX_F (R159). -/
  | vmaxF (vd va : VReg) (b : VSrc)
  /-- VABS_F (R159). -/
  | vabsF (vd va : VReg)
  /-- VCLT_F (R159). -/
  | vcltF (vd va : VReg) (b : VSrc)
  /-- VCEQ_F (R159). -/
  | vceqF (vd va : VReg) (b : VSrc)
  /-- VCLE_F (R159). -/
  | vcleF (vd va : VReg) (b : VSrc)
  /-- VADD_I (R160). -/
  | vaddI (vd va : VReg) (b : VSrc)
  /-- VSUB_I (R160). -/
  | vsubI (vd va : VReg) (b : VSrc)
  /-- VMUL_I (R160). -/
  | vmulI (vd va : VReg) (b : VSrc)
  /-- VMIN_I (R160). -/
  | vminI (vd va : VReg) (b : VSrc)
  /-- VMAX_I (R160). -/
  | vmaxI (vd va : VReg) (b : VSrc)
  /-- VAND (R160). -/
  | vand (vd va : VReg) (b : VSrc)
  /-- VOR (R160). -/
  | vor (vd va : VReg) (b : VSrc)
  /-- VXOR (R160). -/
  | vxor (vd va : VReg) (b : VSrc)
  /-- VSHL (R160). -/
  | vshl (vd va : VReg) (b : VSrc)
  /-- VSHR (R160). -/
  | vshr (vd va : VReg) (b : VSrc)
  /-- VSRA (R160). -/
  | vsra (vd va : VReg) (b : VSrc)
  /-- VCLT_I (R160). -/
  | vcltI (vd va : VReg) (b : VSrc)
  /-- VCEQ_I (R160). -/
  | vceqI (vd va : VReg) (b : VSrc)
  /-- VSEL (R161). -/
  | vsel (vd va : VReg) (b : VSrc) (vc : VReg)
  /-- VMASK (R161). -/
  | vmask (vd va : VReg) (b : VSrc)
  /-- VSHUF (R162). -/
  | vshuf (vd va : VReg) (b : VSrc)
  /-- VBCAST (R162). -/
  | vbcast (vd va : VReg) (lane : Fin 16)
  /-- VEXT (R162). -/
  | vext (vd va : VReg) (b : VSrc) (n : Fin 16)
  /-- VRADD_F (R163). -/
  | vraddF (vd va : VReg)
  /-- VRMAX_F (R163). -/
  | vrmaxF (vd va : VReg)
  /-- VRADD_I (R163). -/
  | vraddI (vd va : VReg)
  /-- VLD (R165). -/
  | vld (v : VReg) (ra rb : XReg) (ord : MemOrd) (scope : Scope)
  /-- VST (R165). -/
  | vst (v : VReg) (ra rb : XReg) (ord : MemOrd) (scope : Scope)
  /-- VLDT (R166). -/
  | vldt (v : VReg) (ra rb : XReg)
  /-- VLDQ (R167). -/
  | vldq (v : VReg) (q : RingNo) (rb : XReg)
  /-- VSTQ (R167). -/
  | vstq (v : VReg) (q : RingNo) (rb : XReg)
  /-- VGATH (R168). -/
  | vgath (v : VReg) (ra rb : XReg) (ord : MemOrd) (scope : Scope)
  /-- VSCAT (R168). -/
  | vscat (v : VReg) (ra rb : XReg) (ord : MemOrd) (scope : Scope)
  /-- VLDS (R169). -/
  | vlds (v : VReg) (ra rb : XReg) (df : Fin 8)
  /-- VCVTFI (R172). -/
  | vcvtfi (vd va : VReg)
  /-- VCVTIF (R172). -/
  | vcvtif (vd va : VReg)
  /-- VPKBF (R173). -/
  | vpkbf (vd va vb : VReg) (churn : Bool)
  /-- VUPBF (R173). -/
  | vupbf (vd va : VReg) (half : Bool)
  /-- VDEC8 (R174). -/
  | vdec8 (vd va vb : VReg) (e : Fin 16)
  /-- VDEC6 (R174). -/
  | vdec6 (vd va vb : VReg) (e : Fin 16)
  /-- VENC8 (R175). -/
  | venc8 (vd va : VReg) (held : Bool) (sc : Fin 64)
  /-- VENC6 (R175). -/
  | venc6 (vd va : VReg) (held : Bool) (sc : Fin 64)
  /-- VEXP2 (R176). -/
  | vexp2 (vd va : VReg)
  /-- VLOG2 (R176). -/
  | vlog2 (vd va : VReg)
  /-- VRCP (R176). -/
  | vrcp (vd va : VReg)
  /-- VRSQ (R176). -/
  | vrsq (vd va : VReg)
  /-- VTANH (R176). -/
  | vtanh (vd va : VReg)
  /-- VSMX (R177). -/
  | vsmx (vd va : VReg)
  /-- VSMXAP (R178). -/
  | vsmxap (vd va vb : VReg)
  /-- TSHAPE (R316). -/
  | tshape (rb : XReg) (esel : BitVec 8)
  /-- TGEOM (R317). -/
  | tgeom (rb : XReg) (esel : BitVec 8)
  /-- MMA (R324). -/
  | mma (qa qb : RingNo) (esel : BitVec 8)
  /-- MMAW (R303). -/
  | mmaw (qa qb : RingNo) (esel : BitVec 8)
  /-- TQNT (R325). -/
  | tqnt (esel : BitVec 8)
  /-- TDQNT (R326). -/
  | tdqnt (esel : BitVec 8)
  /-- TSTPAIR (R327). -/
  | tstpair (esel : BitVec 8)
  /-- TDECAY (R329). It uses no slot: the field is reserved and zero (R79, log entry 32). -/
  | tdecay (slot : Fin 4) (esel : BitVec 8)
  /-- TDECAY_SWEEP (R330). -/
  | tdecaySweep (slot : Fin 4) (esel : BitVec 8)
  /-- TDECAY_DROP (R329). -/
  | tdecayDrop (slot : Fin 4) (esel : BitVec 8)
  /-- TSADD (R332). -/
  | tsadd (esel : BitVec 8)
  /-- TNORM (R334). -/
  | tnorm (rb : XReg) (esel : BitVec 8)
  /-- TSCL (R322). -/
  | tscl (n : BitVec 5) (rb : XReg) (esel : BitVec 8)
  /-- TFACT (R322). -/
  | tfact (rb : XReg) (esel : BitVec 8)
  /-- QCFG (R290). -/
  | qcfg (q : RingNo) (rp : XReg)
  /-- QWAITF (R294). -/
  | qwaitf (q : RingNo) (n : BitVec 8) (ra : XReg)
  /-- QWAITE (R294). -/
  | qwaite (q : RingNo) (n : BitVec 8) (ra : XReg)
  /-- QADVH (R294). -/
  | qadvh (q : RingNo) (n : BitVec 8) (ra : XReg)
  /-- QADVT (R294). -/
  | qadvt (q : RingNo) (n : BitVec 8) (ra : XReg)
  /-- QSTAT (R291). -/
  | qstat (q : RingNo) (rd : XReg)
  /-- QRESET (R294). -/
  | qreset (q : RingNo)
  /-- MSEND (R241). -/
  | msend (rb : XReg) (scope : Scope) (esel : BitVec 8)
  /-- MPUT (R241). -/
  | mput (rb : XReg) (scope : Scope)
  /-- MGET (R241). -/
  | mget (rb : XReg) (scope : Scope)
  /-- MAMO (R249). -/
  | mamo (ra rb : XReg) (scope : Scope) (esel : BitVec 8)
  /-- MBIND (R244). -/
  | mbind (rb : XReg) (esel : BitVec 8)
  /-- MRECV (R252). -/
  | mrecv (rd : XReg) (esel : BitVec 8)
  /-- FSCFG (R257). -/
  | fscfg (rb : XReg) (esel : BitVec 8)
  /-- FSUM (R258). -/
  | fsum (rb : XReg) (esel : BitVec 8)
  /-- FSRAISE (R264). -/
  | fsraise (rb : XReg) (esel : BitVec 8)
  /-- FSRES (R265). -/
  | fsres (rd rb : XReg) (esel : BitVec 8)
  /-- CBCAST (R273). -/
  | cbcast (rb : XReg) (esel : BitVec 8)
  /-- CJOIN (R275). -/
  | cjoin (rb : XReg) (esel : BitVec 8)
  /-- CSKIM (R279). -/
  | cskim (vd : VReg) (rd rb : XReg) (tag : Fin 4)
  /-- CCUT (R280). -/
  | ccut (rb : XReg) (esel : BitVec 8)
  /-- CGATH (R274). -/
  | cgath (rb : XReg) (esel : BitVec 8)
  /-- CPREC (R278). -/
  | cprec (rd rb : XReg) (esel : BitVec 8)
  /-- CADD (R181). -/
  | cadd (rb : XReg) (scope : Scope) (esel : BitVec 8)
  /-- CWAIT (R181). -/
  | cwait (ra rb : XReg) (scope : Scope) (esel : BitVec 8)
  /-- CREAD (R181). -/
  | cread (rd : XReg) (esel : BitVec 8)
  /-- CRAISE (R181). -/
  | craise (ra rb : XReg) (scope : Scope) (esel : BitVec 8)
  /-- CBRK (R181). -/
  | cbrk (esel : BitVec 8)
  /-- CTEST (R181). -/
  | ctest (rd rb : XReg) (esel : BitVec 8)
  /-- FENCE (R190). -/
  | fence (scope : Scope)
  /-- FENCEE (R191). -/
  | fencee
  /-- BARCFG (R186). -/
  | barcfg (rb : XReg) (esel : BitVec 8)
  /-- BARRIVE (R188). -/
  | barrive (scope : Scope) (esel : BitVec 8)
  /-- BARWAIT (R188). -/
  | barwait (rb : XReg) (scope : Scope) (esel : BitVec 8)
  /-- BARTAP (R189). -/
  | bartap (bar : Fin 8) (slot : Fin 8)
  /-- STEPADV (R185). -/
  | stepadv
  /-- STEPRD (R185). -/
  | steprd (rd : XReg)
  /-- ERINIT (R221). -/
  | erinit (rb : XReg) (esel : BitVec 8)
  /-- ERDONE (R225). -/
  | erdone (scope : Scope)
  /-- ERPASS (R226). -/
  | erpass
  /-- ERHALT (R227). -/
  | erhalt
  /-- ERCHK (R230). -/
  | erchk (rd : XReg) (esel : BitVec 8)
  /-- ERSTAT (R231). -/
  | erstat (rd : XReg) (esel : BitVec 8)
  /-- SGEOM (R344). -/
  | sgeom (rb : XReg) (esel : BitVec 8)
  /-- SCOPY (R346). -/
  | scopy (rb : XReg) (scope : Scope) (esel : BitVec 8)
  /-- SLOAD (R346). -/
  | sload (rb : XReg) (scope : Scope) (esel : BitVec 8)
  /-- SSTORE (R346). -/
  | sstore (rb : XReg) (scope : Scope) (esel : BitVec 8)
  /-- SFEED (R350). -/
  | sfeed (rb : XReg) (esel : BitVec 8)
  /-- SDRAIN (R350). -/
  | sdrain (rb : XReg) (esel : BitVec 8)
  /-- SRED (R370). -/
  | sred (rb : XReg) (scope : Scope) (esel : BitVec 8)
  /-- SXPUT (R352). -/
  | sxput (rb : XReg) (scope : Scope) (esel : BitVec 8)
  /-- SBAR (R351). -/
  | sbar (esel : BitVec 8)
  /-- SCANCEL (R353). -/
  | scancel (esel : BitVec 8)
  /-- SRESUME (R354). -/
  | sresume (esel : BitVec 8)
  /-- SSTAT (R355). -/
  | sstat (rd rb : XReg) (esel : BitVec 8)
  /-- SIMG (R356). -/
  | simg (ra rb : XReg) (esel : BitVec 8)
  /-- MERGED_CONTRIBUTION (R379). -/
  | mergedContribution (rejected : Bool)
  /-- FLIT (R376). -/
  | flitArrives (flit : Flit)
  /-- ACKNOWLEDGE (R376). -/
  | acknowledge (seq : BitVec 12)
  /-- SUBMIT (R386). -/
  | submit (val : DWord)
  /-- QUEUE_ENABLE (R385). -/
  | queueEnable (port : Fin 2)
  /-- REGISTER_WRITE (R385). -/
  | registerWrite (off : Nat) (val : DWord)
  /-- GOVERNOR (R408). -/
  | governor (occupancy : Nat)
  /-- POWER_SAMPLE (R409). -/
  | powerSample (watts amps : Nat)
  /-- FIELD_SELF_TEST (R410). -/
  | fieldSelfTest (result : SelfTest)
  /-- ILLEGAL_ENCODING (R87). -/
  | illegalEncoding (w : Word)
  /-- INSTRUCTION_FETCH_FAULT (R78). -/
  | instructionFetchFault (locked : Bool) (addr : Word)
  /-- MESH_LINK_LOSS (R283). -/
  | meshLinkLoss (dir : Dir)
  /-- ASYNC_FAULT (R143). -/
  | asyncFault
  /-- WAKE (R63). -/
  | wake
  /-- CADD_PERFORMED (R181). -/
  | caddPerformed
  /-- INJECTION (R255). -/
  | injection
  /-- REQUEST_ARRIVAL (R245). -/
  | requestArrival
  /-- SEND (R245). -/
  | sendServed
  /-- PUT (R247). -/
  | putServed
  /-- GET (R248). -/
  | getServed
  /-- AMO (R249). -/
  | amoServed
  /-- ACK (R254). -/
  | ackLands
  /-- GETR (R248). -/
  | getrLands
  /-- AMOR (R249). -/
  | amorLands
  /-- NACK (R250). -/
  | nackLands
  /-- SUM (R260). -/
  | sumLands
  /-- RENUP (R260). -/
  | renupLands
  /-- RENDN (R260). -/
  | rendnLands
  /-- SUMDONE (R261). -/
  | sumDoneLands
  /-- SUMFAIL (R263). -/
  | sumFailLands
  /-- OPEN (R268). -/
  | openLands
  /-- TRAIN_DATA_BEAT (R276). -/
  | trainDataBeat
  /-- END (R281). -/
  | endLands
  /-- CUT (R280). -/
  | cutLands
  /-- TRAIN_DONE (R273). -/
  | trainDone
  /-- STEP_BEAT (R185). -/
  | stepBeat
  /-- ARRIVAL_BEAT (R187). -/
  | arrivalBeat
  /-- RELEASE_BEAT (R187). -/
  | releaseBeat
  /-- BARRIER_ARRIVAL_SENT (R188). -/
  | barrierArrivalSent
  /-- HANDSHAKE (R222). -/
  | handshakeLands
  /-- MISMATCH_BEAT (R222). -/
  | mismatchBeat
  /-- FLIP (R225). -/
  | flipLands
  /-- HALT (R227). -/
  | haltLands
  /-- FIRE (R224). -/
  | fire
  /-- WAVE_FRAME (R303). -/
  | waveFrame
  /-- CREDIT (R304). -/
  | creditLands
  /-- CREDIT_RESET (R304). -/
  | creditReset
  /-- FAIL_FRAME (R306). -/
  | failFrame
  /-- TENSOR_START (R310). -/
  | tensorStart
  /-- MMA_ROW (R301). -/
  | mmaRow
  /-- TENSOR_COMPLETE (R310). -/
  | tensorComplete
  /-- DECAY_SWEEP (R331). -/
  | decaySweep
  /-- STREAM_ACTIVATE (R351). -/
  | streamActivate
  /-- GRANULE (R348). -/
  | granule
  /-- STREAM_END (R348). -/
  | streamEnd
  /-- HOME_PORT_ACCESS (R369). -/
  | homePortAccess
  /-- WINDOW_CONTRIBUTION (R379). -/
  | windowContribution
  /-- HOLD_TIME_EXPIRY (R379). -/
  | holdTimeExpiry
  /-- LOSS_OF_LOCK (R376). -/
  | lossOfLock
  /-- RETRAIN_COMPLETE (R376). -/
  | retrainComplete
  /-- RETRAIN_TIMEOUT (R377). -/
  | retrainTimeout
  /-- QUEUE_DISABLE (R385). -/
  | queueDisable
  /-- LAUNCH_RECORD (R390). -/
  | launchRecord
  /-- LAUNCH_PLACEMENT (R392). -/
  | launchPlacement
  /-- LAUNCH_START (R67). -/
  | launchStart
  /-- LAUNCH_COMPLETE (R71). -/
  | launchComplete
  /-- PREEMPT (R394). -/
  | preempt
  /-- DRAIN_DONE (R394). -/
  | drainDone
  /-- RESUME (R394). -/
  | resume
  /-- PAGE_EVICTION (R397). -/
  | pageEviction
  /-- PAGE_RESTORE (R398). -/
  | pageRestore
  /-- CONFIGURE_PARTITIONS (R391). -/
  | configurePartitions
  /-- INVALIDATE_TRANSLATIONS (R361). -/
  | invalidateTranslations
  /-- WRITE_REDUCTION_WINDOW (R378). -/
  | writeReductionWindow
  /-- CANCEL_LAUNCH (R416). -/
  | cancelLaunch
  /-- RETIRE_ASID (R388). -/
  | retireAsid
  /-- ATTEST (R414). -/
  | attest
  /-- EXTEND (R414). -/
  | extend
  /-- PROGRESS_WATCHDOG (R202). -/
  | progressWatchdog
  /-- COOLANT_FAULT (R409). -/
  | coolantFault
  /-- FIELD_LOSS (R407). -/
  | fieldLoss
  /-- POWER_ON_RESET (R410). -/
  | powerOnReset
  /-- GO (R412). -/
  | go
  /-- VECTOR_ENGINE_PERFORM (R155). -/
  | vectorEnginePerform
  /-- FLIT_REPLAY (R376). -/
  | flitReplay
  deriving DecidableEq, Repr, Inhabited

end Sys2Proof
end

