-- ==== Sys2Proof/Config.lean ====
section
/-!
DEFINITION. What the spec leaves open: each is a constant without a body, so that nothing can be proved of its value and
every statement holds whatever it is. The log entry named with each says where it is used.
-/
namespace Sys2Proof

/-- The turn a machine takes when none is laid down (log entry 2): the site, context and number, and the event, if it is
no issue of that context. -/
opaque Config.freePlace : Nat → Site × CtxNo × Nat
opaque Config.freeEvent : Nat → Option Instr
/-- How the accesses of a free turn's context come: with its issue, late or ahead (log entries 2 and 4). -/
opaque Config.freeManner : Nat → Nat

/-- Cycles that pass on a core before a read of LCYC (R90, log entry 5). -/
opaque Config.elapsed : Nat → DWord

/-- The value the CRC-16 of a Hormar flit starts from (R375, log entry 18). -/
opaque Config.crcInit : BitVec 16

/-- Whether a port uses a translation it has cached (R361, log entry 19). -/
opaque Config.cacheHit : Nat → Bool

/-- An explicit orientation of an image (R108): the crossing, the edge-reversal context that owns this end, the other
end's place as an offset in cores with its context, and whether the crossing is to face this end. -/
structure ImageOrient where
  crossing : Nat
  own : Nat
  dx : Int
  dy : Int
  other : Nat
  faces : Bool
  deriving DecidableEq, Repr, Inhabited

/-- A pipe an image names (R68, R100): its tag, and for the receiving role the handler address and the landing word of
R244. -/
structure ImagePipe where
  tag : Nat
  receives : Option (Nat × Word)
  deriving DecidableEq, Repr, Inhabited

/-- A role as the tables of an .fxi image give it (R104): its resources, its region entries of 8 bytes (R389), its entries,
its level words (R389), its pipes, ranks by edge-reversal context, its explicit orientations, and by address the content of
its regions and what it places in .shadow (R22). -/
structure ImageRole where
  role : Nat
  nctx : Nat
  ord : Nat
  er : Nat
  hand : Nat
  xn : Nat
  vn : Nat
  counters : Nat
  rings : Nat
  barriers : Nat
  crossings : Nat
  regions : List DWord
  tasks : List Nat
  erTasks : List Nat
  levels : List Nat
  pipes : List ImagePipe
  ranks : List (Nat × Nat)
  orients : List ImageOrient
  content : List (Nat × List Byte)
  shadow : List (Nat × List Byte)
  deriving DecidableEq, Repr, Inhabited

/-- The roles an image's directory and tables hold, whose byte layout the spec does not give (R104, log entry 20). -/
opaque Config.imageRoles : List Byte → List ImageRole

/-- SHA-384 (R397, R414, log entry 8). -/
opaque Config.sha384 : List Byte → BitVec 384
/-- Whether the ECDSA and the LMS signature of a firmware image verify (R413, log entry 8). -/
opaque Config.ecdsaVerifies : List Byte → Bool
opaque Config.lmsVerifies : List Byte → Bool
/-- The security version of a firmware image, and the minimum it sets (R413, log entry 8). -/
opaque Config.securityVersion : List Byte → Nat
opaque Config.raisesMinimum : List Byte → Nat
/-- What MR0 is extended with for the loader (R414, log entry 8). -/
opaque Config.loaderMeasure : List Byte
/-- What a measurement register is extended with for a firmware image or a partition configuration (R414, log entry 8). -/
opaque Config.measure : List Byte → List Byte
/-- r and s of the ECDSA signature of an attestation, 48 big-endian bytes each (R414, log entry 8). -/
opaque Config.attestSignature : List Byte → BitVec 768
/-- AES-XTS-256 of a page under the key of an ASID, which is derived anew each time it is made live, with a tweak (R397,
log entry 8). -/
opaque Config.sealPage : Nat → Nat → Nat → List Byte → BitVec 8192
/-- Bytes of a core's saved state in the form the station gives it, and piece n of it (R395, log entry 35). -/
opaque Config.savedBytes : Nat → Nat
opaque Config.savedPiece : Nat → Nat → BitVec 8192
/-- The context whose saved state holds an offset of the shadow storage (R147, log entry 35). -/
opaque Config.shadowOwner : Nat → CtxNo

/-- A contribution of another module at the switch (R379, log entry 31): which window it is for, its module, its place in
the window and its bytes. -/
opaque Config.foreignPart : Nat → Nat × Nat × Nat × List Byte
/-- The reason for which another module refused a request of this one, and the LAUNCH and address such reports name (R250,
R401, log entry 26). -/
opaque Config.refusedReason : Nat → Nat
opaque Config.refusedAddress : Nat → Word
opaque Config.foreignLaunch : Nat → Word

/-- ECAUSE of the record a stream lost with a field leaves (R407, log entry 21). -/
opaque Config.lostStreamCause : Nat → Word

end Sys2Proof
end

