-- ==== Sys2Proof/WellFormed.lean ====
section
/-!
DEFINITION. The checks of step 2 of R88 that a word of the right format may still fail: odd pairs (R74), order and
scope (R84), register groups (R153), selectors beyond the architected range (R75) and unassigned system registers
(R89). An instruction that fails one is no instruction: the decoder refuses its word, which traps with ILLEGAL.
-/
namespace Sys2Proof

/-- A pair field holds an even number (R74). -/
def evenReg (r : XReg) : Bool := r.val % 2 == 0

/-- Operand b of AMOCAS: an even pair, or the literal (R74, R128). -/
def evenPair : PairSrc → Bool
  | .pair r => evenReg r
  | .lit _ => true

/-- A plain access has a zero scope field (R84). -/
def anyOrder (ord : MemOrd) (scope : Scope) : Bool := ord != .plain || scope == .task

/-- Acquire is permitted on loads, release and acquire-release are not (R84). -/
def loadOrder (ord : MemOrd) (scope : Scope) : Bool := anyOrder ord scope && (ord == .plain || ord == .aq)

/-- Release is permitted on stores, acquire and acquire-release are not (R84). -/
def storeOrder (ord : MemOrd) (scope : Scope) : Bool := anyOrder ord scope && (ord == .plain || ord == .rl)

/-- A group of n vector registers does not pass v15 (R153). -/
def vgroup (v : VReg) (n : Nat) : Bool := v.val + n ≤ 16

/-- A selector within its architected range (R75). -/
def below (esel : BitVec 8) (n : Nat) : Bool := esel.toNat < n

/-- A counter field: c0 to c62, or 0x80 for none (R310). -/
def counterField (esel : BitVec 8) : Bool := esel.toNat < 63 || esel == 0x80

/-- The system register numbers some chapter assigns, with the privileged range (R89 to R91, R232, R342, R363). -/
def assignedReg (num : BitVec 12) : Bool :=
  let n := num.toNat
  n ≤ 0x003 || (0x010 ≤ n && n ≤ 0x022) || (0x024 ≤ n && n ≤ 0x02A) || n == 0x100
    || (0x200 ≤ n && n ≤ 0x203) || (0x210 ≤ n && n ≤ 0x227) || (0x240 ≤ n && n ≤ 0x27F)
    || (0x400 ≤ n && n ≤ 0x407) || n == 0x500 || (0x510 ≤ n && n ≤ 0x51F) || (0x600 ≤ n && n ≤ 0x6FF)

/-- The legality of each row. The event rows have no word and nothing to check. -/
def Instr.wf : Instr → Bool
  | .add _ _ _ => true
  | .sub _ _ _ => true
  | .and _ _ _ => true
  | .or _ _ _ => true
  | .xor _ _ _ => true
  | .andn _ _ _ => true
  | .shl _ _ _ => true
  | .shr _ _ _ => true
  | .sra _ _ _ => true
  | .rotl _ _ _ => true
  | .slt _ _ _ => true
  | .sltn _ _ _ => true
  | .min _ _ _ => true
  | .max _ _ _ => true
  | .minn _ _ _ => true
  | .maxn _ _ _ => true
  | .mul _ _ _ => true
  | .mulh _ _ _ => true
  | .mulhn _ _ _ => true
  | .div _ _ _ => true
  | .divn _ _ _ => true
  | .rem _ _ _ => true
  | .remn _ _ _ => true
  | .clz _ _ => true
  | .ctz _ _ => true
  | .popc _ _ => true
  | .bext _ _ _ => true
  | .bins _ _ _ => true
  | .addi _ _ _ => true
  | .andi _ _ _ => true
  | .ori _ _ _ => true
  | .xori _ _ _ => true
  | .slti _ _ _ => true
  | .sltni _ _ _ => true
  | .lui _ _ => true
  | .shli _ _ _ => true
  | .shri _ _ _ => true
  | .srai _ _ _ => true
  | .lb _ _ ord scope _ => loadOrder ord scope
  | .lbn _ _ ord scope _ => loadOrder ord scope
  | .lh _ _ ord scope _ => loadOrder ord scope
  | .lhn _ _ ord scope _ => loadOrder ord scope
  | .lw _ _ ord scope _ => loadOrder ord scope
  | .ld rd _ ord scope _ => evenReg rd && loadOrder ord scope
  | .sb _ _ ord scope _ => storeOrder ord scope
  | .sh _ _ ord scope _ => storeOrder ord scope
  | .sw _ _ ord scope _ => storeOrder ord scope
  | .sd rs _ ord scope _ => evenReg rs && storeOrder ord scope
  | .amoadd _ _ _ ord scope => anyOrder ord scope
  | .amoand _ _ _ ord scope => anyOrder ord scope
  | .amoor _ _ _ ord scope => anyOrder ord scope
  | .amoxor _ _ _ ord scope => anyOrder ord scope
  | .amomin _ _ _ ord scope => anyOrder ord scope
  | .amomax _ _ _ ord scope => anyOrder ord scope
  | .amominn _ _ _ ord scope => anyOrder ord scope
  | .amomaxn _ _ _ ord scope => anyOrder ord scope
  | .amoswp _ _ _ ord scope => anyOrder ord scope
  | .amocas _ _ b ord scope => evenPair b && anyOrder ord scope
  | .beq _ _ _ => true
  | .bne _ _ _ => true
  | .blt _ _ _ => true
  | .bge _ _ _ => true
  | .bltn _ _ _ => true
  | .bgen _ _ _ => true
  | .jal _ _ => true
  | .jalr _ _ _ => true
  | .tdone => true
  | .tyield => true
  | .tspawn _ _ => true
  | .trap _ => true
  | .tret => true
  | .mfs _ num => assignedReg num
  | .mts _ num => assignedReg num
  | .breakpt _ => true
  | .vaddF _ _ _ => true
  | .vsubF _ _ _ => true
  | .vmulF _ _ _ => true
  | .vfmaF _ _ _ _ => true
  | .vfmsF _ _ _ _ => true
  | .vminF _ _ _ => true
  | .vmaxF _ _ _ => true
  | .vabsF _ _ => true
  | .vcltF _ _ _ => true
  | .vceqF _ _ _ => true
  | .vcleF _ _ _ => true
  | .vaddI _ _ _ => true
  | .vsubI _ _ _ => true
  | .vmulI _ _ _ => true
  | .vminI _ _ _ => true
  | .vmaxI _ _ _ => true
  | .vand _ _ _ => true
  | .vor _ _ _ => true
  | .vxor _ _ _ => true
  | .vshl _ _ _ => true
  | .vshr _ _ _ => true
  | .vsra _ _ _ => true
  | .vcltI _ _ _ => true
  | .vceqI _ _ _ => true
  | .vsel _ _ _ _ => true
  | .vmask _ _ _ => true
  | .vshuf _ _ _ => true
  | .vbcast _ _ _ => true
  | .vext _ _ _ _ => true
  | .vraddF _ _ => true
  | .vrmaxF _ _ => true
  | .vraddI _ _ => true
  | .vld _ _ _ ord scope => loadOrder ord scope && scope != .system
  | .vst _ _ _ ord scope => storeOrder ord scope && scope != .system
  | .vldt v _ _ => v.val % 4 == 0
  | .vldq _ _ _ => true
  | .vstq _ _ _ => true
  | .vgath _ _ _ ord scope => loadOrder ord scope && scope != .system
  | .vscat v _ _ ord scope => v.val % 2 == 0 && storeOrder ord scope && scope != .system
  | .vlds _ _ _ _ => true
  | .vcvtfi _ _ => true
  | .vcvtif _ _ => true
  | .vpkbf _ _ _ _ => true
  | .vupbf _ _ _ => true
  | .vdec8 _ va _ _ => vgroup va 4
  | .vdec6 _ va _ _ => vgroup va 3
  | .venc8 _ _ _ _ => true
  | .venc6 _ _ _ _ => true
  | .vexp2 _ _ => true
  | .vlog2 _ _ => true
  | .vrcp _ _ => true
  | .vrsq _ _ => true
  | .vtanh _ _ => true
  | .vsmx vd _ => vd.val % 2 == 0 && vgroup vd 2
  | .vsmxap _ _ vb => vb.val % 2 == 0 && vgroup vb 2
  | .tshape _ esel => 2 ≤ esel.toNat && esel.toNat ≤ 9
  | .tgeom rb esel => evenReg rb && below esel 8
  | .mma qa qb esel => qa != qb && counterField esel
  | .mmaw qa qb esel => qa != qb && counterField esel
  | .tqnt esel => counterField esel
  | .tdqnt esel => counterField esel
  | .tstpair esel => counterField esel
  | .tdecay slot esel => slot.val == 0 && counterField esel
  | .tdecaySweep _ esel => counterField esel
  | .tdecayDrop _ esel => counterField esel
  | .tsadd esel => counterField esel
  | .tnorm _ esel => counterField esel
  | .tscl n _ esel => below esel 64 && esel.toNat + (n.toNat + 1) ≤ 64
  | .tfact _ _ => true
  | .qcfg _ rp => evenReg rp
  | .qwaitf _ n ra => n == 0 || ra == 0
  | .qwaite _ n ra => n == 0 || ra == 0
  | .qadvh _ n ra => n == 0 || ra == 0
  | .qadvt _ n ra => n == 0 || ra == 0
  | .qstat _ _ => true
  | .qreset _ => true
  | .msend _ _ esel => below esel 64
  | .mput _ _ => true
  | .mget _ _ => true
  | .mamo ra _ _ esel => below esel 10 && (esel != 9 || evenReg ra)
  | .mbind rb esel => evenReg rb && below esel 64
  | .mrecv _ esel => below esel 8
  | .fscfg _ esel => below esel 4
  | .fsum _ esel => below esel 4
  | .fsraise _ esel => below esel 4
  | .fsres _ _ esel => below esel 4
  | .cbcast _ esel => below esel 4
  | .cjoin _ esel => below esel 4
  | .cskim _ _ _ _ => true
  | .ccut _ esel => below esel 4
  | .cgath _ esel => below esel 4
  | .cprec _ _ esel => below esel 4
  | .cadd _ _ esel => below esel 63
  | .cwait _ _ _ esel => below esel 64
  | .cread rd esel => evenReg rd && below esel 64
  | .craise _ _ _ esel => below esel 63
  | .cbrk esel => below esel 63
  | .ctest _ _ esel => below esel 64
  | .fence _ => true
  | .fencee => true
  | .barcfg rb esel => evenReg rb && below esel 8
  | .barrive _ esel => below esel 8
  | .barwait _ _ esel => below esel 8
  | .bartap _ _ => true
  | .stepadv => true
  | .steprd _ => true
  | .erinit rb esel => evenReg rb && below esel 32
  | .erdone _ => true
  | .erpass => true
  | .erhalt => true
  | .erchk _ esel => below esel 32
  | .erstat _ esel => below esel 32
  | .sgeom rb esel => below esel 9 && (esel == 8 || evenReg rb)
  | .scopy _ _ esel => below esel 8
  | .sload _ _ esel => below esel 8
  | .sstore _ _ esel => below esel 8
  | .sfeed _ esel => below esel 8
  | .sdrain _ esel => below esel 8
  | .sred _ _ esel => below esel 8
  | .sxput _ _ esel => below esel 8
  | .sbar _ => true
  | .scancel esel => below esel 8
  | .sresume esel => below esel 8
  | .sstat _ _ esel => below esel 8
  | .simg _ _ esel => below esel 8
  | .mergedContribution _ => true
  | .flitArrives _ => true
  | .acknowledge _ => true
  | .submit _ => true
  | .queueEnable _ => true
  | .registerWrite _ _ => true
  | .governor _ => true
  | .powerSample _ _ => true
  | .fieldSelfTest _ => true
  | .illegalEncoding _ => true
  | .instructionFetchFault _ _ => true
  | .meshLinkLoss _ => true
  | .asyncFault => true
  | .wake => true
  | .caddPerformed => true
  | .injection => true
  | .requestArrival => true
  | .sendServed => true
  | .putServed => true
  | .getServed => true
  | .amoServed => true
  | .ackLands => true
  | .getrLands => true
  | .amorLands => true
  | .nackLands => true
  | .sumLands => true
  | .renupLands => true
  | .rendnLands => true
  | .sumDoneLands => true
  | .sumFailLands => true
  | .openLands => true
  | .trainDataBeat => true
  | .endLands => true
  | .cutLands => true
  | .trainDone => true
  | .stepBeat => true
  | .arrivalBeat => true
  | .releaseBeat => true
  | .barrierArrivalSent => true
  | .handshakeLands => true
  | .mismatchBeat => true
  | .flipLands => true
  | .haltLands => true
  | .fire => true
  | .waveFrame => true
  | .creditLands => true
  | .creditReset => true
  | .failFrame => true
  | .tensorStart => true
  | .mmaRow => true
  | .tensorComplete => true
  | .decaySweep => true
  | .streamActivate => true
  | .granule => true
  | .streamEnd => true
  | .homePortAccess => true
  | .windowContribution => true
  | .holdTimeExpiry => true
  | .lossOfLock => true
  | .retrainComplete => true
  | .retrainTimeout => true
  | .queueDisable => true
  | .launchRecord => true
  | .launchPlacement => true
  | .launchStart => true
  | .launchComplete => true
  | .preempt => true
  | .drainDone => true
  | .resume => true
  | .pageEviction => true
  | .pageRestore => true
  | .configurePartitions => true
  | .invalidateTranslations => true
  | .writeReductionWindow => true
  | .cancelLaunch => true
  | .retireAsid => true
  | .attest => true
  | .extend => true
  | .progressWatchdog => true
  | .coolantFault => true
  | .fieldLoss => true
  | .powerOnReset => true
  | .go => true
  | .vectorEnginePerform => true
  | .flitReplay => true

/-- The rows of the opcode table that have an encoding. -/
def Instr.encoded : Instr → Bool
  | .add _ _ _ => true
  | .sub _ _ _ => true
  | .and _ _ _ => true
  | .or _ _ _ => true
  | .xor _ _ _ => true
  | .andn _ _ _ => true
  | .shl _ _ _ => true
  | .shr _ _ _ => true
  | .sra _ _ _ => true
  | .rotl _ _ _ => true
  | .slt _ _ _ => true
  | .sltn _ _ _ => true
  | .min _ _ _ => true
  | .max _ _ _ => true
  | .minn _ _ _ => true
  | .maxn _ _ _ => true
  | .mul _ _ _ => true
  | .mulh _ _ _ => true
  | .mulhn _ _ _ => true
  | .div _ _ _ => true
  | .divn _ _ _ => true
  | .rem _ _ _ => true
  | .remn _ _ _ => true
  | .clz _ _ => true
  | .ctz _ _ => true
  | .popc _ _ => true
  | .bext _ _ _ => true
  | .bins _ _ _ => true
  | .addi _ _ _ => true
  | .andi _ _ _ => true
  | .ori _ _ _ => true
  | .xori _ _ _ => true
  | .slti _ _ _ => true
  | .sltni _ _ _ => true
  | .lui _ _ => true
  | .shli _ _ _ => true
  | .shri _ _ _ => true
  | .srai _ _ _ => true
  | .lb _ _ _ _ _ => true
  | .lbn _ _ _ _ _ => true
  | .lh _ _ _ _ _ => true
  | .lhn _ _ _ _ _ => true
  | .lw _ _ _ _ _ => true
  | .ld _ _ _ _ _ => true
  | .sb _ _ _ _ _ => true
  | .sh _ _ _ _ _ => true
  | .sw _ _ _ _ _ => true
  | .sd _ _ _ _ _ => true
  | .amoadd _ _ _ _ _ => true
  | .amoand _ _ _ _ _ => true
  | .amoor _ _ _ _ _ => true
  | .amoxor _ _ _ _ _ => true
  | .amomin _ _ _ _ _ => true
  | .amomax _ _ _ _ _ => true
  | .amominn _ _ _ _ _ => true
  | .amomaxn _ _ _ _ _ => true
  | .amoswp _ _ _ _ _ => true
  | .amocas _ _ _ _ _ => true
  | .beq _ _ _ => true
  | .bne _ _ _ => true
  | .blt _ _ _ => true
  | .bge _ _ _ => true
  | .bltn _ _ _ => true
  | .bgen _ _ _ => true
  | .jal _ _ => true
  | .jalr _ _ _ => true
  | .tdone => true
  | .tyield => true
  | .tspawn _ _ => true
  | .trap _ => true
  | .tret => true
  | .mfs _ _ => true
  | .mts _ _ => true
  | .breakpt _ => true
  | .vaddF _ _ _ => true
  | .vsubF _ _ _ => true
  | .vmulF _ _ _ => true
  | .vfmaF _ _ _ _ => true
  | .vfmsF _ _ _ _ => true
  | .vminF _ _ _ => true
  | .vmaxF _ _ _ => true
  | .vabsF _ _ => true
  | .vcltF _ _ _ => true
  | .vceqF _ _ _ => true
  | .vcleF _ _ _ => true
  | .vaddI _ _ _ => true
  | .vsubI _ _ _ => true
  | .vmulI _ _ _ => true
  | .vminI _ _ _ => true
  | .vmaxI _ _ _ => true
  | .vand _ _ _ => true
  | .vor _ _ _ => true
  | .vxor _ _ _ => true
  | .vshl _ _ _ => true
  | .vshr _ _ _ => true
  | .vsra _ _ _ => true
  | .vcltI _ _ _ => true
  | .vceqI _ _ _ => true
  | .vsel _ _ _ _ => true
  | .vmask _ _ _ => true
  | .vshuf _ _ _ => true
  | .vbcast _ _ _ => true
  | .vext _ _ _ _ => true
  | .vraddF _ _ => true
  | .vrmaxF _ _ => true
  | .vraddI _ _ => true
  | .vld _ _ _ _ _ => true
  | .vst _ _ _ _ _ => true
  | .vldt _ _ _ => true
  | .vldq _ _ _ => true
  | .vstq _ _ _ => true
  | .vgath _ _ _ _ _ => true
  | .vscat _ _ _ _ _ => true
  | .vlds _ _ _ _ => true
  | .vcvtfi _ _ => true
  | .vcvtif _ _ => true
  | .vpkbf _ _ _ _ => true
  | .vupbf _ _ _ => true
  | .vdec8 _ _ _ _ => true
  | .vdec6 _ _ _ _ => true
  | .venc8 _ _ _ _ => true
  | .venc6 _ _ _ _ => true
  | .vexp2 _ _ => true
  | .vlog2 _ _ => true
  | .vrcp _ _ => true
  | .vrsq _ _ => true
  | .vtanh _ _ => true
  | .vsmx _ _ => true
  | .vsmxap _ _ _ => true
  | .tshape _ _ => true
  | .tgeom _ _ => true
  | .mma _ _ _ => true
  | .mmaw _ _ _ => true
  | .tqnt _ => true
  | .tdqnt _ => true
  | .tstpair _ => true
  | .tdecay _ _ => true
  | .tdecaySweep _ _ => true
  | .tdecayDrop _ _ => true
  | .tsadd _ => true
  | .tnorm _ _ => true
  | .tscl _ _ _ => true
  | .tfact _ _ => true
  | .qcfg _ _ => true
  | .qwaitf _ _ _ => true
  | .qwaite _ _ _ => true
  | .qadvh _ _ _ => true
  | .qadvt _ _ _ => true
  | .qstat _ _ => true
  | .qreset _ => true
  | .msend _ _ _ => true
  | .mput _ _ => true
  | .mget _ _ => true
  | .mamo _ _ _ _ => true
  | .mbind _ _ => true
  | .mrecv _ _ => true
  | .fscfg _ _ => true
  | .fsum _ _ => true
  | .fsraise _ _ => true
  | .fsres _ _ _ => true
  | .cbcast _ _ => true
  | .cjoin _ _ => true
  | .cskim _ _ _ _ => true
  | .ccut _ _ => true
  | .cgath _ _ => true
  | .cprec _ _ _ => true
  | .cadd _ _ _ => true
  | .cwait _ _ _ _ => true
  | .cread _ _ => true
  | .craise _ _ _ _ => true
  | .cbrk _ => true
  | .ctest _ _ _ => true
  | .fence _ => true
  | .fencee => true
  | .barcfg _ _ => true
  | .barrive _ _ => true
  | .barwait _ _ _ => true
  | .bartap _ _ => true
  | .stepadv => true
  | .steprd _ => true
  | .erinit _ _ => true
  | .erdone _ => true
  | .erpass => true
  | .erhalt => true
  | .erchk _ _ => true
  | .erstat _ _ => true
  | .sgeom _ _ => true
  | .scopy _ _ _ => true
  | .sload _ _ _ => true
  | .sstore _ _ _ => true
  | .sfeed _ _ => true
  | .sdrain _ _ => true
  | .sred _ _ _ => true
  | .sxput _ _ _ => true
  | .sbar _ => true
  | .scancel _ => true
  | .sresume _ => true
  | .sstat _ _ _ => true
  | .simg _ _ _ => true
  | .mergedContribution _ => false
  | .flitArrives _ => false
  | .acknowledge _ => false
  | .submit _ => false
  | .queueEnable _ => false
  | .registerWrite _ _ => false
  | .governor _ => false
  | .powerSample _ _ => false
  | .fieldSelfTest _ => false
  | .illegalEncoding _ => false
  | .instructionFetchFault _ _ => false
  | .meshLinkLoss _ => false
  | .asyncFault => false
  | .wake => false
  | .caddPerformed => false
  | .injection => false
  | .requestArrival => false
  | .sendServed => false
  | .putServed => false
  | .getServed => false
  | .amoServed => false
  | .ackLands => false
  | .getrLands => false
  | .amorLands => false
  | .nackLands => false
  | .sumLands => false
  | .renupLands => false
  | .rendnLands => false
  | .sumDoneLands => false
  | .sumFailLands => false
  | .openLands => false
  | .trainDataBeat => false
  | .endLands => false
  | .cutLands => false
  | .trainDone => false
  | .stepBeat => false
  | .arrivalBeat => false
  | .releaseBeat => false
  | .barrierArrivalSent => false
  | .handshakeLands => false
  | .mismatchBeat => false
  | .flipLands => false
  | .haltLands => false
  | .fire => false
  | .waveFrame => false
  | .creditLands => false
  | .creditReset => false
  | .failFrame => false
  | .tensorStart => false
  | .mmaRow => false
  | .tensorComplete => false
  | .decaySweep => false
  | .streamActivate => false
  | .granule => false
  | .streamEnd => false
  | .homePortAccess => false
  | .windowContribution => false
  | .holdTimeExpiry => false
  | .lossOfLock => false
  | .retrainComplete => false
  | .retrainTimeout => false
  | .queueDisable => false
  | .launchRecord => false
  | .launchPlacement => false
  | .launchStart => false
  | .launchComplete => false
  | .preempt => false
  | .drainDone => false
  | .resume => false
  | .pageEviction => false
  | .pageRestore => false
  | .configurePartitions => false
  | .invalidateTranslations => false
  | .writeReductionWindow => false
  | .cancelLaunch => false
  | .retireAsid => false
  | .attest => false
  | .extend => false
  | .progressWatchdog => false
  | .coolantFault => false
  | .fieldLoss => false
  | .powerOnReset => false
  | .go => false
  | .vectorEnginePerform => false
  | .flitReplay => false

end Sys2Proof
end

