-- ==== Sys2Proof/Decode.lean ====
section
/-!
DEFINITION. From words to instructions and back (R73 to R87): the word of each format, one reader and one writer for
each operand shape, the opcode map, and the decoder and encoder made of them. Bit ranges are those of the format tables
of the spec; every field an instruction does not use must be zero (R79).
-/
namespace Sys2Proof

/-! ## The formats -/

/-- Format A: op, d, a, b, lit, fn9. -/
def wordA (op : BitVec 6) (d a b : BitVec 5) (lit : BitVec 2) (fn : BitVec 9) : Word :=
  BitVec.cast rfl (op ++ d ++ a ++ b ++ lit ++ fn)

/-- Format A of the AMO major: fn9 holds operation, order and scope (R84). -/
def wordAmo (d a b : BitVec 5) (lit : BitVec 2) (code : BitVec 4) (ord : BitVec 2) (scope : BitVec 3) : Word :=
  BitVec.cast rfl ((0x1C : BitVec 6) ++ d ++ a ++ b ++ lit ++ code ++ ord ++ scope)

/-- Format I: op, d, a, imm16. -/
def wordI (op : BitVec 6) (d a : BitVec 5) (imm : BitVec 16) : Word :=
  BitVec.cast rfl (op ++ d ++ a ++ imm)

/-- Format I of the SYS major: imm16 holds function and number (R81, R86). -/
def wordS (d a : BitVec 5) (fn : BitVec 4) (num : BitVec 12) : Word :=
  BitVec.cast rfl ((0x24 : BitVec 6) ++ d ++ a ++ fn ++ num)

/-- Format M: op, d or s, a, ord, scope, off11. -/
def wordM (op : BitVec 6) (d a : BitVec 5) (ord : BitVec 2) (scope : BitVec 3) (off : BitVec 11) : Word :=
  BitVec.cast rfl (op ++ d ++ a ++ ord ++ scope ++ off)

/-- Format B: op, a, b, cond, off13. -/
def wordB (a b : BitVec 5) (cond : BitVec 3) (off : BitVec 13) : Word :=
  BitVec.cast rfl ((0x20 : BitVec 6) ++ a ++ b ++ cond ++ off)

/-- Format J: op, d, off21. -/
def wordJ (d : BitVec 5) (off : BitVec 21) : Word :=
  BitVec.cast rfl ((0x21 : BitVec 6) ++ d ++ off)

/-- Format V: op, vd, va, vb, vc, lit, vfn. -/
def wordV (op : BitVec 6) (d a b c : BitVec 4) (lit : BitVec 2) (fn : BitVec 8) : Word :=
  BitVec.cast rfl (op ++ d ++ a ++ b ++ c ++ lit ++ fn)

/-- Format VM: op, v, xa, xb, ord, scope, vfn. -/
def wordVM (v : BitVec 4) (a b : BitVec 5) (ord scope : BitVec 2) (fn : BitVec 8) : Word :=
  BitVec.cast rfl ((0x29 : BitVec 6) ++ v ++ a ++ b ++ ord ++ scope ++ fn)

/-- Format Q: op, q, n8, xa, fn9. -/
def wordQ (q : BitVec 4) (n : BitVec 8) (a : BitVec 5) (fn : BitVec 9) : Word :=
  BitVec.cast rfl ((0x31 : BitVec 6) ++ q ++ n ++ a ++ fn)

/-- Format E: op, xa, xb, scope, function, esel. -/
def wordE (op : BitVec 6) (a b : BitVec 5) (scope : BitVec 3) (fn : BitVec 5) (esel : BitVec 8) : Word :=
  BitVec.cast rfl (op ++ a ++ b ++ scope ++ fn ++ esel)

/-! ## Small codes -/

/-- The order code of R84. -/
def ordBits : MemOrd → BitVec 2
  | .plain => 0 | .aq => 1 | .rl => 2 | .ar => 3

def ordOf (b : BitVec 2) : MemOrd :=
  match b.toNat with
  | 0 => .plain | 1 => .aq | 2 => .rl | _ => .ar

/-- The scope code of R7. -/
def scopeBits : Scope → BitVec 3
  | .task => 0 | .core => 1 | .die => 2 | .device => 3 | .system => 4

/-- Codes 0b101 to 0b111 name no scope (R7). -/
def scopeOf (b : BitVec 3) : Option Scope :=
  match b.toNat with
  | 0 => some .task | 1 => some .core | 2 => some .die | 3 => some .device | 4 => some .system | _ => none

/-- The 2-bit scope code of format VM (R7). -/
def scopeBits2 : Scope → BitVec 2
  | .task => 0 | .core => 1 | .die => 2 | .device => 3 | .system => 0

def scopeOf2 (b : BitVec 2) : Scope :=
  match b.toNat with
  | 0 => .task | 1 => .core | 2 => .die | _ => .device

/-- Operand b under the lit field (R80): a register, or the literal word when field b is zero. -/
def srcOf (lit : BitVec 2) (b : BitVec 5) (l1 : Word) : Option Src :=
  if lit = 0 then some (.reg b.toFin) else if lit = 1 ∧ b = 0 then some (.lit l1) else none

/-- Operand b of AMOCAS (R80, R128). -/
def pairOf (lit : BitVec 2) (b : BitVec 5) (l1 l2 : Word) : Option PairSrc :=
  if lit = 0 then some (.pair b.toFin) else if lit = 2 ∧ b = 0 then some (.lit (l2 ++ l1)) else none

/-- Operand vb under the lit field of format V (R83). -/
def vsrcOf (lit : BitVec 2) (b : BitVec 4) (l1 : Word) : Option VSrc :=
  if lit = 0 then some (.reg b.toFin) else if lit = 1 ∧ b = 0 then some (.lit l1) else none

/-- The lit field, field b and literal words of an operand b. -/
def srcLit : Src → BitVec 2
  | .reg _ => 0 | .lit _ => 1
def srcReg : Src → BitVec 5
  | .reg r => BitVec.ofFin r | .lit _ => 0
def srcWords : Src → List Word
  | .reg _ => [] | .lit v => [v]
def pairLit : PairSrc → BitVec 2
  | .pair _ => 0 | .lit _ => 2
def pairReg : PairSrc → BitVec 5
  | .pair r => BitVec.ofFin r | .lit _ => 0
def pairWords : PairSrc → List Word
  | .pair _ => [] | .lit v => [v.extractLsb' 0 32, v.extractLsb' 32 32]
def vsrcLit : VSrc → BitVec 2
  | .reg _ => 0 | .lit _ => 1
def vsrcReg : VSrc → BitVec 4
  | .reg r => BitVec.ofFin r | .lit _ => 0
def vsrcWords : VSrc → List Word
  | .reg _ => [] | .lit v => [v]

def bitOf (b : Bool) : BitVec 1 := if b then 1 else 0

/-! ## One reader and one writer for each operand shape -/

/-- The word of xd, xa and operand b (R80). -/
def encA3 (fn : BitVec 9) (d a : XReg) (b : Src) : Word :=
  wordA 1 (BitVec.ofFin d) (BitVec.ofFin a) (srcReg b) (srcLit b) fn

def decA3 (w l1 : Word) (c : XReg → XReg → Src → Instr) : Option Instr :=
  (srcOf (w.extractLsb' 9 2) (w.extractLsb' 11 5) l1).map (c (w.extractLsb' 21 5).toFin (w.extractLsb' 16 5).toFin)

/-- The word of xd and xa: fields b and lit are zero. -/
def encA2 (fn : BitVec 9) (d a : XReg) : Word :=
  wordA 1 (BitVec.ofFin d) (BitVec.ofFin a) 0 0 fn

def decA2 (w : Word) (c : XReg → XReg → Instr) : Option Instr :=
  if w.extractLsb' 11 5 = 0 ∧ w.extractLsb' 9 2 = 0 then some (c (w.extractLsb' 21 5).toFin (w.extractLsb' 16 5).toFin) else none

/-- The word of xd, xa and imm16. -/
def encI (op : BitVec 6) (d a : XReg) (imm : BitVec 16) : Word :=
  wordI op (BitVec.ofFin d) (BitVec.ofFin a) imm

def decI (w : Word) (c : XReg → XReg → BitVec 16 → Instr) : Option Instr :=
  some (c (w.extractLsb' 21 5).toFin (w.extractLsb' 16 5).toFin (w.extractLsb' 0 16))

/-- The word of xd and imm16: field a is zero. -/
def encLUI (op : BitVec 6) (d : XReg) (imm : BitVec 16) : Word :=
  wordI op (BitVec.ofFin d) 0 imm

def decLUI (w : Word) (c : XReg → BitVec 16 → Instr) : Option Instr :=
  if w.extractLsb' 16 5 = 0 then some (c (w.extractLsb' 21 5).toFin (w.extractLsb' 0 16)) else none

/-- The word of xd, xa and a shift amount: imm16[15:5] is zero. -/
def encSHI (op : BitVec 6) (d a : XReg) (sh : BitVec 5) : Word :=
  wordI op (BitVec.ofFin d) (BitVec.ofFin a) (BitVec.cast rfl ((0 : BitVec 11) ++ sh))

def decSHI (w : Word) (c : XReg → XReg → BitVec 5 → Instr) : Option Instr :=
  if w.extractLsb' 5 11 = 0 then some (c (w.extractLsb' 21 5).toFin (w.extractLsb' 16 5).toFin (w.extractLsb' 0 5)) else none

/-- The word of a load or store. -/
def encM (op : BitVec 6) (d a : XReg) (ord : MemOrd) (scope : Scope) (off : BitVec 11) : Word :=
  wordM op (BitVec.ofFin d) (BitVec.ofFin a) (ordBits ord) (scopeBits scope) off

def decM (w : Word) (c : XReg → XReg → MemOrd → Scope → BitVec 11 → Instr) : Option Instr :=
  (scopeOf (w.extractLsb' 11 3)).map fun s =>
    c (w.extractLsb' 21 5).toFin (w.extractLsb' 16 5).toFin (ordOf (w.extractLsb' 14 2)) s (w.extractLsb' 0 11)

/-- The word of an atomic. -/
def encAMO (code : BitVec 4) (d a : XReg) (b : Src) (ord : MemOrd) (scope : Scope) : Word :=
  wordAmo (BitVec.ofFin d) (BitVec.ofFin a) (srcReg b) (srcLit b) code (ordBits ord) (scopeBits scope)

def decAMO (w l1 : Word) (c : XReg → XReg → Src → MemOrd → Scope → Instr) : Option Instr :=
  (srcOf (w.extractLsb' 9 2) (w.extractLsb' 11 5) l1).bind fun b => (scopeOf (w.extractLsb' 0 3)).map fun s =>
    c (w.extractLsb' 21 5).toFin (w.extractLsb' 16 5).toFin b (ordOf (w.extractLsb' 3 2)) s

/-- The word of AMOCAS. -/
def encCAS (code : BitVec 4) (d a : XReg) (b : PairSrc) (ord : MemOrd) (scope : Scope) : Word :=
  wordAmo (BitVec.ofFin d) (BitVec.ofFin a) (pairReg b) (pairLit b) code (ordBits ord) (scopeBits scope)

def decCAS (w l1 l2 : Word) (c : XReg → XReg → PairSrc → MemOrd → Scope → Instr) : Option Instr :=
  (pairOf (w.extractLsb' 9 2) (w.extractLsb' 11 5) l1 l2).bind fun b => (scopeOf (w.extractLsb' 0 3)).map fun s =>
    c (w.extractLsb' 21 5).toFin (w.extractLsb' 16 5).toFin b (ordOf (w.extractLsb' 3 2)) s

/-- The word of a branch. -/
def encBR (cond : BitVec 3) (a b : XReg) (off : BitVec 13) : Word :=
  wordB (BitVec.ofFin a) (BitVec.ofFin b) cond off

def decBR (w : Word) (c : XReg → XReg → BitVec 13 → Instr) : Option Instr :=
  some (c (w.extractLsb' 21 5).toFin (w.extractLsb' 16 5).toFin (w.extractLsb' 0 13))

/-- The word of a jump. -/
def encJAL (d : XReg) (off : BitVec 21) : Word :=
  wordJ (BitVec.ofFin d) off

def decJAL (w : Word) (c : XReg → BitVec 21 → Instr) : Option Instr :=
  some (c (w.extractLsb' 21 5).toFin (w.extractLsb' 0 21))

/-- The word of a SYS function with no field. -/
def encS0 (fn : BitVec 4) : Word :=
  wordS 0 0 fn 0

def decS0 (w : Word) (c : Instr) : Option Instr :=
  if w.extractLsb' 21 5 = 0 ∧ w.extractLsb' 16 5 = 0 ∧ w.extractLsb' 0 12 = 0 then some c else none

/-- The word of a SYS function with xd and xa. -/
def encSDA (fn : BitVec 4) (d a : XReg) : Word :=
  wordS (BitVec.ofFin d) (BitVec.ofFin a) fn 0

def decSDA (w : Word) (c : XReg → XReg → Instr) : Option Instr :=
  if w.extractLsb' 0 12 = 0 then some (c (w.extractLsb' 21 5).toFin (w.extractLsb' 16 5).toFin) else none

/-- The word of a SYS function with a code. -/
def encSC (fn : BitVec 4) (code : BitVec 12) : Word :=
  wordS 0 0 fn code

def decSC (w : Word) (c : BitVec 12 → Instr) : Option Instr :=
  if w.extractLsb' 21 5 = 0 ∧ w.extractLsb' 16 5 = 0 then some (c (w.extractLsb' 0 12)) else none

/-- The word of a SYS function with xd and a number. -/
def encSMFS (fn : BitVec 4) (d : XReg) (num : BitVec 12) : Word :=
  wordS (BitVec.ofFin d) 0 fn num

def decSMFS (w : Word) (c : XReg → BitVec 12 → Instr) : Option Instr :=
  if w.extractLsb' 16 5 = 0 then some (c (w.extractLsb' 21 5).toFin (w.extractLsb' 0 12)) else none

/-- The word of a SYS function with xa and a number. -/
def encSMTS (fn : BitVec 4) (a : XReg) (num : BitVec 12) : Word :=
  wordS 0 (BitVec.ofFin a) fn num

def decSMTS (w : Word) (c : XReg → BitVec 12 → Instr) : Option Instr :=
  if w.extractLsb' 21 5 = 0 then some (c (w.extractLsb' 16 5).toFin (w.extractLsb' 0 12)) else none

/-- The word of vd, va and operand vb (R83). -/
def encV3 (fn : BitVec 8) (d a : VReg) (b : VSrc) : Word :=
  wordV 0x28 (BitVec.ofFin d) (BitVec.ofFin a) (vsrcReg b) 0 (vsrcLit b) fn

def decV3 (w l1 : Word) (c : VReg → VReg → VSrc → Instr) : Option Instr :=
  if w.extractLsb' 10 4 = 0 then
    (vsrcOf (w.extractLsb' 8 2) (w.extractLsb' 14 4) l1).map (c (w.extractLsb' 22 4).toFin (w.extractLsb' 18 4).toFin)
  else none

/-- The word of vd, va, operand vb and vc. -/
def encV4 (fn : BitVec 8) (d a : VReg) (b : VSrc) (vc : VReg) : Word :=
  wordV 0x28 (BitVec.ofFin d) (BitVec.ofFin a) (vsrcReg b) (BitVec.ofFin vc) (vsrcLit b) fn

def decV4 (w l1 : Word) (c : VReg → VReg → VSrc → VReg → Instr) : Option Instr :=
  (vsrcOf (w.extractLsb' 8 2) (w.extractLsb' 14 4) l1).map fun b =>
    c (w.extractLsb' 22 4).toFin (w.extractLsb' 18 4).toFin b (w.extractLsb' 10 4).toFin

/-- The word of vd and va. -/
def encV2 (op : BitVec 6) (fn : BitVec 8) (d a : VReg) : Word :=
  wordV op (BitVec.ofFin d) (BitVec.ofFin a) 0 0 0 fn

def decV2 (w : Word) (c : VReg → VReg → Instr) : Option Instr :=
  if w.extractLsb' 14 4 = 0 ∧ w.extractLsb' 10 4 = 0 ∧ w.extractLsb' 8 2 = 0 then
    some (c (w.extractLsb' 22 4).toFin (w.extractLsb' 18 4).toFin)
  else none

/-- The word of vd, va and a lane number in field vc. -/
def encVBC (fn : BitVec 8) (d a : VReg) (n : Fin 16) : Word :=
  wordV 0x28 (BitVec.ofFin d) (BitVec.ofFin a) 0 (BitVec.ofFin n) 0 fn

def decVBC (w : Word) (c : VReg → VReg → Fin 16 → Instr) : Option Instr :=
  if w.extractLsb' 14 4 = 0 ∧ w.extractLsb' 8 2 = 0 then
    some (c (w.extractLsb' 22 4).toFin (w.extractLsb' 18 4).toFin (w.extractLsb' 10 4).toFin)
  else none

/-- The word of a vector access with order and scope. -/
def encVM (fn : BitVec 8) (v : VReg) (a b : XReg) (ord : MemOrd) (scope : Scope) : Word :=
  wordVM (BitVec.ofFin v) (BitVec.ofFin a) (BitVec.ofFin b) (ordBits ord) (scopeBits2 scope) fn

def decVM (w : Word) (c : VReg → XReg → XReg → MemOrd → Scope → Instr) : Option Instr :=
  some (c (w.extractLsb' 22 4).toFin (w.extractLsb' 17 5).toFin (w.extractLsb' 12 5).toFin
    (ordOf (w.extractLsb' 10 2)) (scopeOf2 (w.extractLsb' 8 2)))

/-- The word of a vector access without order. -/
def encVM3 (fn : BitVec 8) (v : VReg) (a b : XReg) : Word :=
  wordVM (BitVec.ofFin v) (BitVec.ofFin a) (BitVec.ofFin b) 0 0 fn

def decVM3 (w : Word) (c : VReg → XReg → XReg → Instr) : Option Instr :=
  if w.extractLsb' 10 2 = 0 ∧ w.extractLsb' 8 2 = 0 then
    some (c (w.extractLsb' 22 4).toFin (w.extractLsb' 17 5).toFin (w.extractLsb' 12 5).toFin)
  else none

/-- The word of a vector access to a ring slot. -/
def encVMQ (fn : BitVec 8) (v : VReg) (q : RingNo) (b : XReg) : Word :=
  wordVM (BitVec.ofFin v) (BitVec.cast rfl ((0 : BitVec 1) ++ BitVec.ofFin (w := 4) q)) (BitVec.ofFin b) 0 0 fn

def decVMQ (w : Word) (c : VReg → RingNo → XReg → Instr) : Option Instr :=
  if w.extractLsb' 21 1 = 0 ∧ w.extractLsb' 10 2 = 0 ∧ w.extractLsb' 8 2 = 0 then
    some (c (w.extractLsb' 22 4).toFin (w.extractLsb' 17 4).toFin (w.extractLsb' 12 5).toFin)
  else none

/-- The word of VLDS: [10:8] names DFn. -/
def encVMS (fn : BitVec 8) (v : VReg) (a b : XReg) (df : Fin 8) : Word :=
  BitVec.cast rfl ((0x29 : BitVec 6) ++ BitVec.ofFin (w := 4) v ++ BitVec.ofFin (w := 5) a ++ BitVec.ofFin (w := 5) b ++ (0 : BitVec 1)
    ++ BitVec.ofFin (w := 3) df ++ fn)

def decVMS (w : Word) (c : VReg → XReg → XReg → Fin 8 → Instr) : Option Instr :=
  if w.extractLsb' 11 1 = 0 then
    some (c (w.extractLsb' 22 4).toFin (w.extractLsb' 17 5).toFin (w.extractLsb' 12 5).toFin (w.extractLsb' 8 3).toFin)
  else none

/-- The word of VPKBF: [10] is the rounding. -/
def encVPK (fn : BitVec 8) (d a b : VReg) (churn : Bool) : Word :=
  wordV 0x2A (BitVec.ofFin d) (BitVec.ofFin a) (BitVec.ofFin b) (BitVec.cast rfl ((0 : BitVec 3) ++ bitOf churn)) 0 fn

def decVPK (w : Word) (c : VReg → VReg → VReg → Bool → Instr) : Option Instr :=
  if w.extractLsb' 11 3 = 0 ∧ w.extractLsb' 8 2 = 0 then
    some (c (w.extractLsb' 22 4).toFin (w.extractLsb' 18 4).toFin (w.extractLsb' 14 4).toFin (w.extractLsb' 10 1 == 1))
  else none

/-- The word of VUPBF: [10] is the half. -/
def encVUP (fn : BitVec 8) (d a : VReg) (half : Bool) : Word :=
  wordV 0x2A (BitVec.ofFin d) (BitVec.ofFin a) 0 (BitVec.cast rfl ((0 : BitVec 3) ++ bitOf half)) 0 fn

def decVUP (w : Word) (c : VReg → VReg → Bool → Instr) : Option Instr :=
  if w.extractLsb' 14 4 = 0 ∧ w.extractLsb' 11 3 = 0 ∧ w.extractLsb' 8 2 = 0 then
    some (c (w.extractLsb' 22 4).toFin (w.extractLsb' 18 4).toFin (w.extractLsb' 10 1 == 1))
  else none

/-- The word of VDEC8 and VDEC6: field vc is the element. -/
def encVDEC (fn : BitVec 8) (d a b : VReg) (e : Fin 16) : Word :=
  wordV 0x2A (BitVec.ofFin d) (BitVec.ofFin a) (BitVec.ofFin b) (BitVec.ofFin e) 0 fn

def decVDEC (w : Word) (c : VReg → VReg → VReg → Fin 16 → Instr) : Option Instr :=
  if w.extractLsb' 8 2 = 0 then
    some (c (w.extractLsb' 22 4).toFin (w.extractLsb' 18 4).toFin (w.extractLsb' 14 4).toFin (w.extractLsb' 10 4).toFin)
  else none

/-- The word of VENC8 and VENC6: [16] is the mode and [15:10] the scale register. -/
def encVENC (fn : BitVec 8) (d a : VReg) (held : Bool) (sc : Fin 64) : Word :=
  BitVec.cast rfl ((0x2A : BitVec 6) ++ BitVec.ofFin (w := 4) d ++ BitVec.ofFin (w := 4) a ++ (0 : BitVec 1) ++ bitOf held
    ++ BitVec.ofFin (w := 6) sc ++ (0 : BitVec 2) ++ fn)

def decVENC (w : Word) (c : VReg → VReg → Bool → Fin 64 → Instr) : Option Instr :=
  if w.extractLsb' 17 1 = 0 ∧ w.extractLsb' 8 2 = 0 then
    some (c (w.extractLsb' 22 4).toFin (w.extractLsb' 18 4).toFin (w.extractLsb' 16 1 == 1) (w.extractLsb' 10 6).toFin)
  else none

/-- The word of VSMXAP: vd, va and vb. -/
def encV3R (fn : BitVec 8) (d a b : VReg) : Word :=
  wordV 0x2B (BitVec.ofFin d) (BitVec.ofFin a) (BitVec.ofFin b) 0 0 fn

def decV3R (w : Word) (c : VReg → VReg → VReg → Instr) : Option Instr :=
  if w.extractLsb' 10 4 = 0 ∧ w.extractLsb' 8 2 = 0 then
    some (c (w.extractLsb' 22 4).toFin (w.extractLsb' 18 4).toFin (w.extractLsb' 14 4).toFin)
  else none

/-- The word of a ring and an even pair. -/
def encQp (fn : BitVec 9) (q : RingNo) (a : XReg) : Word :=
  wordQ (BitVec.ofFin q) 0 (BitVec.ofFin a) fn

def decQp (w : Word) (c : RingNo → XReg → Instr) : Option Instr :=
  if w.extractLsb' 14 8 = 0 then some (c (w.extractLsb' 22 4).toFin (w.extractLsb' 9 5).toFin) else none

/-- The word of a ring and a count. -/
def encQn (fn : BitVec 9) (q : RingNo) (n : BitVec 8) (a : XReg) : Word :=
  wordQ (BitVec.ofFin q) n (BitVec.ofFin a) fn

def decQn (w : Word) (c : RingNo → BitVec 8 → XReg → Instr) : Option Instr :=
  some (c (w.extractLsb' 22 4).toFin (w.extractLsb' 14 8) (w.extractLsb' 9 5).toFin)

/-- The word of a ring alone. -/
def encQ0 (fn : BitVec 9) (q : RingNo) : Word :=
  wordQ (BitVec.ofFin q) 0 0 fn

def decQ0 (w : Word) (c : RingNo → Instr) : Option Instr :=
  if w.extractLsb' 14 8 = 0 ∧ w.extractLsb' 9 5 = 0 then some (c (w.extractLsb' 22 4).toFin) else none

/-- The word of xb and esel. -/
def encEbe (op : BitVec 6) (fn : BitVec 5) (b : XReg) (z : BitVec 8) : Word :=
  wordE op 0 (BitVec.ofFin b) 0 fn z

def decEbe (w : Word) (c : XReg → BitVec 8 → Instr) : Option Instr :=
  if w.extractLsb' 21 5 = 0 ∧ w.extractLsb' 13 3 = 0 then
    some (c (w.extractLsb' 16 5).toFin (w.extractLsb' 0 8))
  else none

/-- The word of two rings and esel. -/
def encEmma (op : BitVec 6) (fn : BitVec 5) (qa qb : RingNo) (z : BitVec 8) : Word :=
  wordE op (BitVec.cast rfl ((0 : BitVec 1) ++ BitVec.ofFin (w := 4) qa)) (BitVec.cast rfl ((0 : BitVec 1) ++ BitVec.ofFin (w := 4) qb)) 0 fn z

def decEmma (w : Word) (c : RingNo → RingNo → BitVec 8 → Instr) : Option Instr :=
  if w.extractLsb' 25 1 = 0 ∧ w.extractLsb' 20 1 = 0 ∧ w.extractLsb' 13 3 = 0 then
    some (c (w.extractLsb' 21 4).toFin (w.extractLsb' 16 4).toFin (w.extractLsb' 0 8))
  else none

/-- The word of esel alone. -/
def encEe (op : BitVec 6) (fn : BitVec 5) (z : BitVec 8) : Word :=
  wordE op 0 0 0 fn z

def decEe (w : Word) (c : BitVec 8 → Instr) : Option Instr :=
  if w.extractLsb' 21 5 = 0 ∧ w.extractLsb' 16 5 = 0 ∧ w.extractLsb' 13 3 = 0 then
    some (c (w.extractLsb' 0 8))
  else none

/-- The word of TDECAY: a slot in xa[1:0], the operation in xa[4:3]. -/
def encEtde (op : BitVec 6) (fn : BitVec 5) (op2 : BitVec 2) (slot : Fin 4) (z : BitVec 8) : Word :=
  wordE op (BitVec.cast rfl (op2 ++ (0 : BitVec 1) ++ BitVec.ofFin (w := 2) slot)) 0 0 fn z

def decEtde (w : Word) (c : Fin 4 → BitVec 8 → Instr) : Option Instr :=
  if w.extractLsb' 23 1 = 0 ∧ w.extractLsb' 16 5 = 0 ∧ w.extractLsb' 13 3 = 0 then
    some (c (w.extractLsb' 21 2).toFin (w.extractLsb' 0 8))
  else none

/-- The word of a count in field xa, xb and esel. -/
def encEnbe (op : BitVec 6) (fn : BitVec 5) (n : BitVec 5) (b : XReg) (z : BitVec 8) : Word :=
  wordE op n (BitVec.ofFin b) 0 fn z

def decEnbe (w : Word) (c : BitVec 5 → XReg → BitVec 8 → Instr) : Option Instr :=
  if w.extractLsb' 13 3 = 0 then
    some (c (w.extractLsb' 21 5) (w.extractLsb' 16 5).toFin (w.extractLsb' 0 8))
  else none

/-- The word of xb, scope and esel. -/
def encEbse (op : BitVec 6) (fn : BitVec 5) (b : XReg) (s : Scope) (z : BitVec 8) : Word :=
  wordE op 0 (BitVec.ofFin b) (scopeBits s) fn z

def decEbse (w : Word) (c : XReg → Scope → BitVec 8 → Instr) : Option Instr :=
  if w.extractLsb' 21 5 = 0 then (scopeOf (w.extractLsb' 13 3)).map fun s => c (w.extractLsb' 16 5).toFin s (w.extractLsb' 0 8) else none

/-- The word of xb and scope. -/
def encEbs (op : BitVec 6) (fn : BitVec 5) (b : XReg) (s : Scope) : Word :=
  wordE op 0 (BitVec.ofFin b) (scopeBits s) fn 0

def decEbs (w : Word) (c : XReg → Scope → Instr) : Option Instr :=
  if w.extractLsb' 21 5 = 0 ∧ w.extractLsb' 0 8 = 0 then (scopeOf (w.extractLsb' 13 3)).map fun s => c (w.extractLsb' 16 5).toFin s else none

/-- The word of xa, xb, scope and esel. -/
def encEabse (op : BitVec 6) (fn : BitVec 5) (a b : XReg) (s : Scope) (z : BitVec 8) : Word :=
  wordE op (BitVec.ofFin a) (BitVec.ofFin b) (scopeBits s) fn z

def decEabse (w : Word) (c : XReg → XReg → Scope → BitVec 8 → Instr) : Option Instr :=
  (scopeOf (w.extractLsb' 13 3)).map fun s => c (w.extractLsb' 21 5).toFin (w.extractLsb' 16 5).toFin s (w.extractLsb' 0 8)

/-- The word of xd and esel. -/
def encEde (op : BitVec 6) (fn : BitVec 5) (a : XReg) (z : BitVec 8) : Word :=
  wordE op (BitVec.ofFin a) 0 0 fn z

def decEde (w : Word) (c : XReg → BitVec 8 → Instr) : Option Instr :=
  if w.extractLsb' 16 5 = 0 ∧ w.extractLsb' 13 3 = 0 then
    some (c (w.extractLsb' 21 5).toFin (w.extractLsb' 0 8))
  else none

/-- The word of xd, xb and esel. -/
def encEdbe (op : BitVec 6) (fn : BitVec 5) (a b : XReg) (z : BitVec 8) : Word :=
  wordE op (BitVec.ofFin a) (BitVec.ofFin b) 0 fn z

def decEdbe (w : Word) (c : XReg → XReg → BitVec 8 → Instr) : Option Instr :=
  if w.extractLsb' 13 3 = 0 then
    some (c (w.extractLsb' 21 5).toFin (w.extractLsb' 16 5).toFin (w.extractLsb' 0 8))
  else none

/-- The word of CSKIM: esel holds vd and the tag. -/
def encEskim (op : BitVec 6) (fn : BitVec 5) (v : VReg) (a b : XReg) (t : Fin 4) : Word :=
  wordE op (BitVec.ofFin a) (BitVec.ofFin b) 0 fn (BitVec.cast rfl ((0 : BitVec 2) ++ BitVec.ofFin (w := 2) t ++ BitVec.ofFin (w := 4) v))

def decEskim (w : Word) (c : VReg → XReg → XReg → Fin 4 → Instr) : Option Instr :=
  if w.extractLsb' 13 3 = 0 ∧ w.extractLsb' 6 2 = 0 then
    some (c (w.extractLsb' 0 4).toFin (w.extractLsb' 21 5).toFin (w.extractLsb' 16 5).toFin (w.extractLsb' 4 2).toFin)
  else none

/-- The word of a scope alone. -/
def encEs (op : BitVec 6) (fn : BitVec 5) (s : Scope) : Word :=
  wordE op 0 0 (scopeBits s) fn 0

def decEs (w : Word) (c : Scope → Instr) : Option Instr :=
  if w.extractLsb' 21 5 = 0 ∧ w.extractLsb' 16 5 = 0 ∧ w.extractLsb' 0 8 = 0 then (scopeOf (w.extractLsb' 13 3)).map c else none

/-- The word of no field. -/
def encE0 (op : BitVec 6) (fn : BitVec 5) : Word :=
  wordE op 0 0 0 fn 0

def decE0 (w : Word) (c : Instr) : Option Instr :=
  if w.extractLsb' 21 5 = 0 ∧ w.extractLsb' 16 5 = 0 ∧ w.extractLsb' 13 3 = 0 ∧ w.extractLsb' 0 8 = 0 then some c else none

/-- The word of scope and esel. -/
def encEse (op : BitVec 6) (fn : BitVec 5) (s : Scope) (z : BitVec 8) : Word :=
  wordE op 0 0 (scopeBits s) fn z

def decEse (w : Word) (c : Scope → BitVec 8 → Instr) : Option Instr :=
  if w.extractLsb' 21 5 = 0 ∧ w.extractLsb' 16 5 = 0 then (scopeOf (w.extractLsb' 13 3)).map fun s => c s (w.extractLsb' 0 8) else none

/-- The word of BARTAP: esel holds barrier and slot. -/
def encEtap (op : BitVec 6) (fn : BitVec 5) (n t : Fin 8) : Word :=
  wordE op 0 0 0 fn (BitVec.cast rfl ((0 : BitVec 2) ++ BitVec.ofFin (w := 3) t ++ BitVec.ofFin (w := 3) n))

def decEtap (w : Word) (c : Fin 8 → Fin 8 → Instr) : Option Instr :=
  if w.extractLsb' 21 5 = 0 ∧ w.extractLsb' 16 5 = 0 ∧ w.extractLsb' 13 3 = 0 ∧ w.extractLsb' 6 2 = 0 then
    some (c (w.extractLsb' 0 3).toFin (w.extractLsb' 3 3).toFin)
  else none

/-- The word of xd alone. -/
def encEd (op : BitVec 6) (fn : BitVec 5) (a : XReg) : Word :=
  wordE op (BitVec.ofFin a) 0 0 fn 0

def decEd (w : Word) (c : XReg → Instr) : Option Instr :=
  if w.extractLsb' 16 5 = 0 ∧ w.extractLsb' 13 3 = 0 ∧ w.extractLsb' 0 8 = 0 then
    some (c (w.extractLsb' 21 5).toFin)
  else none

/-! ## The opcode map (R85, R86) -/

/-- The rows of major 0x01 by fn9. -/
def decodeAlu (w l1 : Word) : Option Instr :=
  match (w.extractLsb' 0 9).toNat with
  | 0 => decA3 w l1 .add
  | 1 => decA3 w l1 .sub
  | 2 => decA3 w l1 .and
  | 3 => decA3 w l1 .or
  | 4 => decA3 w l1 .xor
  | 5 => decA3 w l1 .andn
  | 6 => decA3 w l1 .shl
  | 7 => decA3 w l1 .shr
  | 8 => decA3 w l1 .sra
  | 9 => decA3 w l1 .rotl
  | 10 => decA3 w l1 .slt
  | 11 => decA3 w l1 .sltn
  | 12 => decA3 w l1 .min
  | 13 => decA3 w l1 .max
  | 14 => decA3 w l1 .minn
  | 15 => decA3 w l1 .maxn
  | 16 => decA3 w l1 .mul
  | 17 => decA3 w l1 .mulh
  | 18 => decA3 w l1 .mulhn
  | 19 => decA3 w l1 .div
  | 20 => decA3 w l1 .divn
  | 21 => decA3 w l1 .rem
  | 22 => decA3 w l1 .remn
  | 23 => decA2 w .clz
  | 24 => decA2 w .ctz
  | 25 => decA2 w .popc
  | 26 => decA3 w l1 .bext
  | 27 => decA3 w l1 .bins
  | _ => none

/-- The rows of major 0x1C by fn9[8:5]. -/
def decodeAmo (w l1 l2 : Word) : Option Instr :=
  match (w.extractLsb' 5 4).toNat with
  | 0 => decAMO w l1 .amoadd
  | 1 => decAMO w l1 .amoand
  | 2 => decAMO w l1 .amoor
  | 3 => decAMO w l1 .amoxor
  | 4 => decAMO w l1 .amomin
  | 5 => decAMO w l1 .amomax
  | 6 => decAMO w l1 .amominn
  | 7 => decAMO w l1 .amomaxn
  | 8 => decAMO w l1 .amoswp
  | 9 => decCAS w l1 l2 .amocas
  | _ => none

/-- The rows of major 0x20 by cond. -/
def decodeBranch (w : Word) : Option Instr :=
  match (w.extractLsb' 13 3).toNat with
  | 0 => decBR w .beq
  | 1 => decBR w .bne
  | 2 => decBR w .blt
  | 3 => decBR w .bge
  | 4 => decBR w .bltn
  | 5 => decBR w .bgen
  | _ => none

/-- The rows of major 0x24 by imm16[15:12]. -/
def decodeSys (w : Word) : Option Instr :=
  match (w.extractLsb' 12 4).toNat with
  | 0 => decS0 w .tdone
  | 1 => decS0 w .tyield
  | 2 => decSDA w .tspawn
  | 3 => decSC w .trap
  | 4 => decS0 w .tret
  | 5 => decSMFS w .mfs
  | 6 => decSMTS w .mts
  | 7 => decSC w .breakpt
  | _ => none

/-- The rows of major 0x28 by vfn. -/
def decodeVop (w l1 : Word) : Option Instr :=
  match (w.extractLsb' 0 8).toNat with
  | 0 => decV3 w l1 .vaddF
  | 1 => decV3 w l1 .vsubF
  | 2 => decV3 w l1 .vmulF
  | 3 => decV4 w l1 .vfmaF
  | 4 => decV4 w l1 .vfmsF
  | 5 => decV3 w l1 .vminF
  | 6 => decV3 w l1 .vmaxF
  | 7 => decV2 w .vabsF
  | 8 => decV3 w l1 .vcltF
  | 9 => decV3 w l1 .vceqF
  | 10 => decV3 w l1 .vcleF
  | 11 => decV3 w l1 .vaddI
  | 12 => decV3 w l1 .vsubI
  | 13 => decV3 w l1 .vmulI
  | 14 => decV3 w l1 .vminI
  | 15 => decV3 w l1 .vmaxI
  | 16 => decV3 w l1 .vand
  | 17 => decV3 w l1 .vor
  | 18 => decV3 w l1 .vxor
  | 19 => decV3 w l1 .vshl
  | 20 => decV3 w l1 .vshr
  | 21 => decV3 w l1 .vsra
  | 22 => decV3 w l1 .vcltI
  | 23 => decV3 w l1 .vceqI
  | 24 => decV4 w l1 .vsel
  | 25 => decV3 w l1 .vmask
  | 26 => decV3 w l1 .vshuf
  | 27 => decVBC w .vbcast
  | 28 => decV4 w l1 .vext
  | 29 => decV2 w .vraddF
  | 30 => decV2 w .vrmaxF
  | 31 => decV2 w .vraddI
  | _ => none

/-- The rows of major 0x29 by vfn. -/
def decodeVmem (w : Word) : Option Instr :=
  match (w.extractLsb' 0 8).toNat with
  | 0 => decVM w .vld
  | 1 => decVM w .vst
  | 2 => decVM3 w .vldt
  | 3 => decVMQ w .vldq
  | 4 => decVMQ w .vstq
  | 5 => decVM w .vgath
  | 6 => decVM w .vscat
  | 7 => decVMS w .vlds
  | _ => none

/-- The rows of major 0x2A by vfn. -/
def decodeVcvt (w : Word) : Option Instr :=
  match (w.extractLsb' 0 8).toNat with
  | 0 => decV2 w .vcvtfi
  | 1 => decV2 w .vcvtif
  | 2 => decVPK w .vpkbf
  | 3 => decVUP w .vupbf
  | 4 => decVDEC w .vdec8
  | 5 => decVDEC w .vdec6
  | 6 => decVENC w .venc8
  | 7 => decVENC w .venc6
  | _ => none

/-- The rows of major 0x2B by vfn. -/
def decodeVspc (w : Word) : Option Instr :=
  match (w.extractLsb' 0 8).toNat with
  | 0 => decV2 w .vexp2
  | 1 => decV2 w .vlog2
  | 2 => decV2 w .vrcp
  | 3 => decV2 w .vrsq
  | 4 => decV2 w .vtanh
  | 5 => decV2 w .vsmx
  | 6 => decV3R w .vsmxap
  | _ => none

/-- The rows of major 0x30 by function. -/
def decodeTen (w : Word) : Option Instr :=
  match (w.extractLsb' 8 5).toNat with
  | 0 => decEbe w .tshape
  | 1 => decEbe w .tgeom
  | 2 => decEmma w .mma
  | 3 => decEmma w .mmaw
  | 4 => decEe w .tqnt
  | 5 => decEe w .tdqnt
  | 6 => decEe w .tstpair
  | 7 =>
    match (w.extractLsb' 24 2).toNat with
    | 0 => decEtde w .tdecay
    | 1 => decEtde w .tdecaySweep
    | 2 => decEtde w .tdecayDrop
    | _ => none
  | 8 => decEe w .tsadd
  | 9 => decEbe w .tnorm
  | 10 => decEnbe w .tscl
  | 11 => decEbe w .tfact
  | _ => none

/-- The rows of major 0x31 by fn9. -/
def decodeRing (w : Word) : Option Instr :=
  match (w.extractLsb' 0 9).toNat with
  | 0 => decQp w .qcfg
  | 1 => decQn w .qwaitf
  | 2 => decQn w .qwaite
  | 3 => decQn w .qadvh
  | 4 => decQn w .qadvt
  | 5 => decQp w .qstat
  | 6 => decQ0 w .qreset
  | _ => none

/-- The rows of major 0x34 by function. -/
def decodeMsg (w : Word) : Option Instr :=
  match (w.extractLsb' 8 5).toNat with
  | 0 => decEbse w .msend
  | 1 => decEbs w .mput
  | 2 => decEbs w .mget
  | 3 => decEabse w .mamo
  | 4 => decEbe w .mbind
  | 5 => decEde w .mrecv
  | 6 => decEbe w .fscfg
  | 7 => decEbe w .fsum
  | 8 => decEbe w .fsraise
  | 9 => decEdbe w .fsres
  | _ => none

/-- The rows of major 0x35 by function. -/
def decodeCrm (w : Word) : Option Instr :=
  match (w.extractLsb' 8 5).toNat with
  | 0 => decEbe w .cbcast
  | 1 => decEbe w .cjoin
  | 2 => decEskim w .cskim
  | 3 => decEbe w .ccut
  | 4 => decEbe w .cgath
  | 5 => decEdbe w .cprec
  | _ => none

/-- The rows of major 0x38 by function. -/
def decodeSyn (w : Word) : Option Instr :=
  match (w.extractLsb' 8 5).toNat with
  | 0 => decEbse w .cadd
  | 1 => decEabse w .cwait
  | 2 => decEde w .cread
  | 3 => decEabse w .craise
  | 4 => decEe w .cbrk
  | 5 => decEdbe w .ctest
  | 6 => decEs w .fence
  | 7 => decE0 w .fencee
  | 8 => decEbe w .barcfg
  | 9 => decEse w .barrive
  | 10 => decEbse w .barwait
  | 11 => decEtap w .bartap
  | 12 => decE0 w .stepadv
  | 13 => decEd w .steprd
  | 14 => decEbe w .erinit
  | 15 => decEs w .erdone
  | 16 => decE0 w .erpass
  | 17 => decE0 w .erhalt
  | 18 => decEde w .erchk
  | 19 => decEde w .erstat
  | _ => none

/-- The rows of major 0x3C by function. -/
def decodeStr (w : Word) : Option Instr :=
  match (w.extractLsb' 8 5).toNat with
  | 0 => decEbe w .sgeom
  | 1 => decEbse w .scopy
  | 2 => decEbse w .sload
  | 3 => decEbse w .sstore
  | 4 => decEbe w .sfeed
  | 5 => decEbe w .sdrain
  | 6 => decEbse w .sred
  | 7 => decEbse w .sxput
  | 8 => decEe w .sbar
  | 9 => decEe w .scancel
  | 10 => decEe w .sresume
  | 11 => decEdbe w .sstat
  | 12 => decEdbe w .simg
  | _ => none

/-- The instruction an instruction word and its literal words spell, before the checks of `Instr.wf` (R85). -/
def decodeFields (w l1 l2 : Word) : Option Instr :=
  match (w.extractLsb' 26 6).toNat with
  | 0x01 => decodeAlu w l1
  | 0x02 => decI w .addi
  | 0x03 => decI w .andi
  | 0x04 => decI w .ori
  | 0x05 => decI w .xori
  | 0x06 => decI w .slti
  | 0x07 => decI w .sltni
  | 0x08 => decLUI w .lui
  | 0x09 => decSHI w .shli
  | 0x0A => decSHI w .shri
  | 0x0B => decSHI w .srai
  | 0x10 => decM w .lb
  | 0x11 => decM w .lbn
  | 0x12 => decM w .lh
  | 0x13 => decM w .lhn
  | 0x14 => decM w .lw
  | 0x15 => decM w .ld
  | 0x18 => decM w .sb
  | 0x19 => decM w .sh
  | 0x1A => decM w .sw
  | 0x1B => decM w .sd
  | 0x1C => decodeAmo w l1 l2
  | 0x20 => decodeBranch w
  | 0x21 => decJAL w .jal
  | 0x22 => decI w .jalr
  | 0x24 => decodeSys w
  | 0x28 => decodeVop w l1
  | 0x29 => decodeVmem w
  | 0x2A => decodeVcvt w
  | 0x2B => decodeVspc w
  | 0x30 => decodeTen w
  | 0x31 => decodeRing w
  | 0x34 => decodeMsg w
  | 0x35 => decodeCrm w
  | 0x38 => decodeSyn w
  | 0x3C => decodeStr w
  | _ => none

/-- The decoder (R87): total on every word, refusing every reserved encoding. -/
def decodeWords (w l1 l2 : Word) : Option Instr :=
  (decodeFields w l1 l2).filter Instr.wf

/-- How many literal words the lit field of a word gives it: only a value the instruction may take (R76, R80, R83). -/
def litWords (w : Word) : Nat :=
  match (w.extractLsb' 26 6).toNat with
  | 0x01 =>
    let fn := (w.extractLsb' 0 9).toNat
    if w.extractLsb' 9 2 = 1 ∧ fn ≤ 27 ∧ ¬ (23 ≤ fn ∧ fn ≤ 25) then 1 else 0
  | 0x1C =>
    let code := (w.extractLsb' 5 4).toNat
    if w.extractLsb' 9 2 = 1 ∧ code ≤ 8 then 1 else if w.extractLsb' 9 2 = 2 ∧ code = 9 then 2 else 0
  | 0x28 =>
    let fn := (w.extractLsb' 0 8).toNat
    if w.extractLsb' 8 2 = 1 ∧ fn ≤ 28 ∧ fn ≠ 7 ∧ fn ≠ 27 then 1 else 0
  | _ => 0

/-- The words of an instruction: its instruction word, then its literal words. An event row has none. -/
def encode : Instr → List Word
  | .add rd ra b => encA3 0 rd ra b :: srcWords b
  | .sub rd ra b => encA3 1 rd ra b :: srcWords b
  | .and rd ra b => encA3 2 rd ra b :: srcWords b
  | .or rd ra b => encA3 3 rd ra b :: srcWords b
  | .xor rd ra b => encA3 4 rd ra b :: srcWords b
  | .andn rd ra b => encA3 5 rd ra b :: srcWords b
  | .shl rd ra b => encA3 6 rd ra b :: srcWords b
  | .shr rd ra b => encA3 7 rd ra b :: srcWords b
  | .sra rd ra b => encA3 8 rd ra b :: srcWords b
  | .rotl rd ra b => encA3 9 rd ra b :: srcWords b
  | .slt rd ra b => encA3 10 rd ra b :: srcWords b
  | .sltn rd ra b => encA3 11 rd ra b :: srcWords b
  | .min rd ra b => encA3 12 rd ra b :: srcWords b
  | .max rd ra b => encA3 13 rd ra b :: srcWords b
  | .minn rd ra b => encA3 14 rd ra b :: srcWords b
  | .maxn rd ra b => encA3 15 rd ra b :: srcWords b
  | .mul rd ra b => encA3 16 rd ra b :: srcWords b
  | .mulh rd ra b => encA3 17 rd ra b :: srcWords b
  | .mulhn rd ra b => encA3 18 rd ra b :: srcWords b
  | .div rd ra b => encA3 19 rd ra b :: srcWords b
  | .divn rd ra b => encA3 20 rd ra b :: srcWords b
  | .rem rd ra b => encA3 21 rd ra b :: srcWords b
  | .remn rd ra b => encA3 22 rd ra b :: srcWords b
  | .clz rd ra => [encA2 23 rd ra]
  | .ctz rd ra => [encA2 24 rd ra]
  | .popc rd ra => [encA2 25 rd ra]
  | .bext rd ra b => encA3 26 rd ra b :: srcWords b
  | .bins rd ra b => encA3 27 rd ra b :: srcWords b
  | .addi rd ra imm => [encI 0x02 rd ra imm]
  | .andi rd ra imm => [encI 0x03 rd ra imm]
  | .ori rd ra imm => [encI 0x04 rd ra imm]
  | .xori rd ra imm => [encI 0x05 rd ra imm]
  | .slti rd ra imm => [encI 0x06 rd ra imm]
  | .sltni rd ra imm => [encI 0x07 rd ra imm]
  | .lui rd imm => [encLUI 0x08 rd imm]
  | .shli rd ra sh => [encSHI 0x09 rd ra sh]
  | .shri rd ra sh => [encSHI 0x0A rd ra sh]
  | .srai rd ra sh => [encSHI 0x0B rd ra sh]
  | .lb rd ra ord scope off => [encM 0x10 rd ra ord scope off]
  | .lbn rd ra ord scope off => [encM 0x11 rd ra ord scope off]
  | .lh rd ra ord scope off => [encM 0x12 rd ra ord scope off]
  | .lhn rd ra ord scope off => [encM 0x13 rd ra ord scope off]
  | .lw rd ra ord scope off => [encM 0x14 rd ra ord scope off]
  | .ld rd ra ord scope off => [encM 0x15 rd ra ord scope off]
  | .sb rs ra ord scope off => [encM 0x18 rs ra ord scope off]
  | .sh rs ra ord scope off => [encM 0x19 rs ra ord scope off]
  | .sw rs ra ord scope off => [encM 0x1A rs ra ord scope off]
  | .sd rs ra ord scope off => [encM 0x1B rs ra ord scope off]
  | .amoadd rd ra b ord scope => encAMO 0 rd ra b ord scope :: srcWords b
  | .amoand rd ra b ord scope => encAMO 1 rd ra b ord scope :: srcWords b
  | .amoor rd ra b ord scope => encAMO 2 rd ra b ord scope :: srcWords b
  | .amoxor rd ra b ord scope => encAMO 3 rd ra b ord scope :: srcWords b
  | .amomin rd ra b ord scope => encAMO 4 rd ra b ord scope :: srcWords b
  | .amomax rd ra b ord scope => encAMO 5 rd ra b ord scope :: srcWords b
  | .amominn rd ra b ord scope => encAMO 6 rd ra b ord scope :: srcWords b
  | .amomaxn rd ra b ord scope => encAMO 7 rd ra b ord scope :: srcWords b
  | .amoswp rd ra b ord scope => encAMO 8 rd ra b ord scope :: srcWords b
  | .amocas rd ra b ord scope => encCAS 9 rd ra b ord scope :: pairWords b
  | .beq ra rb off => [encBR 0 ra rb off]
  | .bne ra rb off => [encBR 1 ra rb off]
  | .blt ra rb off => [encBR 2 ra rb off]
  | .bge ra rb off => [encBR 3 ra rb off]
  | .bltn ra rb off => [encBR 4 ra rb off]
  | .bgen ra rb off => [encBR 5 ra rb off]
  | .jal rd off => [encJAL rd off]
  | .jalr rd ra imm => [encI 0x22 rd ra imm]
  | .tdone => [encS0 0]
  | .tyield => [encS0 1]
  | .tspawn rd ra => [encSDA 2 rd ra]
  | .trap code => [encSC 3 code]
  | .tret => [encS0 4]
  | .mfs rd num => [encSMFS 5 rd num]
  | .mts ra num => [encSMTS 6 ra num]
  | .breakpt code => [encSC 7 code]
  | .vaddF vd va b => encV3 0 vd va b :: vsrcWords b
  | .vsubF vd va b => encV3 1 vd va b :: vsrcWords b
  | .vmulF vd va b => encV3 2 vd va b :: vsrcWords b
  | .vfmaF vd va b vc => encV4 3 vd va b vc :: vsrcWords b
  | .vfmsF vd va b vc => encV4 4 vd va b vc :: vsrcWords b
  | .vminF vd va b => encV3 5 vd va b :: vsrcWords b
  | .vmaxF vd va b => encV3 6 vd va b :: vsrcWords b
  | .vabsF vd va => [encV2 0x28 7 vd va]
  | .vcltF vd va b => encV3 8 vd va b :: vsrcWords b
  | .vceqF vd va b => encV3 9 vd va b :: vsrcWords b
  | .vcleF vd va b => encV3 10 vd va b :: vsrcWords b
  | .vaddI vd va b => encV3 11 vd va b :: vsrcWords b
  | .vsubI vd va b => encV3 12 vd va b :: vsrcWords b
  | .vmulI vd va b => encV3 13 vd va b :: vsrcWords b
  | .vminI vd va b => encV3 14 vd va b :: vsrcWords b
  | .vmaxI vd va b => encV3 15 vd va b :: vsrcWords b
  | .vand vd va b => encV3 16 vd va b :: vsrcWords b
  | .vor vd va b => encV3 17 vd va b :: vsrcWords b
  | .vxor vd va b => encV3 18 vd va b :: vsrcWords b
  | .vshl vd va b => encV3 19 vd va b :: vsrcWords b
  | .vshr vd va b => encV3 20 vd va b :: vsrcWords b
  | .vsra vd va b => encV3 21 vd va b :: vsrcWords b
  | .vcltI vd va b => encV3 22 vd va b :: vsrcWords b
  | .vceqI vd va b => encV3 23 vd va b :: vsrcWords b
  | .vsel vd va b vc => encV4 24 vd va b vc :: vsrcWords b
  | .vmask vd va b => encV3 25 vd va b :: vsrcWords b
  | .vshuf vd va b => encV3 26 vd va b :: vsrcWords b
  | .vbcast vd va lane => [encVBC 27 vd va lane]
  | .vext vd va b n => encV4 28 vd va b n :: vsrcWords b
  | .vraddF vd va => [encV2 0x28 29 vd va]
  | .vrmaxF vd va => [encV2 0x28 30 vd va]
  | .vraddI vd va => [encV2 0x28 31 vd va]
  | .vld v ra rb ord scope => [encVM 0 v ra rb ord scope]
  | .vst v ra rb ord scope => [encVM 1 v ra rb ord scope]
  | .vldt v ra rb => [encVM3 2 v ra rb]
  | .vldq v q rb => [encVMQ 3 v q rb]
  | .vstq v q rb => [encVMQ 4 v q rb]
  | .vgath v ra rb ord scope => [encVM 5 v ra rb ord scope]
  | .vscat v ra rb ord scope => [encVM 6 v ra rb ord scope]
  | .vlds v ra rb df => [encVMS 7 v ra rb df]
  | .vcvtfi vd va => [encV2 0x2A 0 vd va]
  | .vcvtif vd va => [encV2 0x2A 1 vd va]
  | .vpkbf vd va vb churn => [encVPK 2 vd va vb churn]
  | .vupbf vd va half => [encVUP 3 vd va half]
  | .vdec8 vd va vb e => [encVDEC 4 vd va vb e]
  | .vdec6 vd va vb e => [encVDEC 5 vd va vb e]
  | .venc8 vd va held sc => [encVENC 6 vd va held sc]
  | .venc6 vd va held sc => [encVENC 7 vd va held sc]
  | .vexp2 vd va => [encV2 0x2B 0 vd va]
  | .vlog2 vd va => [encV2 0x2B 1 vd va]
  | .vrcp vd va => [encV2 0x2B 2 vd va]
  | .vrsq vd va => [encV2 0x2B 3 vd va]
  | .vtanh vd va => [encV2 0x2B 4 vd va]
  | .vsmx vd va => [encV2 0x2B 5 vd va]
  | .vsmxap vd va vb => [encV3R 6 vd va vb]
  | .tshape rb esel => [encEbe 0x30 0 rb esel]
  | .tgeom rb esel => [encEbe 0x30 1 rb esel]
  | .mma qa qb esel => [encEmma 0x30 2 qa qb esel]
  | .mmaw qa qb esel => [encEmma 0x30 3 qa qb esel]
  | .tqnt esel => [encEe 0x30 4 esel]
  | .tdqnt esel => [encEe 0x30 5 esel]
  | .tstpair esel => [encEe 0x30 6 esel]
  | .tdecay slot esel => [encEtde 0x30 7 0 slot esel]
  | .tdecaySweep slot esel => [encEtde 0x30 7 1 slot esel]
  | .tdecayDrop slot esel => [encEtde 0x30 7 2 slot esel]
  | .tsadd esel => [encEe 0x30 8 esel]
  | .tnorm rb esel => [encEbe 0x30 9 rb esel]
  | .tscl n rb esel => [encEnbe 0x30 10 n rb esel]
  | .tfact rb esel => [encEbe 0x30 11 rb esel]
  | .qcfg q rp => [encQp 0 q rp]
  | .qwaitf q n ra => [encQn 1 q n ra]
  | .qwaite q n ra => [encQn 2 q n ra]
  | .qadvh q n ra => [encQn 3 q n ra]
  | .qadvt q n ra => [encQn 4 q n ra]
  | .qstat q rd => [encQp 5 q rd]
  | .qreset q => [encQ0 6 q]
  | .msend rb scope esel => [encEbse 0x34 0 rb scope esel]
  | .mput rb scope => [encEbs 0x34 1 rb scope]
  | .mget rb scope => [encEbs 0x34 2 rb scope]
  | .mamo ra rb scope esel => [encEabse 0x34 3 ra rb scope esel]
  | .mbind rb esel => [encEbe 0x34 4 rb esel]
  | .mrecv rd esel => [encEde 0x34 5 rd esel]
  | .fscfg rb esel => [encEbe 0x34 6 rb esel]
  | .fsum rb esel => [encEbe 0x34 7 rb esel]
  | .fsraise rb esel => [encEbe 0x34 8 rb esel]
  | .fsres rd rb esel => [encEdbe 0x34 9 rd rb esel]
  | .cbcast rb esel => [encEbe 0x35 0 rb esel]
  | .cjoin rb esel => [encEbe 0x35 1 rb esel]
  | .cskim vd rd rb tag => [encEskim 0x35 2 vd rd rb tag]
  | .ccut rb esel => [encEbe 0x35 3 rb esel]
  | .cgath rb esel => [encEbe 0x35 4 rb esel]
  | .cprec rd rb esel => [encEdbe 0x35 5 rd rb esel]
  | .cadd rb scope esel => [encEbse 0x38 0 rb scope esel]
  | .cwait ra rb scope esel => [encEabse 0x38 1 ra rb scope esel]
  | .cread rd esel => [encEde 0x38 2 rd esel]
  | .craise ra rb scope esel => [encEabse 0x38 3 ra rb scope esel]
  | .cbrk esel => [encEe 0x38 4 esel]
  | .ctest rd rb esel => [encEdbe 0x38 5 rd rb esel]
  | .fence scope => [encEs 0x38 6 scope]
  | .fencee => [encE0 0x38 7]
  | .barcfg rb esel => [encEbe 0x38 8 rb esel]
  | .barrive scope esel => [encEse 0x38 9 scope esel]
  | .barwait rb scope esel => [encEbse 0x38 10 rb scope esel]
  | .bartap bar slot => [encEtap 0x38 11 bar slot]
  | .stepadv => [encE0 0x38 12]
  | .steprd rd => [encEd 0x38 13 rd]
  | .erinit rb esel => [encEbe 0x38 14 rb esel]
  | .erdone scope => [encEs 0x38 15 scope]
  | .erpass => [encE0 0x38 16]
  | .erhalt => [encE0 0x38 17]
  | .erchk rd esel => [encEde 0x38 18 rd esel]
  | .erstat rd esel => [encEde 0x38 19 rd esel]
  | .sgeom rb esel => [encEbe 0x3C 0 rb esel]
  | .scopy rb scope esel => [encEbse 0x3C 1 rb scope esel]
  | .sload rb scope esel => [encEbse 0x3C 2 rb scope esel]
  | .sstore rb scope esel => [encEbse 0x3C 3 rb scope esel]
  | .sfeed rb esel => [encEbe 0x3C 4 rb esel]
  | .sdrain rb esel => [encEbe 0x3C 5 rb esel]
  | .sred rb scope esel => [encEbse 0x3C 6 rb scope esel]
  | .sxput rb scope esel => [encEbse 0x3C 7 rb scope esel]
  | .sbar esel => [encEe 0x3C 8 esel]
  | .scancel esel => [encEe 0x3C 9 esel]
  | .sresume esel => [encEe 0x3C 10 esel]
  | .sstat rd rb esel => [encEdbe 0x3C 11 rd rb esel]
  | .simg ra rb esel => [encEdbe 0x3C 12 ra rb esel]
  | .mergedContribution _ => []
  | .flitArrives _ => []
  | .acknowledge _ => []
  | .submit _ => []
  | .queueEnable _ => []
  | .registerWrite _ _ => []
  | .governor _ => []
  | .powerSample _ _ => []
  | .fieldSelfTest _ => []
  | .illegalEncoding _ => []
  | .instructionFetchFault _ _ => []
  | .meshLinkLoss _ => []
  | .asyncFault => []
  | .wake => []
  | .caddPerformed => []
  | .injection => []
  | .requestArrival => []
  | .sendServed => []
  | .putServed => []
  | .getServed => []
  | .amoServed => []
  | .ackLands => []
  | .getrLands => []
  | .amorLands => []
  | .nackLands => []
  | .sumLands => []
  | .renupLands => []
  | .rendnLands => []
  | .sumDoneLands => []
  | .sumFailLands => []
  | .openLands => []
  | .trainDataBeat => []
  | .endLands => []
  | .cutLands => []
  | .trainDone => []
  | .stepBeat => []
  | .arrivalBeat => []
  | .releaseBeat => []
  | .barrierArrivalSent => []
  | .handshakeLands => []
  | .mismatchBeat => []
  | .flipLands => []
  | .haltLands => []
  | .fire => []
  | .waveFrame => []
  | .creditLands => []
  | .creditReset => []
  | .failFrame => []
  | .tensorStart => []
  | .mmaRow => []
  | .tensorComplete => []
  | .decaySweep => []
  | .streamActivate => []
  | .granule => []
  | .streamEnd => []
  | .homePortAccess => []
  | .windowContribution => []
  | .holdTimeExpiry => []
  | .lossOfLock => []
  | .retrainComplete => []
  | .retrainTimeout => []
  | .queueDisable => []
  | .launchRecord => []
  | .launchPlacement => []
  | .launchStart => []
  | .launchComplete => []
  | .preempt => []
  | .drainDone => []
  | .resume => []
  | .pageEviction => []
  | .pageRestore => []
  | .configurePartitions => []
  | .invalidateTranslations => []
  | .writeReductionWindow => []
  | .cancelLaunch => []
  | .retireAsid => []
  | .attest => []
  | .extend => []
  | .progressWatchdog => []
  | .coolantFault => []
  | .fieldLoss => []
  | .powerOnReset => []
  | .go => []
  | .vectorEnginePerform => []
  | .flitReplay => []

/-! ## Bytes -/

/-- A word from its four bytes, little-endian (R76). -/
def wordOfBytes (b0 b1 b2 b3 : Byte) : Word := b3 ++ b2 ++ b1 ++ b0

/-- The four bytes of a word, little-endian. -/
def bytesOfWord (w : Word) : List Byte :=
  [w.extractLsb' 0 8, w.extractLsb' 8 8, w.extractLsb' 16 8, w.extractLsb' 24 8]

/-- The instruction at the head of a list of bytes, with the bytes that follow it. -/
def decode : List Byte → Option (Instr × List Byte)
  | b0 :: b1 :: b2 :: b3 :: rest =>
    let w := wordOfBytes b0 b1 b2 b3
    match litWords w, rest with
    | 0, rest => (decodeWords w 0 0).map (·, rest)
    | 1, c0 :: c1 :: c2 :: c3 :: rest => (decodeWords w (wordOfBytes c0 c1 c2 c3) 0).map (·, rest)
    | 2, c0 :: c1 :: c2 :: c3 :: d0 :: d1 :: d2 :: d3 :: rest =>
      (decodeWords w (wordOfBytes c0 c1 c2 c3) (wordOfBytes d0 d1 d2 d3)).map (·, rest)
    | _, _ => none
  | _ => none

/-- The instruction the decoder reads from the bits of w, its first word lowest: 12 bytes are laid out, little-endian,
and every bit from nbits on is zero. -/
def decodeTableWord (nbits w : Nat) : Option Instr :=
  let v := BitVec.ofNat 96 (w % 2 ^ nbits)
  (decode (bytesOfWord (v.extractLsb' 0 32) ++ bytesOfWord (v.extractLsb' 32 32)
    ++ bytesOfWord (v.extractLsb' 64 32))).map Prod.fst

end Sys2Proof
end

