-- ==== Sys2Proof/Machine/State.lean ====
section
/-!
DEFINITION. The state of one Llynorn W9 module as plain data: its cores with all six engines, the mesh, the Hormar
links and the switch's window table, edge memory and its ports, the stations, and the host memory the stations read
and write. One structure per unit, each field with the rule that names it.
-/
namespace Sys2Proof.Machine
open Sys2Proof

/-- A memory: (address, byte) pairs, addresses strictly rising, no pair holding the byte an unlisted address reads
as (zero, log entry 6). -/
abbrev Mem := List Host.Cell

/-- A rectangle of cores: south-west corner, width and height (R186, R267, R389). -/
structure Rect where
  x0 : Nat
  y0 : Nat
  w : Nat
  h : Nat
  deriving DecidableEq, Repr, Inhabited

/-! ## Numbers that live in state -/

/-- One lane of a Phocy-A block: the integer L, or NaR (R38). -/
abbrev Lane := Option Int

/-- A Phocy-A block: 16 lanes, exponent X with bias 2047, FRESH, STAMPED and STAMP (R38). -/
structure Acc where
  lanes : List Lane
  x : Nat
  fresh : Bool
  stamped : Bool
  stamp : Nat
  deriving DecidableEq, Repr, Inhabited

/-- One token: 16 lanes of 32 bits and 16 valid bits (R153). -/
structure Token where
  lanes : Vector Word 16
  valid : BitVec 16
  deriving DecidableEq, Repr, Inhabited

/-- Every lane zero and no valid bit set (R57, R153). -/
def Token.zero : Token := { lanes := Vector.replicate 16 0, valid := 0 }

/-! ## Contexts -/

/-- The kinds of context (R54), with the KIND codes of R66. -/
inductive CtxKind where
  | ordinary | edgeReversal | handler
  deriving DecidableEq, Repr, Inhabited

/-- What a waiting context waits for (R55): the condition of its CWAIT, BARWAIT, QWAITF or QWAITE. -/
inductive Wait where
  | counter (n : Nat) (target : Nat)
  | barrier (n : Nat) (gen : Nat)
  | ringFilled (q : Nat) (n : Nat)
  | ringFree (q : Nat) (n : Nat)
  deriving DecidableEq, Repr, Inhabited

/-- The three states of a context (R55); a waiting one is at an instruction. -/
inductive CtxStatus where
  | dormant
  | ready
  | waiting (w : Wait) (i : Instr)
  deriving DecidableEq, Repr, Inhabited

/-- An asynchronous fault an engine has recorded (R143): cause code, SUB, AUX and EVAL of R142. -/
structure AsyncFault where
  code : Nat
  sub : Nat
  aux : Nat
  val : Word
  deriving DecidableEq, Repr, Inhabited

/-- How a task of a context ended, kept for failure records of kind 4 (R145): its serial, and the EPC such a record
holds. -/
structure EndRec where
  serial : Nat
  epc : Word
  deriving DecidableEq, Repr, Inhabited

/-- One task context (R23, R73, R138). -/
structure Ctx where
  /-- R54: fixed by the launch record. -/
  kind : CtxKind
  /-- R55. -/
  status : CtxStatus
  /-- Starts of this context so far (the model's own count): tells "started again since" (R143). -/
  serial : Nat
  /-- x0 to x31 (R73); x0 is never written. -/
  x : Vector Word 32
  /-- v0 to v15 (R73, R153). -/
  v : Vector Token 16
  /-- TG0 to TG7 (R311). -/
  tg : Vector DWord 8
  /-- SG0 to SG7 (R341). -/
  sg : Vector DWord 8
  /-- Program counter (R73). -/
  pc : Word
  /-- VSTAT (R156). -/
  vstat : Word
  /-- TLEVEL (R138). -/
  tlevel : Nat
  /-- TVEC (R138). -/
  tvec : Word
  /-- TSAVE (R138). -/
  tsave : Word
  /-- EPC1, EPC2 (R138). -/
  epc1 : Word
  epc2 : Word
  /-- ECAUSE1, ECAUSE2 (R138). -/
  ecause1 : Word
  ecause2 : Word
  /-- EVAL1, EVAL2 (R138). -/
  eval1 : Word
  eval2 : Word
  /-- BANKKEY (R20, R90). -/
  bankKey : Word
  /-- LCYCH (R90). -/
  lcych : Word
  /-- LVL0 to LVL7 (R65, R66). -/
  lvl : Vector Word 8
  /-- LVLX0 to LVLX7 (R65, R66). -/
  lvlx : Vector Word 8
  /-- Held asynchronous faults, oldest first, at most 16 (R143). -/
  pending : List AsyncFault
  /-- Header words w0 to w7 of the SEND that started a handler (R252). -/
  hdr : Vector Word 8
  /-- Tag entry and slot a handler occupies (R245). -/
  slot : Option (Nat × Nat)
  /-- Edge-reversal: retired by ERHALT or killed, so it never fires again (R227, R233). -/
  retired : Bool
  /-- Registers whose parity error stays after replay (R147): n, 0x100 + n for v, 0x200 + n for trap state. -/
  badRegs : List Nat
  /-- Registers whose parity error a replay mends, numbered alike (R147, R404). -/
  softRegs : List Nat
  /-- Tasks of this context that have ended, newest first (R145). -/
  ends : List EndRec
  /-- Contexts whose register writes its task observes though a queue may still hold them, each with the number its core's
  commands had come to: that which spawned it and those that one observed (R58). -/
  spawned : List (CtxNo × Nat)
  deriving DecidableEq, Repr, Inhabited

/-- A context never started: every register zero (R57). -/
def Ctx.blank : Ctx where
  kind := .ordinary
  status := .dormant
  serial := 0
  x := Vector.replicate 32 0
  v := Vector.replicate 16 Token.zero
  tg := Vector.replicate 8 0
  sg := Vector.replicate 8 0
  pc := 0
  vstat := 0
  tlevel := 0
  tvec := 0
  tsave := 0
  epc1 := 0
  epc2 := 0
  ecause1 := 0
  ecause2 := 0
  eval1 := 0
  eval2 := 0
  bankKey := 0
  lcych := 0
  lvl := Vector.replicate 8 0
  lvlx := Vector.replicate 8 0
  pending := []
  hdr := Vector.replicate 8 0
  slot := none
  retired := false
  badRegs := []
  softRegs := []
  ends := []
  spawned := []

/-! ## The role a launch places on a core -/

/-- Region kinds, in the code order of R389. -/
inductive RegionKind where
  | code | stack | data | ring
  deriving DecidableEq, Repr, Inhabited

/-- A declared region of scratchpad (R100, R117, R389). For a stack region the size is that of all N stacks. -/
structure Region where
  base : Nat
  size : Nat
  kind : RegionKind
  deriving DecidableEq, Repr, Inhabited

/-- One level of a launch (R64): domain code, scope code, and the size of a rectangle. -/
structure Level where
  domain : Nat
  scope : Nat
  w : Nat
  h : Nat
  deriving DecidableEq, Repr, Inhabited

/-- What a launch record and its image fix for one role (R100, R389). -/
structure RoleInfo where
  /-- LAUNCH of the launch (R400). -/
  launch : Nat
  /-- Role number 0 to 3. -/
  role : Nat
  /-- Role rectangle. -/
  rect : Rect
  /-- Every role rectangle of the launch. -/
  launchRects : List Rect
  /-- Rectangle of the partition, in cores (R391). -/
  partRect : Rect
  /-- Partition number. -/
  partition : Nat
  /-- Role argument (R57). -/
  arg : Word
  /-- O, E, H and S of R54 (N = O + E + H). -/
  ord : Nat
  er : Nat
  hand : Nat
  starts : Nat
  /-- XN and VN of R75. -/
  xn : Nat
  vn : Nat
  /-- Declared counters, rings, barriers and crossings. -/
  counters : Nat
  rings : Nat
  barriers : Nat
  crossings : Nat
  /-- KEYSEED (R20). -/
  keySeed : Nat
  /-- Levels 0 to L - 1. -/
  levels : List Level
  /-- Regions in declaration order. -/
  regions : List Region
  /-- Entries of the ordinary tasks, and of the edge-reversal tasks. -/
  tasks : List Nat
  erTasks : List Nat
  /-- Step source (R184). -/
  stepSource : Site
  /-- ASID of the launch (R362). -/
  asid : Nat
  /-- Links whose bridges the launch may take, fixed when it is placed (R374). -/
  links : List Nat
  deriving DecidableEq, Repr, Inhabited

/-- No role placed: nothing declared. -/
def RoleInfo.none : RoleInfo where
  launch := 0
  role := 0
  rect := ⟨0, 0, 0, 0⟩
  launchRects := []
  partRect := ⟨0, 0, 0, 0⟩
  partition := 0
  arg := 0
  ord := 0
  er := 0
  hand := 0
  starts := 0
  xn := 0
  vn := 0
  counters := 0
  rings := 0
  barriers := 0
  crossings := 0
  keySeed := 0
  levels := []
  regions := []
  tasks := []
  erTasks := []
  stepSource := 0
  asid := 0
  links := []

/-! ## Scratchpad -/

/-- A 1 KiB page of scratchpad (R396, R398): the launch that owns it, and whether it is absent (evicted). -/
structure Page where
  owner : Option Nat
  absent : Bool
  deriving DecidableEq, Repr, Inhabited

/-- A 16-byte line that a context read before the load that is to take it issues (R123, R198, log entry 4): the context
and its count of starts, the registers of the load's address (the number of one, 32 times that of another, and 1024 times one
more than that of a v register; for the payload of a message 32768 and that of its descriptor), the line and its bytes, whether
it was write-locked (R118), the narrowest scope about its core that takes in a party whose write since it may have to see
(R197, R200), and the bytes of it that its own context has accessed since. -/
structure Ahead where
  ctx : CtxNo
  serial : Nat
  base : Nat
  line : Nat
  bytes : List Byte
  locked : Bool
  wrote : Option Scope
  taken : List (Nat × Nat)
  deriving DecidableEq, Repr, Inhabited

/-- The scratchpad of a core (R19) with its protection (R120) and pages (R396). -/
structure Scratch where
  /-- Bytes at local addresses 0 to 0x3_FFFF. -/
  mem : Mem
  /-- Addresses of 8-byte words that hold an uncorrectable error (R120). -/
  bad : List Nat
  /-- Addresses of 8-byte words that hold a correctable error (R120). -/
  soft : List Nat
  /-- Corrected errors since the last partition configuration (R404). -/
  corrected : Nat
  /-- Marked for retirement (R404). -/
  marked : Bool
  /-- Pages 0 to 255 with an entry; a page with none is unowned (R396). -/
  pages : List (Nat × Page)
  /-- Lines that contexts of the core have read ahead (R123, R198). -/
  ahead : List Ahead
  deriving DecidableEq, Repr, Inhabited

def Scratch.blank : Scratch :=
  { mem := [], bad := [], soft := [], corrected := 0, marked := false, pages := [], ahead := [] }

/-! ## Range locks -/

/-- One entry of the range-lock table (R118, R193): the command that holds it (by issue number), its first and last
16-byte line, and whether it is a write lock. -/
structure Lock where
  cmd : Nat
  lo : Nat
  hi : Nat
  write : Bool
  deriving DecidableEq, Repr, Inhabited

/-! ## Accesses that are performed late -/

/-- What an instruction that has issued has still to do (R123, R198). A store or an atomic with release waits for the messages
numbered below `after`. -/
inductive LateOp where
  /-- Write bytes, in one access. -/
  | store (parts : List (Nat × List Byte)) (release : Option Scope) (after : Nat)
  /-- Read what the scalar load `i` loads. -/
  | load (addr : Nat) (i : Instr)
  /-- Read bytes into v registers, for an acquire of a scope: address, length, register, and place in its token (R170). -/
  | lanes (parts : List (Nat × Nat × VReg × Nat)) (acquire : Option Scope)
  /-- The stamp of a VLDS, read once it is there, and the decay of the token in v at the step and with the factor the
  instruction read (R169). -/
  | stamp (v : VReg) (addr : Nat) (step : Nat) (factor : Nat) (stamp : Option Nat)
  /-- The atomic of a code of R127, or 9 for AMOCAS, on the word at an address, with its operand. -/
  | amo (addr : Nat) (rd : XReg) (code : Nat) (b : DWord) (release : Option Scope) (after : Nat)
  /-- CREAD, CTEST or CBRK `i` of a counter, with the number a CTEST compares with (R205). -/
  | counter (n : Nat) (i : Instr) (v : Word)
  /-- An engine command, by its issue number, comes to its engine with the locks it takes (R26, R118, R204). -/
  | command (id : Nat) (locks : List Lock)
  /-- A line of a block that a decay sweep rewrites (R119, R331). -/
  | rewrite (parts : List (Nat × List Byte))
  deriving DecidableEq, Repr, Inhabited

/-- An instruction that has issued and is not yet performed (R123, R198, log entry 4): its context and the count of starts, and
whether its context issues nothing until it is (R156), whether a release at core scope stands after it, so that every party
of the core sees it first, and whether a FENCEE does (R191). For a line of a decay sweep the context is that which registered
the region. -/
structure Late where
  ctx : CtxNo
  serial : Nat
  op : LateOp
  hold : Bool
  inner : Bool
  fenced : Bool
  deriving DecidableEq, Repr, Inhabited

/-! ## Synchronisation engine -/

/-- A counter (R179). -/
structure Counter where
  value : DWord
  broken : Bool
  deriving DecidableEq, Repr, Inhabited

/-- A CADD or CRAISE issued and not yet performed (R181): the issuing context and its serial, the counter, the value,
the number of the context's messages it must wait for (R125), and whether its scope takes in edge memory (R209). -/
structure SyncOp where
  ctx : CtxNo
  serial : Nat
  raise : Bool
  counter : Nat
  val : Nat
  after : Nat
  wide : Bool
  deriving DecidableEq, Repr, Inhabited

/-- An arrival beat (R187): the rectangle it was sent for, and whether the arrival is marked failed (R189). -/
structure Beat where
  rect : Rect
  failed : Bool
  deriving DecidableEq, Repr, Inhabited

/-- A barrier register (R186 to R189). -/
structure Barrier where
  /-- BARCFG has set the rectangle. -/
  configured : Bool
  rect : Rect
  /-- GEN. -/
  gen : Word
  /-- This core's arrival is recorded and not released. -/
  arrived : Bool
  /-- The context and message count whose release the arrival waits for; none for a tap arrival. -/
  arriver : Option (CtxNo × Nat × Nat)
  /-- The scope of the arrival takes in edge memory (R209). -/
  wide : Bool
  /-- The release is satisfied, so the arrival takes part in the sweep. -/
  counted : Bool
  /-- This core's arrival is marked failed. -/
  failed : Bool
  /-- This core's beat for the pending generation has been forwarded. -/
  sent : Bool
  /-- Held arrival beats from the east and from the north. -/
  east : Option Beat
  north : Option Beat
  /-- Stream slot tapped (R189). -/
  tap : Option Nat
  /-- Generations released failed. -/
  failedGens : List Nat
  deriving DecidableEq, Repr, Inhabited

def Barrier.blank : Barrier where
  configured := false
  rect := ⟨0, 0, 0, 0⟩
  gen := 0
  arrived := false
  arriver := none
  wide := false
  counted := false
  failed := false
  sent := false
  east := none
  north := none
  tap := none
  failedGens := []

/-- A crossing handshake (R221): the sender's site, context, entry and rank, and the partner it names. -/
structure Handshake where
  site : Site
  ctx : Nat
  entry : Nat
  rank : Nat
  partnerCtx : Nat
  deriving DecidableEq, Repr, Inhabited

/-- A crossing entry (R219, R221, R231). -/
structure Crossing where
  valid : Bool
  octx : Nat
  pk : Nat
  pctx : Nat
  partner : Site
  base : Nat
  len1 : Nat
  paired : Bool
  face : Bool
  initFace : Bool
  pinned : Bool
  mismatch : Bool
  /-- A handshake held while the entry is invalid (HELD). -/
  held : Option Handshake
  /-- A second handshake came while one was held: MISMATCH once ERINIT makes the entry valid (R222). -/
  clash : Bool
  ends : BitVec 16
  /-- Rank recorded from the partner's handshake (R230). -/
  partnerRank : Nat
  deriving DecidableEq, Repr, Inhabited

def Crossing.blank : Crossing where
  valid := false
  octx := 0
  pk := 0
  pctx := 0
  partner := 0
  base := 0
  len1 := 0
  paired := false
  face := false
  initFace := false
  pinned := false
  mismatch := false
  held := none
  clash := false
  ends := 0
  partnerRank := 0

/-- The synchronisation engine of a core (R179, R186, R219). -/
structure Sync where
  counters : Vector Counter 64
  /-- Command queue: CADD and CRAISE not yet performed, oldest first (R25, R181). -/
  queue : List SyncOp
  barriers : Vector Barrier 8
  crossings : Vector Crossing 32
  deriving DecidableEq, Repr, Inhabited

def Sync.blank : Sync where
  counters := Vector.replicate 64 ⟨0, false⟩
  queue := []
  barriers := Vector.replicate 8 Barrier.blank
  crossings := Vector.replicate 32 Crossing.blank

/-! ## Message engine: messages -/

/-- A tag entry that is bound (R244, R68). -/
structure TagEntry where
  /-- Handler address. -/
  handler : Nat
  /-- Landing base. -/
  base : Nat
  /-- Slot size in bytes, and slot count. -/
  size : Nat
  count : Nat
  /-- The binding context; 0 for a pipe. -/
  owner : Nat
  /-- Bound to a pipe for the whole launch. -/
  pipe : Bool
  /-- Numbers of the occupied slots. -/
  busy : List Nat
  deriving DecidableEq, Repr, Inhabited

/-- A request-class message in a request queue (R245): its header, its payload, the request number its reply returns
to (the model's own), and the launch of the sender (none: another module). -/
structure Request where
  hdr : Vector Word 8
  payload : List Byte
  rid : Nat
  launch : Option Nat
  deriving DecidableEq, Repr, Inhabited

/-- A message command issued and not yet injected (R242, R255). -/
structure MsgCmd where
  /-- Issue number (R194). -/
  id : Nat
  ctx : CtxNo
  serial : Nat
  hdr : Vector Word 8
  /-- Payload source (SEND and PUT). -/
  src : Nat
  /-- Number of the context's messages issued before it (for REL, R255). -/
  seq : Nat
  rel : Bool
  /-- Lines of its payload that its context read ahead, by line (R198, log entry 4). -/
  early : List (Nat × List Byte)
  deriving DecidableEq, Repr, Inhabited

/-- A message whose remote access has not been performed for its sender (R254). -/
structure OutMsg where
  rid : Nat
  /-- Issue number of the command (or stream) that sent it, which holds its locks. -/
  id : Nat
  ctx : CtxNo
  serial : Nat
  seq : Nat
  /-- Stream slot, for the PUT of a stream granule (R352). -/
  slot : Option Nat
  hdr : Vector Word 8
  /-- Bytes of its reply's data that have landed (R119, R243). -/
  landed : Nat
  deriving DecidableEq, Repr, Inhabited

/-! ## Message engine: fabric sums -/

/-- The configuration FSCFG gives a sum tag (R257). -/
structure SumCfg where
  own : Bool
  children : List Dir
  parent : Option Dir
  total : Nat
  res : Nat
  inc : Nat
  counter : Nat
  nblk : Nat
  ctx : CtxNo
  serial : Nat
  /-- Issue numbers that hold the result lock and the source lock. -/
  resCmd : Nat
  srcCmd : Nat
  deriving DecidableEq, Repr, Inhabited

/-- One block of a sum tag at a node (R260). -/
structure SumBlk where
  xa : Nat
  req : Nat
  p : List Lane
  n : Nat
  got : List Dir
  sent : Bool
  done : Bool
  deriving DecidableEq, Repr, Inhabited

/-- A sum tag at a node (R257 to R265). -/
structure SumTag where
  cfg : Option SumCfg
  gen : BitVec 8
  failed : Bool
  /-- Configured and neither complete nor failed. -/
  busy : Bool
  /-- The contribution, once FSUM has given it (R258). -/
  given : Option (List Acc)
  blks : List SumBlk
  deriving DecidableEq, Repr, Inhabited

def SumTag.blank : SumTag := { cfg := none, gen := 0, failed := false, busy := false, given := none, blks := [] }

/-! ## Message engine: cream-order collectives -/

/-- How a cream tag is used in this generation (R272 to R275). -/
inductive CreamMode where
  | idle | bcast | join | gather
  deriving DecidableEq, Repr, Inhabited

/-- The parts of a train (R268): OPEN, the exponent beat, a counted plane by its index (1 sign, j + 1 magnitude j),
END with SENT, CUT. -/
inductive BeatKind where
  | opn | exponents | plane (idx : Nat) | fin (sent : Nat) | cut
  deriving DecidableEq, Repr, Inhabited

/-- A beat or header of a train, with what the train's OPEN names (R268, R269). -/
structure CreamBeat where
  tag : Nat
  gen : BitVec 8
  p : Nat
  /-- TSRC: the train's source. -/
  src : Site
  rect : Rect
  kind : BeatKind
  data : List Byte
  deriving DecidableEq, Repr, Inhabited

/-- One child branch of a train at a node: direction, cut, ended, and counted beats sent (R280). -/
structure Branch where
  dir : Dir
  cut : Bool
  ended : Bool
  sent : Nat
  deriving DecidableEq, Repr, Inhabited

/-- The trains on the link of a core in one direction (R268): those it has open to the neighbour, by number, as tag, GEN and
source; the beats that wait for a number, in order; and those the neighbour has open to it, by number, each with its OPEN, or
none if that was discarded (R283). -/
structure TrainLink where
  out : List (Nat × Nat × BitVec 8 × Site)
  wait : List CreamBeat
  inn : List (Nat × Option CreamBeat)
  deriving DecidableEq, Repr, Inhabited

def TrainLink.blank : TrainLink := { out := [], wait := [], inn := [] }

/-- A train at a node (R268, R270, R280). -/
structure Train where
  src : Site
  /-- Beats still to be sent by the source, in order; empty at the other nodes. -/
  toSend : List CreamBeat
  branches : List Branch
  /-- CUT has been sent to the parent. -/
  cutSent : Bool
  /-- END has landed, or at the source the train is done. -/
  ended : Bool
  deriving DecidableEq, Repr, Inhabited

/-- A receive tile (R276, R278): its base, count, and the FINAL, FAIL and CUT bits. -/
structure Tile where
  base : Nat
  count : Nat
  final : Bool
  fail : Bool
  cut : Bool
  deriving DecidableEq, Repr, Inhabited

/-- A cream tag at a core (R272 to R283). -/
structure CreamTag where
  mode : CreamMode
  gen : BitVec 8
  /-- Issued in this generation and not yet idle (R281). -/
  busy : Bool
  p : Nat
  rect : Rect
  /-- Source joined (CJOIN). -/
  src : Site
  counter : Nat
  ctx : CtxNo
  serial : Nat
  /-- Issue numbers that hold the source lock and the receive lock. -/
  srcCmd : Nat
  recvCmd : Nat
  tiles : List Tile
  trains : List Train
  /-- Beats forwarded whose landing waits for an absent page, in order (R270, R398). -/
  toLand : List CreamBeat
  deriving DecidableEq, Repr, Inhabited

def CreamTag.blank : CreamTag where
  mode := .idle
  gen := 0
  busy := false
  p := 0
  rect := ⟨0, 0, 0, 0⟩
  src := 0
  counter := 0
  ctx := 0
  serial := 0
  srcCmd := 0
  recvCmd := 0
  tiles := []
  trains := []
  toLand := []

/-- The message engine of a core, with the core's part of the router (R237 to R284). -/
structure Msg where
  tags : Vector (Option TagEntry) 64
  /-- Request queue, oldest first, at most 16 (R245). -/
  requests : List Request
  /-- Where the landing of the oldest request goes once it has begun, and how many bytes are written (R119, R247). -/
  landing : Option (Nat × Nat)
  /-- Bytes that the oldest request, a GET, has read so far (R119, R248). -/
  gathered : List Byte
  /-- Message commands not yet injected, oldest first, at most 8 (R25). -/
  queue : List MsgCmd
  /-- Messages not yet performed for their sender (R254). -/
  out : List OutMsg
  /-- Messages issued so far, per core (the model's own numbering). -/
  nextSeq : Nat
  sums : Vector SumTag 4
  creams : Vector CreamTag 4
  /-- Trains on the links east, west, north and south (R268). -/
  trainLinks : Vector TrainLink 4
  deriving DecidableEq, Repr, Inhabited

def Msg.blank : Msg where
  tags := Vector.replicate 64 none
  requests := []
  landing := none
  gathered := []
  queue := []
  out := []
  nextSeq := 0
  sums := Vector.replicate 4 SumTag.blank
  creams := Vector.replicate 4 CreamTag.blank
  trainLinks := Vector.replicate 4 TrainLink.blank

/-! ## Tensor engine -/

/-- A ring (R289, R296). NS = 0 means unconfigured. -/
structure Ring where
  base : Nat
  sz : Nat
  ns : Nat
  win : Bool
  head : Nat
  tail : Nat
  fill : Nat
  fail : Bool
  /-- Bytes of a wave frame that have landed in the slot at TAIL (R119, R303). -/
  landed : Nat
  /-- Commands (by issue number, oldest first) that bind the consumer side and the producer side. -/
  cbound : List Nat
  pbound : List Nat
  deriving DecidableEq, Repr, Inhabited

def Ring.blank : Ring where
  base := 0
  sz := 0
  ns := 0
  win := false
  head := 0
  tail := 0
  fill := 0
  fail := false
  landed := 0
  cbound := []
  pbound := []

/-- The tensor commands that are queued (R309). -/
inductive TensorFn where
  | mma (qa qb : RingNo) (east : Bool)
  | qnt | dqnt | stpair
  | decay (register : Option Nat)
  | drop (slot : Nat)
  | sadd
  | norm (target : Nat)
  | scl (first : Nat) (n : Nat) (addr : Nat)
  | fact (mask : BitVec 8) (addr : Nat)
  deriving DecidableEq, Repr, Inhabited

/-- A queued tensor command with its snapshot of TG0 to TG7 (R310). -/
structure TensorCmd where
  id : Nat
  ctx : CtxNo
  serial : Nat
  fn : TensorFn
  tg : Vector DWord 8
  counter : Option Nat
  deriving DecidableEq, Repr, Inhabited

/-- An entry of the tensor command queue: a command, or an MTS of a tensor-range register (R89). -/
inductive TensorItem where
  | cmd (c : TensorCmd)
  | mts (id : Nat) (ctx : CtxNo) (num : Nat) (val : Word)
  deriving DecidableEq, Repr, Inhabited

/-- A started command (R310) with the STEP, scales and factors it read once, and the units it has done: rows of a matrix
command, blocks of a block command, 1 of a TSTPAIR once its writes are made (R336). -/
structure TensorRun where
  cmd : TensorCmd
  step : BitVec 16
  sc : Vector Word 64
  df : Vector Word 8
  row : Nat
  deriving DecidableEq, Repr, Inhabited

/-- A sweep slot (R330, R331). -/
structure Sweep where
  valid : Bool
  ctx : CtxNo
  serial : Nat
  tg : Vector DWord 8
  df : Word
  /-- BANKKEY of the registering context (R122). -/
  key : Word
  /-- Crossings whose sweep is pending, oldest first; the second one makes the first URGENT. -/
  pend : List (BitVec 16)
  /-- Next block of the sweep in progress. -/
  next : Nat
  deriving DecidableEq, Repr, Inhabited

def Sweep.blank : Sweep where
  valid := false
  ctx := 0
  serial := 0
  tg := Vector.replicate 8 0
  df := 0
  key := 0
  pend := []
  next := 0

/-- The tensor engine of a core (R289 to R336). -/
structure Tensor where
  rings : Vector Ring 16
  /-- CR(q) (R304). -/
  credits : Vector Nat 16
  /-- Command queue, oldest first, at most 8 (R25). -/
  queue : List TensorItem
  /-- Started commands. -/
  run : List TensorRun
  /-- SC0 to SC63 (R321). -/
  sc : Vector Word 64
  /-- DF0 to DF7 (R321). -/
  df : Vector Word 8
  /-- QSTAT (R319). -/
  qstat : Word
  /-- ACCOVF (R320). -/
  accovf : Word
  /-- PAIRERR (R320). -/
  pairErr : Word
  /-- Sweep slots 0 to 3 (R330). -/
  sweeps : Vector Sweep 4
  deriving DecidableEq, Repr, Inhabited

def Tensor.blank : Tensor where
  rings := Vector.replicate 16 Ring.blank
  credits := Vector.replicate 16 0
  queue := []
  run := []
  sc := Vector.replicate 64 0x3F800000
  df := Vector.replicate 8 0
  qstat := 0
  accovf := 0
  pairErr := 0
  sweeps := Vector.replicate 4 Sweep.blank

/-! ## Vector engine -/

/-- An entry of the vector command queue (R155): a format-V instruction with the issue number the next engine command
had when it was queued (R175), an MTS of VSTAT (R89), or the place of the VMEM instruction that holds its context (R156). -/
inductive VecItem where
  | op (ctx : CtxNo) (serial : Nat) (i : Instr) (before : Nat)
  | mts (ctx : CtxNo) (serial : Nat) (val : Word)
  | mem (ctx : CtxNo)
  deriving DecidableEq, Repr, Inhabited

/-! ## Stream engine -/

/-- The transfer commands, in function-code order (R343). -/
inductive StreamCmd where
  | scopy | sload | sstore | sfeed | sdrain | sred | sxput | simg
  deriving DecidableEq, Repr, Inhabited

/-- A stream with its snapshotted descriptor and pattern (R345, R348). -/
structure StreamJob where
  id : Nat
  cmd : StreamCmd
  ctx : CtxNo
  serial : Nat
  sg : Vector DWord 8
  scope : Scope
  /-- DSITE as given, and whether the dense side is at another core or module. -/
  dsite : Word
  remote : Bool
  /-- Dense-side address (for SIMG the landing address). -/
  daddr : Nat
  nc : Bool
  bytes : Bool
  counter : Nat
  inc : Nat
  rca : Bool
  rcounter : Nat
  rinc : Nat
  /-- The patterned side is edge memory. -/
  edge : Bool
  /-- Named port, if any. -/
  port : Option Nat
  ring : Nat
  rop : Nat
  /-- Next granule, and the dense offset at which it starts. -/
  next : Nat
  start : Nat
  /-- Bytes moved; past `start` when a ring has taken or given part of the granule. -/
  off : Nat
  /-- Length of the last granule delivered. -/
  last : Nat
  /-- Virtual pieces of the part of a Phocy-A block that earlier granules held (R370). -/
  carry : List (Nat × Nat)
  /-- Bytes of the granule between a ring and edge memory that wait: read and not yet in the ring, or out of the ring and
  not yet sent. -/
  buf : List Byte
  /-- Where the granule goes that a ring gives: its device address, and its alias page (R348). -/
  dest : Option (Nat × Option (Nat × Nat × Nat))
  /-- A granule is on its way to a home port, the switch or another core. -/
  busy : Bool
  /-- SCANCEL came while a granule was partly written: the stream ends with it (R353). -/
  cancel : Bool
  /-- Streams (by issue number) that must end before it becomes ACTIVE (R351). -/
  waits : List Nat
  /-- Messages issued before it, by number (R209). -/
  seq : Nat
  deriving DecidableEq, Repr, Inhabited

/-- The four slot states of R340. -/
inductive SlotState where
  | idle | active | held | faulted
  deriving DecidableEq, Repr, Inhabited

/-- A stream slot (R340, R355). -/
structure Slot where
  state : SlotState
  fail : Bool
  cmd : Nat
  gran : Nat
  fval : Word
  fvah : BitVec 16
  fsub : Nat
  job : Option StreamJob
  deriving DecidableEq, Repr, Inhabited

def Slot.blank : Slot :=
  { state := .idle, fail := false, cmd := 0, gran := 0, fval := 0, fvah := 0, fsub := 0, job := none }

/-- An SBAR in force (R351): its mask and the streams it waits for. -/
structure SBar where
  mask : BitVec 8
  before : List Nat
  deriving DecidableEq, Repr, Inhabited

/-! ## A core -/

/-- One core: its role, scratchpad, contexts and engines (R19, R23, R24). -/
structure Core where
  /-- A launch holds the core (R393). -/
  live : Bool
  role : RoleInfo
  /-- Halted for pre-emption (R148). -/
  halted : Bool
  scratch : Scratch
  /-- The launch whose saved state the shadow storage holds, and the offsets of the 8-byte words of it that hold an
  uncorrectable and a correctable error (R22, R147, R395). -/
  shadow : Option Nat
  shadowBad : List Nat
  shadowSoft : List Nat
  /-- Retries of the mesh links into this core not yet counted (R13, R404). -/
  retries : Nat
  /-- Accesses issued and not yet performed, oldest first (R123, R198). -/
  late : List Late
  ctxs : Vector Ctx 8
  /-- ERRANK0 to ERRANK7 (R232). -/
  errank : Vector Word 8
  /-- The 64-bit cycle count read through LCYC (R90). -/
  cycles : DWord
  /-- Progress since the watchdog last looked (R202). -/
  progress : Bool
  /-- Range-lock table, at most 32 entries (R193). -/
  locks : List Lock
  /-- Issue number of the next engine command (the model's own, for R194). -/
  nextCmd : Nat
  sync : Sync
  msg : Msg
  tensor : Tensor
  /-- Vector command queue, oldest first, at most 8 (R25, R155). -/
  vec : List VecItem
  slots : Vector Slot 8
  sbars : List SBar
  deriving DecidableEq, Repr, Inhabited

/-- A core no launch has been placed on since reset. -/
def Core.blank : Core where
  live := false
  role := RoleInfo.none
  halted := false
  scratch := Scratch.blank
  shadow := none
  shadowBad := []
  shadowSoft := []
  retries := 0
  late := []
  ctxs := Vector.replicate 8 Ctx.blank
  errank := Vector.replicate 8 0
  cycles := 0
  progress := false
  locks := []
  nextCmd := 0
  sync := Sync.blank
  msg := Msg.blank
  tensor := Tensor.blank
  vec := []
  slots := Vector.replicate 8 Slot.blank
  sbars := []

/-! ## The mesh -/

/-- What a packet carries (R237, R268, R303, R304). The header of an OPEN goes with the number it assigns to its train; that of
an END with its train's, and of a CUT or an END whose OPEN was never sent with 64. A reply from this module names the message it answers by `rid` (the model's
own number); one from another module is matched by its header. -/
inductive Body where
  | req (r : Request)
  | rep (hdr : Vector Word 8) (payload : List Byte) (rid : Option Nat)
  | sum (tag blk : Nat) (gen : BitVec 8) (xa : Nat) (lanes : List Lane) (cnt : Nat)
  | renup (tag blk : Nat) (gen : BitVec 8) (x : Nat)
  | rendn (tag blk : Nat) (gen : BitVec 8) (x : Nat)
  | sumDone (tag blk : Nat) (gen : BitVec 8)
  | sumFail (tag blk : Nat) (gen : BitVec 8)
  | creamHeader (hdr : Vector Word 8) (number : Nat)
  | trainBeat (number idx : Nat) (data : List Byte)
  | step
  | arrival (bar : Nat) (b : Beat)
  | release (bar : Nat) (rect : Rect) (gen : Word) (failed : Bool)
  | handshake (entry : Nat) (h : Handshake)
  | mismatch (entry : Nat)
  | flip (entry : Nat)
  | halt (entry : Nat)
  | frame (q : Nat) (bytes : List Byte)
  | credit (q : Nat) (n : Nat)
  | creditReset (q : Nat) (n : Nat)
  | failFrame (q : Nat)
  deriving DecidableEq, Repr, Inhabited

/-- A packet in the mesh (R13, R14): where it was injected, where it goes, its class, and the sending context. -/
structure Packet where
  src : Site
  dst : Site
  cls : MeshClass
  ctx : Nat
  body : Body
  deriving DecidableEq, Repr, Inhabited

/-! ## Hormar links and reduction windows -/

/-- A packet sent on a link and not yet acknowledged whole (R376, R377): the SEQ of its last flit, the core it left,
the message it is, if it is a request, and its header. -/
structure Outgoing where
  last : BitVec 12
  site : Site
  rid : Option Nat
  hdr : Vector Word 8
  deriving DecidableEq, Repr, Inhabited

/-- The state of a Hormar link (R376, R377). -/
inductive LinkState where
  | up | retraining | down
  deriving DecidableEq, Repr, Inhabited

/-- A Hormar link with its edge bridge (R374 to R377). -/
structure Link where
  state : LinkState
  /-- SEQ of the next flit to send, and of the next flit to accept. -/
  sendSeq : BitVec 12
  recvSeq : BitVec 12
  /-- Flits sent and not yet acknowledged, oldest first, at most 1,024. -/
  held : List Flit
  /-- Packets not yet acknowledged whole, oldest first. -/
  packets : List Outgoing
  /-- Flits accepted of a packet not yet complete. -/
  part : List Flit
  /-- Replays so far of each held flit. -/
  replays : List Nat
  /-- The acknowledge flit the receiver made last, on the reverse direction (R376). -/
  ack : Option Flit
  /-- Left out since a partition configuration: no launch placed later takes its bridge (R374, R377). -/
  retired : Bool
  deriving DecidableEq, Repr, Inhabited

def Link.blank : Link :=
  { state := .up, sendSeq := 0, recvSeq := 0, held := [], packets := [], part := [], replays := [], ack := none,
    retired := false }

/-- A reduction window (R378). -/
structure Window where
  base : Nat
  size : Nat
  home : Nat
  hbase : Nat
  rop : Nat
  xw : Nat
  k : Nat
  deriving DecidableEq, Repr, Inhabited

/-- One contribution at the switch (R379): the window, the operation of the SRED it comes from, its module, and for this
module the link it leaves by, its core, slot and stream. -/
structure Contribution where
  window : Window
  rop : Nat
  target : Nat
  data : List Byte
  source : Nat
  link : Nat
  site : Site
  slot : Nat
  id : Nat
  /-- Virtual address of the word or block (R364). -/
  va : Nat
  deriving DecidableEq, Repr, Inhabited

/-- A merge the switch holds for one target (R379): word value (ROP 0) or lanes (ROP 1), and its contributors. -/
structure Merge where
  window : Window
  rop : Nat
  target : Nat
  word : Word
  lanes : List Lane
  parts : List Contribution
  deriving DecidableEq, Repr, Inhabited

/-! ## Edge memory -/

/-- One word or block of a reduction (R370): its device pieces, its source bytes and its virtual address. -/
structure RedPart where
  pieces : List (Nat × Nat)
  data : List Byte
  va : Nat
  deriving DecidableEq, Repr, Inhabited

/-- What an edge access does at its home port (R369, R370). -/
inductive EdgeOp where
  | read
  | write (data : List Byte)
  | reduce (rop : Nat) (parts : List RedPart)
  deriving DecidableEq, Repr, Inhabited

/-- A translated granule on its way to its home port (R359): stream, virtual and device
address and length, and for an alias page its size, device base and the offset in the page (R368). -/
structure EdgeReq where
  site : Site
  slot : Nat
  id : Nat
  va : Nat
  dev : Nat
  len : Nat
  aliasPg : Option (Nat × Nat × Nat)
  op : EdgeOp
  deriving DecidableEq, Repr, Inhabited

/-- A cached translation at a port (R361): ASID, virtual page base, page size, leaf entry. -/
structure Cached where
  port : Nat
  asid : Nat
  page : Nat
  size : Nat
  entry : DWord
  deriving DecidableEq, Repr, Inhabited

/-! ## Stations -/

/-- FSTATE (R403). -/
inductive FieldState where
  | absent | testing | service | withdrawn
  deriving DecidableEq, Repr, Inhabited

/-- A die field as its station keeps it (R403 to R411). -/
structure Field where
  state : FieldState
  /-- OPP: 0 to 10, or 15 for 0.55 GHz. -/
  opp : Nat
  /-- Column taken over by the west and by the east spare, if any (R12). -/
  west : Option Nat
  east : Option Nat
  /-- Corrected and uncorrectable errors since reset, saturating (R403). -/
  corrected : Nat
  uncorrected : Nat
  deriving DecidableEq, Repr, Inhabited

def Field.blank : Field := { state := .absent, opp := 0, west := none, east := none, corrected := 0, uncorrected := 0 }

/-- MODSTAT.STATE (R403). -/
inductive ModState where
  | boot | reduced | full | failed
  deriving DecidableEq, Repr, Inhabited

/-- A work queue's registers (R385, R386), and whether its oldest record is held until it can be placed (R387). -/
structure Queue where
  base : DWord
  submit : DWord
  taken : DWord
  done : DWord
  en : Bool
  err : Bool
  log2 : Nat
  prio : Nat
  part : Nat
  faultEntry : Nat
  faultReason : Nat
  /-- Host port through which the queue was last enabled (R389). -/
  port : Nat
  deriving DecidableEq, Repr, Inhabited

def Queue.blank : Queue where
  base := 0
  submit := 0
  taken := 0
  done := 0
  en := false
  err := false
  log2 := 0
  prio := 0
  part := 0
  faultEntry := 0
  faultReason := 0
  port := 0

/-- A configured partition: fields FX0, FY0, FW, FH, and its save pool (R388, R391). -/
structure Partition where
  fx : Nat
  fy : Nat
  fw : Nat
  fh : Nat
  poolBase : Nat
  poolSize : Nat
  deriving DecidableEq, Repr, Inhabited

/-- A pipe of a launch (R68, R389): tag, sending and receiving role, and the tag entry's address and landing word. -/
structure Pipe where
  tag : Nat
  sender : Nat
  receiver : Nat
  handler : Nat
  landing : Word
  deriving DecidableEq, Repr, Inhabited

/-- One role of a launch record: what it fixes, and its image's content for its regions (R67, R389). -/
structure RoleLoad where
  info : RoleInfo
  content : List (Nat × List Byte)
  deriving DecidableEq, Repr, Inhabited

/-- Where a launch stands (R387, R392 to R394). -/
inductive Phase where
  | waiting | placed | running | draining | saved
  deriving DecidableEq, Repr, Inhabited

/-- A launch (R389, R399, R400). -/
structure Launch where
  /-- LAUNCH. -/
  id : Nat
  queue : Nat
  prio : Nat
  partition : Nat
  asid : Nat
  /-- Address and length of the completion area. -/
  compl : Nat
  complLen : Nat
  /-- Watchdog interval, log2 of cycles. -/
  watchdog : Nat
  step : DWord
  roles : List RoleLoad
  pipes : List Pipe
  /-- Initial counters: role, counter, value. -/
  counters : List (Nat × Nat × DWord)
  /-- Ranks: role, context, rank. -/
  ranks : List (Nat × Nat × Nat)
  phase : Phase
  /-- Ended by a cancel or by the loss of a field: status 2 with this reason. -/
  cancelled : Option Nat
  /-- Launch whose placement this launch is drained for. -/
  incoming : Nat
  /-- Failure records made so far, 16 words each (R145, R399). -/
  records : List (Vector Word 16)
  /-- Saved cores, by site number (R394, R395). -/
  saved : List (Nat × Core)
  deriving DecidableEq, Repr, Inhabited

/-- A page evicted to a save pool (R397): launch, site, page, partition and slot in its pool, the bytes and the ciphertext
they became, the addresses of its uncorrectable words and its digest. Page 256 + n is piece n of what did not fit the shadow
storage of the core's saved state (R395). -/
structure Evicted where
  launch : Nat
  site : Nat
  page : Nat
  part : Nat
  slot : Nat
  plain : List Byte
  cipher : List Byte
  bad : List Nat
  digest : BitVec 384
  deriving DecidableEq, Repr, Inhabited

/-- What a station records without a host format (R183, R187, R263, R283, R303). -/
inductive Note where
  | counterOverflow (site : Site) (n : Nat)
  | barrierMismatch (site : Site) (n : Nat)
  | sumMismatch (site : Site) (tag : Nat)
  | creamMismatch (site : Site) (tag : Nat)
  | waveMismatch (site : Site) (q : Nat)
  | linkDown (link : Nat)
  deriving DecidableEq, Repr, Inhabited

/-- One entry of a watchdog report (R202): site, context, address, and the wait; or a core's request queue head. -/
inductive WatchEntry where
  | waits (site : Nat) (ctx : Nat) (pc : Word) (w : Wait)
  | injecting (site : Nat) (ctx : Nat) (kind tag : Nat)
  | queued (site : Nat) (kind tag : Nat)
  deriving DecidableEq, Repr, Inhabited

/-- The security core, firmware window and host-visible status (R403, R410 to R414). -/
structure Station where
  state : ModState
  svn : Nat
  sigOk : Bool
  fields : Vector Field 64
  /-- Fused minimum security version (R413). -/
  minSvn : Nat
  /-- A signature check was made and failed (R412). -/
  sigBad : Bool
  /-- The station firmware image the loader verifies at power-on. -/
  firmware : List Byte
  /-- Firmware upload window, FWLEN and FWCTL.BAD (R412). -/
  window : Mem
  fwLen : Nat
  fwBad : Bool
  /-- MR0 to MR7 (R414). -/
  mr : Vector (BitVec 384) 8
  /-- Work queues with an entry, by number (R385); a queue with none has every register zero. -/
  queues : List (Nat × Queue)
  partitions : List Partition
  /-- Live ASIDs with their PTROOT (R362, R390). -/
  asids : List (Nat × Nat)
  /-- How often each ASID has been made live, by number: the security core derives its key each time (R397). -/
  keys : List (Nat × Nat)
  /-- By priority, the queue whose record was taken last (R387). -/
  served : List (Nat × Nat)
  /-- Failure records for launches of other modules: the module, and the record (R250, R401). -/
  foreign : List (Nat × Vector Word 16)
  /-- Next LAUNCH (R400). -/
  nextLaunch : Nat
  launches : List Launch
  evicted : List Evicted
  notes : List Note
  /-- Reports of the progress watchdogs, newest first: partition and entries (R202). -/
  reports : List (Nat × List WatchEntry)
  /-- Power clamp (R409): fields may not move up, and the samples below 7,600 W so far. -/
  clamped : Bool
  lowSamples : Nat
  deriving DecidableEq, Repr, Inhabited

/-! ## The machine -/

/-- Which agent moves next (log entry 2): a context issues its next instruction, or an event row of the opcode table
takes place, at a site and context and with a number that names its packet, link, queue, launch, slot or field. The other
four are how the accesses of one context come out of order (R123, R198, log entry 4): it issues a plain access that is
performed later, it issues a load that takes lines it has read ahead, it reads a line ahead for a load at a register, and
access n of a core is performed. -/
inductive Turn where
  | issue (site : Site) (ctx : CtxNo)
  | issueLate (site : Site) (ctx : CtxNo)
  | issueAhead (site : Site) (ctx : CtxNo)
  | look (site : Site) (ctx : CtxNo) (base line : Nat)
  | perform (site : Site) (n : Nat)
  | act (site : Site) (ctx : CtxNo) (num : Nat) (i : Instr)
  deriving DecidableEq, Repr, Inhabited

/-- One module of the Llynorn W9, its hosts' memory and its edge memory. -/
structure State where
  /-- Ordering code (R1). -/
  variant : Variant
  /-- System number of this module, and the system numbers in use (R373). -/
  sysNum : Nat
  modules : List Nat
  /-- Cores with an entry, by site number; a core with none is blank. -/
  cores : List (Nat × Core)
  /-- Packets in the mesh, in the order they were injected. -/
  mesh : List Packet
  /-- Packets for halted launches, held at the bridges (R381). -/
  heldArrivals : List Packet
  /-- Hormar links 0 to 31 (R374). -/
  links : Vector Link 32
  windows : List Window
  /-- Contributions on their way to the switch, merges at the switch, and merged contributions on their way home. -/
  contributions : List Contribution
  merges : List Merge
  merged : List Merge
  /-- Edge memory by device address (R359), and the size of each port's memory in bytes. -/
  edge : Mem
  portSize : Vector Nat 64
  /-- Device addresses of 8-byte words for which the memory reports an uncorrectable error (R360). -/
  edgeBad : List Nat
  edgeReqs : List EdgeReq
  caches : List Cached
  /-- Host memory and CXL memory mapped at the host ports, by port and address: port p at p × 2^64 (R389). -/
  host : Mem
  station : Station
  /-- Site and context of this step: those whose instruction issues, or where an event takes place. -/
  cur : Site × CtxNo
  /-- The number an event of this step names: of a packet, link, queue, launch, slot, partition or field. -/
  num : Nat
  /-- Turns to come; when there is none the next turn is free (log entry 2). -/
  agenda : List Turn
  /-- Free values drawn so far (the model's own counter). -/
  freeCount : Nat
  deriving DecidableEq, Repr, Inhabited

/-- Why a step stops. -/
inductive Fault where
  /-- Raised by the meaning of an encoded instruction when the context in `cur` is not ready or its core is held by no
  launch or halted: the device issues no instruction there. Safe: `step` never runs an instruction so. -/
  | notIssuing
  deriving DecidableEq, Repr, Inhabited

/-- Why an instruction has no meaning. -/
inductive Refusal where
  /-- Raised only by an arm of `exec` whose instruction has no meaning yet. Safe: nothing is claimed of it. -/
  | notModelled (mnemonic : String)
  deriving DecidableEq, Repr, Inhabited

def Station.reset : Station where
  state := .boot
  svn := 0
  sigOk := false
  fields := Vector.replicate 64 Field.blank
  minSvn := 0
  sigBad := false
  firmware := []
  window := []
  fwLen := 0
  fwBad := false
  mr := Vector.replicate 8 0
  queues := []
  partitions := []
  asids := []
  keys := []
  served := []
  foreign := []
  nextLaunch := 0
  launches := []
  evicted := []
  notes := []
  reports := []
  clamped := false
  lowSamples := 0

/-- The module right after power-on reset (R410): STATE is boot, no field is in service, no launch is placed, every
memory lists nothing and every register reads its reset value. -/
def State.reset : State where
  variant := .ma
  sysNum := 0
  modules := [0]
  cores := []
  mesh := []
  heldArrivals := []
  links := Vector.replicate 32 Link.blank
  windows := []
  contributions := []
  merges := []
  merged := []
  edge := []
  portSize := Vector.replicate 64 (2 ^ 39)
  edgeBad := []
  edgeReqs := []
  caches := []
  host := []
  station := Station.reset
  cur := (0, 0)
  num := 0
  agenda := []
  freeCount := 0

end Sys2Proof.Machine
end

