-- ==== Sys2Proof/Machine/Operands.lean ====
section
/-!
DEFINITION. The registers and selectors each instruction names, taken from the most significant field downward (R75),
and the registers it reads (R147).
-/
namespace Sys2Proof.Machine
open Sys2Proof

/-- A register, group or selector an instruction names (R73, R75). -/
inductive Named where
  | x (r : XReg)
  | pair (r : XReg)
  | v (r : VReg) (n : Nat)
  | ring (q : RingNo)
  | counter (n : Nat)
  | tcounter (esel : BitVec 8)
  | barrier (n : Nat)
  | crossing (n : Nat)
  deriving DecidableEq, Repr

def srcNamed : Src → List Named
  | .reg r => [.x r]
  | .lit _ => []

def pairNamed : PairSrc → List Named
  | .pair r => [.pair r]
  | .lit _ => []

def vsrcNamed : VSrc → List Named
  | .reg r => [.v r 1]
  | .lit _ => []

/-- The code of a register in a parity report (R147): n, 0x100 + n for a v register, 0x200 + its number for trap state. -/
def xr (r : XReg) : List Nat := [r.val]
def pr (r : XReg) : List Nat := if r.val = 0 then [] else [r.val, r.val + 1]
def vr (r : VReg) (n : Nat) : List Nat := (List.range n).map (0x100 + r.val + ·)
def srcReads : Src → List Nat
  | .reg r => xr r
  | .lit _ => []
def pairReads : PairSrc → List Nat
  | .pair r => pr r
  | .lit _ => []
def vsrcReads : VSrc → List Nat
  | .reg r => vr r 1
  | .lit _ => []
/-- MFS of a trap-state register reads it. -/
def trapReg (num : BitVec 12) : List Nat :=
  if 0x020 ≤ num.toNat ∧ num.toNat ≤ 0x029 then [0x200 + num.toNat] else []
/-- TRET reads TLEVEL and the EPC registers. -/
def trapRet : List Nat := [0x220, 0x224, 0x225]

/-- What an instruction names, most significant field first. -/
def namedOf : Instr → List Named
  | .add rd ra b => .x rd :: .x ra :: srcNamed b
  | .sub rd ra b => .x rd :: .x ra :: srcNamed b
  | .and rd ra b => .x rd :: .x ra :: srcNamed b
  | .or rd ra b => .x rd :: .x ra :: srcNamed b
  | .xor rd ra b => .x rd :: .x ra :: srcNamed b
  | .andn rd ra b => .x rd :: .x ra :: srcNamed b
  | .shl rd ra b => .x rd :: .x ra :: srcNamed b
  | .shr rd ra b => .x rd :: .x ra :: srcNamed b
  | .sra rd ra b => .x rd :: .x ra :: srcNamed b
  | .rotl rd ra b => .x rd :: .x ra :: srcNamed b
  | .slt rd ra b => .x rd :: .x ra :: srcNamed b
  | .sltn rd ra b => .x rd :: .x ra :: srcNamed b
  | .min rd ra b => .x rd :: .x ra :: srcNamed b
  | .max rd ra b => .x rd :: .x ra :: srcNamed b
  | .minn rd ra b => .x rd :: .x ra :: srcNamed b
  | .maxn rd ra b => .x rd :: .x ra :: srcNamed b
  | .mul rd ra b => .x rd :: .x ra :: srcNamed b
  | .mulh rd ra b => .x rd :: .x ra :: srcNamed b
  | .mulhn rd ra b => .x rd :: .x ra :: srcNamed b
  | .div rd ra b => .x rd :: .x ra :: srcNamed b
  | .divn rd ra b => .x rd :: .x ra :: srcNamed b
  | .rem rd ra b => .x rd :: .x ra :: srcNamed b
  | .remn rd ra b => .x rd :: .x ra :: srcNamed b
  | .clz rd ra => [.x rd, .x ra]
  | .ctz rd ra => [.x rd, .x ra]
  | .popc rd ra => [.x rd, .x ra]
  | .bext rd ra b => .x rd :: .x ra :: srcNamed b
  | .bins rd ra b => .x rd :: .x ra :: srcNamed b
  | .addi rd ra _ => [.x rd, .x ra]
  | .andi rd ra _ => [.x rd, .x ra]
  | .ori rd ra _ => [.x rd, .x ra]
  | .xori rd ra _ => [.x rd, .x ra]
  | .slti rd ra _ => [.x rd, .x ra]
  | .sltni rd ra _ => [.x rd, .x ra]
  | .lui rd _ => [.x rd]
  | .shli rd ra _ => [.x rd, .x ra]
  | .shri rd ra _ => [.x rd, .x ra]
  | .srai rd ra _ => [.x rd, .x ra]
  | .lb rd ra _ _ _ => [.x rd, .x ra]
  | .lbn rd ra _ _ _ => [.x rd, .x ra]
  | .lh rd ra _ _ _ => [.x rd, .x ra]
  | .lhn rd ra _ _ _ => [.x rd, .x ra]
  | .lw rd ra _ _ _ => [.x rd, .x ra]
  | .ld rd ra _ _ _ => [.pair rd, .x ra]
  | .sb rs ra _ _ _ => [.x rs, .x ra]
  | .sh rs ra _ _ _ => [.x rs, .x ra]
  | .sw rs ra _ _ _ => [.x rs, .x ra]
  | .sd rs ra _ _ _ => [.pair rs, .x ra]
  | .amoadd rd ra b _ _ => .x rd :: .x ra :: srcNamed b
  | .amoand rd ra b _ _ => .x rd :: .x ra :: srcNamed b
  | .amoor rd ra b _ _ => .x rd :: .x ra :: srcNamed b
  | .amoxor rd ra b _ _ => .x rd :: .x ra :: srcNamed b
  | .amomin rd ra b _ _ => .x rd :: .x ra :: srcNamed b
  | .amomax rd ra b _ _ => .x rd :: .x ra :: srcNamed b
  | .amominn rd ra b _ _ => .x rd :: .x ra :: srcNamed b
  | .amomaxn rd ra b _ _ => .x rd :: .x ra :: srcNamed b
  | .amoswp rd ra b _ _ => .x rd :: .x ra :: srcNamed b
  | .amocas rd ra b _ _ => .x rd :: .x ra :: pairNamed b
  | .beq ra rb _ => [.x ra, .x rb]
  | .bne ra rb _ => [.x ra, .x rb]
  | .blt ra rb _ => [.x ra, .x rb]
  | .bge ra rb _ => [.x ra, .x rb]
  | .bltn ra rb _ => [.x ra, .x rb]
  | .bgen ra rb _ => [.x ra, .x rb]
  | .jal rd _ => [.x rd]
  | .jalr rd ra _ => [.x rd, .x ra]
  | .tdone => []
  | .tyield => []
  | .tspawn rd ra => [.x rd, .x ra]
  | .trap _ => []
  | .tret => []
  | .mfs rd _ => [.x rd]
  | .mts ra _ => [.x ra]
  | .breakpt _ => []
  | .vaddF vd va b => .v vd 1 :: .v va 1 :: vsrcNamed b
  | .vsubF vd va b => .v vd 1 :: .v va 1 :: vsrcNamed b
  | .vmulF vd va b => .v vd 1 :: .v va 1 :: vsrcNamed b
  | .vfmaF vd va b vc => (.v vd 1 :: .v va 1 :: vsrcNamed b) ++ [.v vc 1]
  | .vfmsF vd va b vc => (.v vd 1 :: .v va 1 :: vsrcNamed b) ++ [.v vc 1]
  | .vminF vd va b => .v vd 1 :: .v va 1 :: vsrcNamed b
  | .vmaxF vd va b => .v vd 1 :: .v va 1 :: vsrcNamed b
  | .vabsF vd va => [.v vd 1, .v va 1]
  | .vcltF vd va b => .v vd 1 :: .v va 1 :: vsrcNamed b
  | .vceqF vd va b => .v vd 1 :: .v va 1 :: vsrcNamed b
  | .vcleF vd va b => .v vd 1 :: .v va 1 :: vsrcNamed b
  | .vaddI vd va b => .v vd 1 :: .v va 1 :: vsrcNamed b
  | .vsubI vd va b => .v vd 1 :: .v va 1 :: vsrcNamed b
  | .vmulI vd va b => .v vd 1 :: .v va 1 :: vsrcNamed b
  | .vminI vd va b => .v vd 1 :: .v va 1 :: vsrcNamed b
  | .vmaxI vd va b => .v vd 1 :: .v va 1 :: vsrcNamed b
  | .vand vd va b => .v vd 1 :: .v va 1 :: vsrcNamed b
  | .vor vd va b => .v vd 1 :: .v va 1 :: vsrcNamed b
  | .vxor vd va b => .v vd 1 :: .v va 1 :: vsrcNamed b
  | .vshl vd va b => .v vd 1 :: .v va 1 :: vsrcNamed b
  | .vshr vd va b => .v vd 1 :: .v va 1 :: vsrcNamed b
  | .vsra vd va b => .v vd 1 :: .v va 1 :: vsrcNamed b
  | .vcltI vd va b => .v vd 1 :: .v va 1 :: vsrcNamed b
  | .vceqI vd va b => .v vd 1 :: .v va 1 :: vsrcNamed b
  | .vsel vd va b vc => (.v vd 1 :: .v va 1 :: vsrcNamed b) ++ [.v vc 1]
  | .vmask vd va b => .v vd 1 :: .v va 1 :: vsrcNamed b
  | .vshuf vd va b => .v vd 1 :: .v va 1 :: vsrcNamed b
  | .vbcast vd va _ => [.v vd 1, .v va 1]
  | .vext vd va b _ => .v vd 1 :: .v va 1 :: vsrcNamed b
  | .vraddF vd va => [.v vd 1, .v va 1]
  | .vrmaxF vd va => [.v vd 1, .v va 1]
  | .vraddI vd va => [.v vd 1, .v va 1]
  | .vld v ra rb _ _ => [.v v 1, .x ra, .x rb]
  | .vst v ra rb _ _ => [.v v 1, .x ra, .x rb]
  | .vldt v ra rb => [.v v 4, .x ra, .x rb]
  | .vldq v q rb => [.v v 1, .ring q, .x rb]
  | .vstq v q rb => [.v v 1, .ring q, .x rb]
  | .vgath v ra rb _ _ => [.v v 1, .x ra, .x rb]
  | .vscat v ra rb _ _ => [.v v 2, .x ra, .x rb]
  | .vlds v ra rb _ => [.v v 1, .x ra, .x rb]
  | .vcvtfi vd va => [.v vd 1, .v va 1]
  | .vcvtif vd va => [.v vd 1, .v va 1]
  | .vpkbf vd va vb _ => [.v vd 1, .v va 1, .v vb 1]
  | .vupbf vd va _ => [.v vd 1, .v va 1]
  | .vdec8 vd va vb _ => [.v vd 1, .v va 4, .v vb 1]
  | .vdec6 vd va vb _ => [.v vd 1, .v va 3, .v vb 1]
  | .venc8 vd va _ _ => [.v vd 1, .v va 1]
  | .venc6 vd va _ _ => [.v vd 1, .v va 1]
  | .vexp2 vd va => [.v vd 1, .v va 1]
  | .vlog2 vd va => [.v vd 1, .v va 1]
  | .vrcp vd va => [.v vd 1, .v va 1]
  | .vrsq vd va => [.v vd 1, .v va 1]
  | .vtanh vd va => [.v vd 1, .v va 1]
  | .vsmx vd va => [.v vd 2, .v va 1]
  | .vsmxap vd va vb => [.v vd 1, .v va 1, .v vb 2]
  | .tshape rb _ => [.x rb]
  | .tgeom rb _ => [.pair rb]
  | .mma qa qb esel => [.ring qa, .ring qb, .tcounter esel]
  | .mmaw qa qb esel => [.ring qa, .ring qb, .tcounter esel]
  | .tqnt esel => [.tcounter esel]
  | .tdqnt esel => [.tcounter esel]
  | .tstpair esel => [.tcounter esel]
  | .tdecay _ esel => [.tcounter esel]
  | .tdecaySweep _ esel => [.tcounter esel]
  | .tdecayDrop _ esel => [.tcounter esel]
  | .tsadd esel => [.tcounter esel]
  | .tnorm rb esel => [.x rb, .tcounter esel]
  | .tscl _ rb _ => [.x rb]
  | .tfact rb _ => [.x rb]
  | .qcfg q rp => [.ring q, .pair rp]
  | .qwaitf q _ ra => [.ring q, .x ra]
  | .qwaite q _ ra => [.ring q, .x ra]
  | .qadvh q _ ra => [.ring q, .x ra]
  | .qadvt q _ ra => [.ring q, .x ra]
  | .qstat q rd => [.ring q, .x rd]
  | .qreset q => [.ring q]
  | .msend rb _ _ => [.x rb]
  | .mput rb _ => [.x rb]
  | .mget rb _ => [.x rb]
  | .mamo ra rb _ esel => [if esel == 9 then .pair ra else .x ra, .x rb]
  | .mbind rb _ => [.pair rb]
  | .mrecv rd _ => [.x rd]
  | .fscfg rb _ => [.x rb]
  | .fsum rb _ => [.x rb]
  | .fsraise rb _ => [.x rb]
  | .fsres rd rb _ => [.x rd, .x rb]
  | .cbcast rb _ => [.x rb]
  | .cjoin rb _ => [.x rb]
  | .cskim vd rd rb _ => [.x rd, .x rb, .v vd 1]
  | .ccut rb _ => [.x rb]
  | .cgath rb _ => [.x rb]
  | .cprec rd rb _ => [.x rd, .x rb]
  | .cadd rb _ esel => [.x rb, .counter esel.toNat]
  | .cwait ra rb _ esel => [.x ra, .x rb, .counter esel.toNat]
  | .cread rd esel => [.pair rd, .counter esel.toNat]
  | .craise ra rb _ esel => [.x ra, .x rb, .counter esel.toNat]
  | .cbrk esel => [.counter esel.toNat]
  | .ctest rd rb esel => [.x rd, .x rb, .counter esel.toNat]
  | .fence _ => []
  | .fencee => []
  | .barcfg rb esel => [.pair rb, .barrier esel.toNat]
  | .barrive _ esel => [.barrier esel.toNat]
  | .barwait rb _ esel => [.x rb, .barrier esel.toNat]
  | .bartap bar _ => [.barrier bar.val]
  | .stepadv => []
  | .steprd rd => [.x rd]
  | .erinit rb esel => [.pair rb, .crossing esel.toNat]
  | .erdone _ => []
  | .erpass => []
  | .erhalt => []
  | .erchk rd esel => [.x rd, .crossing esel.toNat]
  | .erstat rd esel => [.x rd, .crossing esel.toNat]
  | .sgeom rb esel => [if esel == 8 then .x rb else .pair rb]
  | .scopy rb _ _ => [.x rb]
  | .sload rb _ _ => [.x rb]
  | .sstore rb _ _ => [.x rb]
  | .sfeed rb _ => [.x rb]
  | .sdrain rb _ => [.x rb]
  | .sred rb _ _ => [.x rb]
  | .sxput rb _ _ => [.x rb]
  | .sbar _ => []
  | .scancel _ => []
  | .sresume _ => []
  | .sstat rd rb _ => [.x rd, .x rb]
  | .simg ra rb _ => [.x ra, .x rb]
  | .mergedContribution _ => []
  | .flitArrives _ => []
  | .acknowledge _ => []
  | .submit _ => []
  | .queueEnable _ => []
  | .registerWrite _ _ => []
  | .governor _ => []
  | .powerSample _ _ => []
  | .fieldSelfTest _ => []
  | .illegalEncoding _ => []
  | .instructionFetchFault _ _ => []
  | .meshLinkLoss _ => []
  | .asyncFault => []
  | .wake => []
  | .caddPerformed => []
  | .injection => []
  | .requestArrival => []
  | .sendServed => []
  | .putServed => []
  | .getServed => []
  | .amoServed => []
  | .ackLands => []
  | .getrLands => []
  | .amorLands => []
  | .nackLands => []
  | .sumLands => []
  | .renupLands => []
  | .rendnLands => []
  | .sumDoneLands => []
  | .sumFailLands => []
  | .openLands => []
  | .trainDataBeat => []
  | .endLands => []
  | .cutLands => []
  | .trainDone => []
  | .stepBeat => []
  | .arrivalBeat => []
  | .releaseBeat => []
  | .barrierArrivalSent => []
  | .handshakeLands => []
  | .mismatchBeat => []
  | .flipLands => []
  | .haltLands => []
  | .fire => []
  | .waveFrame => []
  | .creditLands => []
  | .creditReset => []
  | .failFrame => []
  | .tensorStart => []
  | .mmaRow => []
  | .tensorComplete => []
  | .decaySweep => []
  | .streamActivate => []
  | .granule => []
  | .streamEnd => []
  | .homePortAccess => []
  | .windowContribution => []
  | .holdTimeExpiry => []
  | .lossOfLock => []
  | .retrainComplete => []
  | .retrainTimeout => []
  | .queueDisable => []
  | .launchRecord => []
  | .launchPlacement => []
  | .launchStart => []
  | .launchComplete => []
  | .preempt => []
  | .drainDone => []
  | .resume => []
  | .pageEviction => []
  | .pageRestore => []
  | .configurePartitions => []
  | .invalidateTranslations => []
  | .writeReductionWindow => []
  | .cancelLaunch => []
  | .retireAsid => []
  | .attest => []
  | .extend => []
  | .progressWatchdog => []
  | .coolantFault => []
  | .fieldLoss => []
  | .powerOnReset => []
  | .go => []
  | .vectorEnginePerform => []
  | .flitReplay => []

/-- The registers an instruction reads, by their codes in a parity report. -/
def readCodes : Instr → List Nat
  | .add _ ra b => xr ra ++ srcReads b
  | .sub _ ra b => xr ra ++ srcReads b
  | .and _ ra b => xr ra ++ srcReads b
  | .or _ ra b => xr ra ++ srcReads b
  | .xor _ ra b => xr ra ++ srcReads b
  | .andn _ ra b => xr ra ++ srcReads b
  | .shl _ ra b => xr ra ++ srcReads b
  | .shr _ ra b => xr ra ++ srcReads b
  | .sra _ ra b => xr ra ++ srcReads b
  | .rotl _ ra b => xr ra ++ srcReads b
  | .slt _ ra b => xr ra ++ srcReads b
  | .sltn _ ra b => xr ra ++ srcReads b
  | .min _ ra b => xr ra ++ srcReads b
  | .max _ ra b => xr ra ++ srcReads b
  | .minn _ ra b => xr ra ++ srcReads b
  | .maxn _ ra b => xr ra ++ srcReads b
  | .mul _ ra b => xr ra ++ srcReads b
  | .mulh _ ra b => xr ra ++ srcReads b
  | .mulhn _ ra b => xr ra ++ srcReads b
  | .div _ ra b => xr ra ++ srcReads b
  | .divn _ ra b => xr ra ++ srcReads b
  | .rem _ ra b => xr ra ++ srcReads b
  | .remn _ ra b => xr ra ++ srcReads b
  | .clz _ ra => xr ra
  | .ctz _ ra => xr ra
  | .popc _ ra => xr ra
  | .bext _ ra b => xr ra ++ srcReads b
  | .bins rd ra b => xr rd ++ xr ra ++ srcReads b
  | .addi _ ra _ => xr ra
  | .andi _ ra _ => xr ra
  | .ori _ ra _ => xr ra
  | .xori _ ra _ => xr ra
  | .slti _ ra _ => xr ra
  | .sltni _ ra _ => xr ra
  | .lui _ _ => []
  | .shli _ ra _ => xr ra
  | .shri _ ra _ => xr ra
  | .srai _ ra _ => xr ra
  | .lb _ ra _ _ _ => xr ra
  | .lbn _ ra _ _ _ => xr ra
  | .lh _ ra _ _ _ => xr ra
  | .lhn _ ra _ _ _ => xr ra
  | .lw _ ra _ _ _ => xr ra
  | .ld _ ra _ _ _ => xr ra
  | .sb rs ra _ _ _ => xr rs ++ xr ra
  | .sh rs ra _ _ _ => xr rs ++ xr ra
  | .sw rs ra _ _ _ => xr rs ++ xr ra
  | .sd rs ra _ _ _ => pr rs ++ xr ra
  | .amoadd _ ra b _ _ => xr ra ++ srcReads b
  | .amoand _ ra b _ _ => xr ra ++ srcReads b
  | .amoor _ ra b _ _ => xr ra ++ srcReads b
  | .amoxor _ ra b _ _ => xr ra ++ srcReads b
  | .amomin _ ra b _ _ => xr ra ++ srcReads b
  | .amomax _ ra b _ _ => xr ra ++ srcReads b
  | .amominn _ ra b _ _ => xr ra ++ srcReads b
  | .amomaxn _ ra b _ _ => xr ra ++ srcReads b
  | .amoswp _ ra b _ _ => xr ra ++ srcReads b
  | .amocas _ ra b _ _ => xr ra ++ pairReads b
  | .beq ra rb _ => xr ra ++ xr rb
  | .bne ra rb _ => xr ra ++ xr rb
  | .blt ra rb _ => xr ra ++ xr rb
  | .bge ra rb _ => xr ra ++ xr rb
  | .bltn ra rb _ => xr ra ++ xr rb
  | .bgen ra rb _ => xr ra ++ xr rb
  | .jal _ _ => []
  | .jalr _ ra _ => xr ra
  | .tdone => []
  | .tyield => []
  | .tspawn rd ra => xr rd ++ xr ra
  | .trap _ => []
  | .tret => trapRet
  | .mfs _ num => trapReg num
  | .mts ra _ => xr ra
  | .breakpt _ => []
  | .vaddF _ va b => vr va 1 ++ vsrcReads b
  | .vsubF _ va b => vr va 1 ++ vsrcReads b
  | .vmulF _ va b => vr va 1 ++ vsrcReads b
  | .vfmaF _ va b vc => vr va 1 ++ vsrcReads b ++ vr vc 1
  | .vfmsF _ va b vc => vr va 1 ++ vsrcReads b ++ vr vc 1
  | .vminF _ va b => vr va 1 ++ vsrcReads b
  | .vmaxF _ va b => vr va 1 ++ vsrcReads b
  | .vabsF _ va => vr va 1
  | .vcltF _ va b => vr va 1 ++ vsrcReads b
  | .vceqF _ va b => vr va 1 ++ vsrcReads b
  | .vcleF _ va b => vr va 1 ++ vsrcReads b
  | .vaddI _ va b => vr va 1 ++ vsrcReads b
  | .vsubI _ va b => vr va 1 ++ vsrcReads b
  | .vmulI _ va b => vr va 1 ++ vsrcReads b
  | .vminI _ va b => vr va 1 ++ vsrcReads b
  | .vmaxI _ va b => vr va 1 ++ vsrcReads b
  | .vand _ va b => vr va 1 ++ vsrcReads b
  | .vor _ va b => vr va 1 ++ vsrcReads b
  | .vxor _ va b => vr va 1 ++ vsrcReads b
  | .vshl _ va b => vr va 1 ++ vsrcReads b
  | .vshr _ va b => vr va 1 ++ vsrcReads b
  | .vsra _ va b => vr va 1 ++ vsrcReads b
  | .vcltI _ va b => vr va 1 ++ vsrcReads b
  | .vceqI _ va b => vr va 1 ++ vsrcReads b
  | .vsel _ va b vc => vr va 1 ++ vsrcReads b ++ vr vc 1
  | .vmask _ va b => vr va 1 ++ vsrcReads b
  | .vshuf _ va b => vr va 1 ++ vsrcReads b
  | .vbcast _ va _ => vr va 1
  | .vext _ va b _ => vr va 1 ++ vsrcReads b
  | .vraddF _ va => vr va 1
  | .vrmaxF _ va => vr va 1
  | .vraddI _ va => vr va 1
  | .vld _ ra rb _ _ => xr ra ++ xr rb
  | .vst v ra rb _ _ => vr v 1 ++ xr ra ++ xr rb
  | .vldt _ ra rb => xr ra ++ xr rb
  | .vldq _ _ rb => xr rb
  | .vstq v _ rb => vr v 1 ++ xr rb
  | .vgath v ra rb _ _ => vr v 1 ++ xr ra ++ xr rb
  | .vscat v ra rb _ _ => vr v 2 ++ xr ra ++ xr rb
  | .vlds _ ra rb _ => xr ra ++ xr rb
  | .vcvtfi _ va => vr va 1
  | .vcvtif _ va => vr va 1
  | .vpkbf _ va vb _ => vr va 1 ++ vr vb 1
  | .vupbf _ va _ => vr va 1
  | .vdec8 _ va vb e => [0x100 + va.val + e.val / 4] ++ vr vb 1
  | .vdec6 _ va vb e => ((List.range 3).filter fun c => decide (6 * e.val / 32 ≤ c ∧ c ≤ (6 * e.val + 5) / 32)).map
      (0x100 + va.val + ·) ++ vr vb 1
  | .venc8 _ va _ _ => vr va 1
  | .venc6 _ va _ _ => vr va 1
  | .vexp2 _ va => vr va 1
  | .vlog2 _ va => vr va 1
  | .vrcp _ va => vr va 1
  | .vrsq _ va => vr va 1
  | .vtanh _ va => vr va 1
  | .vsmx vd va => vr vd 2 ++ vr va 1
  | .vsmxap _ va vb => vr va 1 ++ vr vb 2
  | .tshape rb _ => xr rb
  | .tgeom rb _ => pr rb
  | .mma _ _ _ => []
  | .mmaw _ _ _ => []
  | .tqnt _ => []
  | .tdqnt _ => []
  | .tstpair _ => []
  | .tdecay _ _ => []
  | .tdecaySweep _ _ => []
  | .tdecayDrop _ _ => []
  | .tsadd _ => []
  | .tnorm rb _ => xr rb
  | .tscl _ rb _ => xr rb
  | .tfact rb _ => xr rb
  | .qcfg _ rp => pr rp
  | .qwaitf _ _ ra => xr ra
  | .qwaite _ _ ra => xr ra
  | .qadvh _ _ ra => xr ra
  | .qadvt _ _ ra => xr ra
  | .qstat _ _ => []
  | .qreset _ => []
  | .msend rb _ _ => xr rb
  | .mput rb _ => xr rb
  | .mget rb _ => xr rb
  | .mamo ra rb _ esel => (if esel == 9 then pr ra else xr ra) ++ xr rb
  | .mbind rb _ => pr rb
  | .mrecv _ _ => []
  | .fscfg rb _ => xr rb
  | .fsum rb _ => xr rb
  | .fsraise rb _ => xr rb
  | .fsres _ rb _ => xr rb
  | .cbcast rb _ => xr rb
  | .cjoin rb _ => xr rb
  | .cskim _ _ rb _ => xr rb
  | .ccut rb _ => xr rb
  | .cgath rb _ => xr rb
  | .cprec _ rb _ => xr rb
  | .cadd rb _ _ => xr rb
  | .cwait ra rb _ _ => xr ra ++ xr rb
  | .cread _ _ => []
  | .craise ra rb _ _ => xr ra ++ xr rb
  | .cbrk _ => []
  | .ctest _ rb _ => xr rb
  | .fence _ => []
  | .fencee => []
  | .barcfg rb _ => pr rb
  | .barrive _ _ => []
  | .barwait rb _ _ => xr rb
  | .bartap _ _ => []
  | .stepadv => []
  | .steprd _ => []
  | .erinit rb _ => pr rb
  | .erdone _ => []
  | .erpass => []
  | .erhalt => []
  | .erchk _ _ => []
  | .erstat _ _ => []
  | .sgeom rb esel => if esel == 8 then xr rb else pr rb
  | .scopy rb _ _ => xr rb
  | .sload rb _ _ => xr rb
  | .sstore rb _ _ => xr rb
  | .sfeed rb _ => xr rb
  | .sdrain rb _ => xr rb
  | .sred rb _ _ => xr rb
  | .sxput rb _ _ => xr rb
  | .sbar _ => []
  | .scancel _ => []
  | .sresume _ => []
  | .sstat _ rb _ => xr rb
  | .simg ra rb _ => xr ra ++ xr rb
  | .mergedContribution _ => []
  | .flitArrives _ => []
  | .acknowledge _ => []
  | .submit _ => []
  | .queueEnable _ => []
  | .registerWrite _ _ => []
  | .governor _ => []
  | .powerSample _ _ => []
  | .fieldSelfTest _ => []
  | .illegalEncoding _ => []
  | .instructionFetchFault _ _ => []
  | .meshLinkLoss _ => []
  | .asyncFault => []
  | .wake => []
  | .caddPerformed => []
  | .injection => []
  | .requestArrival => []
  | .sendServed => []
  | .putServed => []
  | .getServed => []
  | .amoServed => []
  | .ackLands => []
  | .getrLands => []
  | .amorLands => []
  | .nackLands => []
  | .sumLands => []
  | .renupLands => []
  | .rendnLands => []
  | .sumDoneLands => []
  | .sumFailLands => []
  | .openLands => []
  | .trainDataBeat => []
  | .endLands => []
  | .cutLands => []
  | .trainDone => []
  | .stepBeat => []
  | .arrivalBeat => []
  | .releaseBeat => []
  | .barrierArrivalSent => []
  | .handshakeLands => []
  | .mismatchBeat => []
  | .flipLands => []
  | .haltLands => []
  | .fire => []
  | .waveFrame => []
  | .creditLands => []
  | .creditReset => []
  | .failFrame => []
  | .tensorStart => []
  | .mmaRow => []
  | .tensorComplete => []
  | .decaySweep => []
  | .streamActivate => []
  | .granule => []
  | .streamEnd => []
  | .homePortAccess => []
  | .windowContribution => []
  | .holdTimeExpiry => []
  | .lossOfLock => []
  | .retrainComplete => []
  | .retrainTimeout => []
  | .queueDisable => []
  | .launchRecord => []
  | .launchPlacement => []
  | .launchStart => []
  | .launchComplete => []
  | .preempt => []
  | .drainDone => []
  | .resume => []
  | .pageEviction => []
  | .pageRestore => []
  | .configurePartitions => []
  | .invalidateTranslations => []
  | .writeReductionWindow => []
  | .cancelLaunch => []
  | .retireAsid => []
  | .attest => []
  | .extend => []
  | .progressWatchdog => []
  | .coolantFault => []
  | .fieldLoss => []
  | .powerOnReset => []
  | .go => []
  | .vectorEnginePerform => []
  | .flitReplay => []

/-- What a named object reports as EVAL when it is beyond the count the launch declared (R75), if it is. -/
def namedBeyond (ro : RoleInfo) : Named → Option Nat
  | .x r => if ro.xn ≤ r.val then some r.val else none
  | .pair r => if ro.xn ≤ r.val then some r.val else if ro.xn ≤ r.val + 1 then some (r.val + 1) else none
  | .v r n => if ro.vn < r.val + n then some (0x100 + max r.val ro.vn) else none
  | .ring q => if ro.rings ≤ q.val then some (0x200 + q.val) else none
  | .counter n => if ro.counters ≤ n ∧ n ≠ 63 then some (0x200 + n) else none
  | .tcounter e => if ro.counters ≤ e.toNat ∧ e.toNat < 63 then some (0x200 + e.toNat) else none
  | .barrier n => if ro.barriers ≤ n then some (0x200 + n) else none
  | .crossing n => if ro.crossings ≤ n then some (0x200 + n) else none

/-- The EVAL of the REGRANGE trap of an instruction, when it names anything beyond its count (R75). -/
def rangeFault (ro : RoleInfo) (i : Instr) : Option Nat := (namedOf i).findSome? (namedBeyond ro)

end Sys2Proof.Machine
end

