-- ==== Sys2Proof/Machine/Ops.lean ====
section
/-!
DEFINITION. The named operations over the state that every meaning shares: memories, cores and contexts, regions,
range locks, error words, counters, taking a trap and returning from one, kills and their records, and the checks every
instruction makes before its own (R88).
-/
namespace Sys2Proof.Machine
open Sys2Proof

/-! ## Sorted association lists -/

/-- The entry of a key. -/
def assocGet {α : Type} : List (Nat × α) → Nat → Option α
  | [], _ => none
  | (j, v) :: l, k => if j = k then some v else assocGet l k

/-- Sets the entry of a key, keeping the keys rising. -/
def assocSet {α : Type} : List (Nat × α) → Nat → α → List (Nat × α)
  | [], k, v => [(k, v)]
  | (j, w) :: l, k, v => if k < j then (k, v) :: (j, w) :: l else if j = k then (k, v) :: l else (j, w) :: assocSet l k v

/-- Removes the entry of a key. -/
def assocDel {α : Type} (l : List (Nat × α)) (k : Nat) : List (Nat × α) := l.filter (fun e => e.1 != k)

/-! ## Memories -/

/-- The byte at an address; an unlisted address reads as zero (log entry 6). -/
def memGet (m : Mem) (a : Nat) : Byte := (assocGet m a).getD 0

/-- Writes one byte, in canonical form: a zero removes the entry. -/
def memSet : Mem → Nat → Byte → Mem
  | [], a, b => if b = 0 then [] else [(a, b)]
  | (j, c) :: l, a, b =>
    if a < j then (if b = 0 then (j, c) :: l else (a, b) :: (j, c) :: l)
    else if j = a then (if b = 0 then l else (a, b) :: l)
    else (j, c) :: memSet l a b

/-- The canonical form: addresses strictly rising from lo, and no zero byte. -/
def memWfFrom : Nat → Mem → Bool
  | _, [] => true
  | lo, (a, b) :: l => decide (lo ≤ a) && b != 0 && memWfFrom (a + 1) l

/-- The canonical form of a memory. -/
def Mem.wf (m : Mem) : Bool := memWfFrom 0 m

/-- n bytes from an address upward. -/
def readBytes (m : Mem) (a : Nat) : Nat → List Byte
  | 0 => []
  | n + 1 => memGet m a :: readBytes m (a + 1) n

/-- Writes bytes from an address upward. -/
def writeBytes (m : Mem) (a : Nat) : List Byte → Mem
  | [] => m
  | b :: bs => writeBytes (memSet m a b) (a + 1) bs

/-- The number little-endian bytes spell (R5). -/
def natOfBytes : List Byte → Nat
  | [] => 0
  | b :: bs => b.toNat + 256 * natOfBytes bs

/-- The n little-endian bytes of a number (R5). -/
def bytesOfNat : Nat → Nat → List Byte
  | 0, _ => []
  | n + 1, v => BitVec.ofNat 8 (v % 256) :: bytesOfNat n (v / 256)

/-- The n-byte little-endian number at an address. -/
def readNat (m : Mem) (a n : Nat) : Nat := natOfBytes (readBytes m a n)
def readWord (m : Mem) (a : Nat) : Word := BitVec.ofNat 32 (readNat m a 4)
def writeNat (m : Mem) (a n v : Nat) : Mem := writeBytes m a (bytesOfNat n v)

/-- Bits [hi:lo] of a number (R5). -/
def bitsN (v hi lo : Nat) : Nat := v / 2 ^ lo % 2 ^ (hi + 1 - lo)
/-- Bit n of a number. -/
def bitN (v n : Nat) : Bool := v / 2 ^ n % 2 == 1

/-! ## Lists and vectors by number -/

/-- Sets the element of a vector at a number, if there is one. -/
def vset {α : Type} {n : Nat} (v : Vector α n) (i : Nat) (a : α) : Vector α n := v.setIfInBounds i a
/-- The element of a vector at a number. -/
def vget {α : Type} [Inhabited α] {n : Nat} (v : Vector α n) (i : Nat) : α := v.getD i default
def vmod {α : Type} [Inhabited α] {n : Nat} (v : Vector α n) (i : Nat) (f : α → α) : Vector α n := vset v i (f (vget v i))

/-- The element at place i of a list, and the list without it. -/
def takeAt {α : Type} : List α → Nat → Option (α × List α)
  | [], _ => none
  | a :: l, 0 => some (a, l)
  | a :: l, i + 1 => (takeAt l i).map fun (b, r) => (b, a :: r)

/-! ## Cores and contexts -/

/-- The core at a site; a core with no entry is blank. -/
def State.core (s : State) (p : Site) : Core := (assocGet s.cores p.toNat).getD Core.blank
def State.setCore (s : State) (p : Site) (c : Core) : State := { s with cores := assocSet s.cores p.toNat c }
def State.onCore (s : State) (p : Site) (f : Core → Core) : State := s.setCore p (f (s.core p))
def Core.ctx (c : Core) (k : CtxNo) : Ctx := c.ctxs.get k
def Core.setCtx (c : Core) (k : CtxNo) (x : Ctx) : Core := { c with ctxs := c.ctxs.set k x }
def Core.onCtx (c : Core) (k : CtxNo) (f : Ctx → Ctx) : Core := c.setCtx k (f (c.ctx k))
/-- The core and the context of the current issue slot. -/
def State.here (s : State) : Core := s.core s.cur.1
def State.me (s : State) : Ctx := s.here.ctx s.cur.2
def State.onHere (s : State) (f : Core → Core) : State := s.onCore s.cur.1 f
def State.onMe (s : State) (f : Ctx → Ctx) : State := s.onHere fun c => c.onCtx s.cur.2 f

/-- The state with the cores of a saved launch as they were saved. -/
def State.unsaved (s : State) (l : Launch) : State :=
  l.saved.foldl (fun s (p, c) => s.setCore (BitVec.ofNat 18 p) c) s
/-- Something happens to a launch that is saved, in its saved cores (R150, R377). -/
def State.inSaved (s : State) (l : Launch) (f : State → State) : State :=
  let t := f (s.unsaved l)
  let saved := l.saved.map fun (p, _) => (p, t.core (BitVec.ofNat 18 p))
  { t with
    cores := s.cores
    station := { t.station with launches := t.station.launches.map fun m => if m.id = l.id then { m with saved := saved } else m } }

/-- Scalar register r: x0 reads zero (R73). -/
def Ctx.rx (c : Ctx) (r : XReg) : Word := if r.val = 0 then 0 else c.x.get r
/-- Writes scalar register r: a write to x0 is discarded (R73). -/
def Ctx.wx (c : Ctx) (r : XReg) (v : Word) : Ctx := if r.val = 0 then c else { c with x := c.x.set r v }
/-- The pair r, its low word in the even register; pair 0 reads zero (R74). -/
def Ctx.rpair (c : Ctx) (r : XReg) : DWord := if r.val = 0 then 0 else c.x.get (r + 1) ++ c.x.get r
/-- Writes the pair r; a write to pair 0 is discarded in both halves (R74). -/
def Ctx.wpair (c : Ctx) (r : XReg) (v : DWord) : Ctx :=
  if r.val = 0 then c else (c.wx r (v.extractLsb' 0 32)).wx (r + 1) (v.extractLsb' 32 32)
/-- Operand b (R80). -/
def Ctx.src (c : Ctx) : Src → Word
  | .reg r => c.rx r
  | .lit v => v
/-- Operand b of AMOCAS (R128). -/
def Ctx.pairSrc (c : Ctx) : PairSrc → DWord
  | .pair r => c.rpair r
  | .lit v => v
/-- Operand vb of format V: the literal is a token with every lane valid (R83). -/
def Ctx.vsrc (c : Ctx) : VSrc → Token
  | .reg r => c.v.get r
  | .lit v => { lanes := Vector.replicate 16 v, valid := 0xFFFF }
def Ctx.wv (c : Ctx) (r : VReg) (t : Token) : Ctx := { c with v := c.v.set r t }

/-- The instruction word (EVAL of several causes, R142), and the length in bytes (R76). -/
def instrWord (i : Instr) : Word := (encode i).headD 0
def instrLen (i : Instr) : Nat := 4 * (encode i).length
/-- The address of the next instruction (R76). -/
def State.nextPc (s : State) (i : Instr) : Word := s.me.pc + BitVec.ofNat 32 (instrLen i)
/-- The issuing context moves to the next instruction. -/
def State.advance (s : State) (i : Instr) : State := s.onMe fun c => { c with pc := c.pc + BitVec.ofNat 32 (instrLen i) }

/-- The site word by which a core of this module names a core of it (R59). -/
def siteWord (p : Site) : Word := p.zeroExtend 32
/-- The value of SITE (R66). -/
def State.siteValue (s : State) (p : Site) : Word := BitVec.ofNat 32 (s.sysNum % 64 * 2 ^ 18 + p.toNat)
def CtxKind.code : CtxKind → Nat
  | .ordinary => 0 | .edgeReversal => 1 | .handler => 2
/-- The value of CTX (R66). -/
def ctxValue (c : Core) (k : CtxNo) : Word := BitVec.ofNat 32 (c.role.role % 4 * 256 + (c.ctx k).kind.code * 16 + k.val)

/-- Rows of the logical mesh (R1, R2). -/
def State.meshH (s : State) : Nat :=
  match s.variant with
  | .ma => 512
  | .mb => 448

/-- A site lies in a rectangle. -/
def Rect.has (r : Rect) (p : Site) : Bool :=
  decide (r.x0 ≤ p.x ∧ p.x < r.x0 + r.w ∧ r.y0 ≤ p.y ∧ p.y < r.y0 + r.h)
/-- One rectangle lies in another. -/
def Rect.inside (r q : Rect) : Bool :=
  decide (q.x0 ≤ r.x0 ∧ r.x0 + r.w ≤ q.x0 + q.w ∧ q.y0 ≤ r.y0 ∧ r.y0 + r.h ≤ q.y0 + q.h)
def Rect.meets (r q : Rect) : Bool :=
  decide (r.x0 < q.x0 + q.w ∧ q.x0 < r.x0 + r.w ∧ r.y0 < q.y0 + q.h ∧ q.y0 < r.y0 + r.h)
/-- The sites of a rectangle, row-major from the south-west (R65). -/
def Rect.sites (r : Rect) : List Site :=
  (List.range (r.w * r.h)).map fun n => Site.mk (r.x0 + n % r.w) (r.y0 + n / r.w)
/-- The number of the field that holds a site (R11). -/
def fieldOf (p : Site) : Nat := p.y / 64 * 8 + p.x / 64
/-- The narrowest scope about core p that takes in core q of its module (R7). -/
def reach (p q : Site) : Scope := if p = q then .core else if fieldOf p = fieldOf q then .die else .device

/-! ## Regions (R117) -/

/-- The kinds of access a region permits. -/
inductive Access where
  | fetch | load | store
  deriving DecidableEq, Repr

def Region.has (r : Region) (a : Nat) : Bool := decide (r.base ≤ a ∧ a < r.base + r.size)

/-- Whether a region permits an access to one byte by context k of a role with n contexts (R117). -/
def Region.permits (n : Nat) (k : Nat) (acc : Access) (a : Nat) (r : Region) : Bool :=
  r.has a && match r.kind with
    | .code => acc != .store
    | .stack => acc != .fetch && decide (r.base + r.size / n * k ≤ a ∧ a < r.base + r.size / n * (k + 1))
    | .data => acc != .fetch
    | .ring => acc != .fetch

def RoleInfo.nctx (ro : RoleInfo) : Nat := ro.ord + ro.er + ro.hand

/-- A byte lies in some region that permits the access. -/
def permits (ro : RoleInfo) (k : CtxNo) (acc : Access) (a : Nat) : Bool :=
  ro.regions.any (Region.permits ro.nctx k.val acc a)

/-- The first of n addresses from a that lies in no region permitting the access. -/
def firstOutside (ro : RoleInfo) (k : CtxNo) (acc : Access) (a : Nat) : Nat → Option Nat
  | 0 => none
  | n + 1 => if permits ro k acc a then firstOutside ro k acc (a + 1) n else some a

/-- n bytes from a lie wholly in one region that permits the access. -/
def oneRegion (ro : RoleInfo) (k : CtxNo) (acc : Access) (a n : Nat) : Bool :=
  ro.regions.any fun r => decide (a + n ≤ r.base + r.size) && Region.permits ro.nctx k.val acc a r
    && Region.permits ro.nctx k.val acc (a + n - 1) r

/-- n bytes from a lie wholly in one region of one of the kinds given. -/
def inKind (ro : RoleInfo) (kinds : List RegionKind) (a n : Nat) : Bool :=
  ro.regions.any fun r => kinds.contains r.kind && decide (r.base ≤ a ∧ a + n ≤ r.base + r.size)

/-! ## Range locks (R118, R193, R194) -/

/-- Lines lo to hi of a lock meet bytes a to a + n - 1. -/
def Lock.meets (l : Lock) (a n : Nat) : Bool := decide (n ≠ 0 ∧ l.lo ≤ (a + n - 1) / 16 ∧ a / 16 ≤ l.hi)
/-- The lowest address from a on that meets a lock: a write meets every lock, a read meets write locks (R118). -/
def lockFault (c : Core) (a n : Nat) (write : Bool) : Option Nat :=
  (c.locks.filter fun l => (write || l.write) && l.meets a n).foldl
    (fun m l => let at_ := max a (l.lo * 16); some (match m with | none => at_ | some b => min b at_)) none
/-- An earlier command holds a lock that delays an access of command id to bytes a to a + n - 1 (R194). -/
def held (c : Core) (id a n : Nat) (write : Bool) : Bool :=
  c.locks.any fun l => decide (l.cmd < id) && (write || l.write) && l.meets a n
/-- A lock over n bytes from a; none for an empty span. -/
def lockOf (id a n : Nat) (write : Bool) : List Lock :=
  if n = 0 then [] else [{ cmd := id, lo := a / 16, hi := (a + n - 1) / 16, write := write }]
/-- The table has room for these entries (R193). -/
def lockRoom (c : Core) (ls : List Lock) : Bool := decide (c.locks.length + ls.length ≤ 32)
def Core.lock (c : Core) (ls : List Lock) : Core := { c with locks := c.locks ++ ls }
def Core.unlock (c : Core) (id : Nat) : Core := { c with locks := c.locks.filter fun l => l.cmd != id }

/-! ## Scratchpad: errors and pages (R120, R396 to R398) -/

/-- The lowest protected word among bytes a to a + n - 1 that holds an uncorrectable error (R120). -/
def badWord (c : Core) (a n : Nat) : Option Nat :=
  (c.scratch.bad.filter fun w => decide (n ≠ 0 ∧ w < a + n ∧ a < w + 8)).foldl
    (fun m w => some (match m with | none => w | some b => min b w)) none
/-- The lowest protected word with an error that a store of n bytes from a covers in part (R120, R164). -/
def badPart (c : Core) (a n : Nat) : Option Nat :=
  (c.scratch.bad.filter fun w => decide (n ≠ 0 ∧ w < a + n ∧ a < w + 8) && !decide (a ≤ w ∧ w + 8 ≤ a + n)).foldl
    (fun m w => some (match m with | none => w | some b => min b w)) none
/-- Every byte of the protected word at w lies in one of some spans. -/
def wordIn (w : Nat) (spans : List (Nat × Nat)) : Bool :=
  (List.range 8).all fun n => spans.any fun g => decide (g.1 ≤ w + n ∧ w + n < g.1 + g.2)
/-- A write of n bytes from a replaces every error it covers whole (R120). -/
def Scratch.overwrite (p : Scratch) (a n : Nat) : Scratch :=
  { p with bad := p.bad.filter fun w => !decide (a ≤ w ∧ w + 8 ≤ a + n) }
/-- A page that holds one of the n bytes from a is absent (R398). -/
def absent (c : Core) (a n : Nat) : Bool :=
  c.scratch.pages.any fun (p, g) => g.absent && decide (n ≠ 0 ∧ p * 1024 < a + n ∧ a < p * 1024 + 1024)

/-- How many 16-byte lines a landing writes or reads in this turn, which the context number of the event says; 0 stands for all
that are left (R119). -/
def State.lines (s : State) : Nat := s.cur.2.val
/-- The bytes of n left at an address that this turn writes or reads, if some are left for a later one. -/
def State.pieceOf (s : State) (a n : Nat) : Option Nat :=
  let m := 16 * s.lines - a % 16
  if s.lines = 0 ∨ n ≤ m then none else some m
/-- A span cut at the 16-byte lines (R119, R170). -/
def lineSpans (g : Nat × Nat) : List (Nat × Nat) :=
  (List.range (g.2 / 16 + 2)).filterMap fun n =>
    let lo := max g.1 (16 * (g.1 / 16 + n))
    let hi := min (g.1 + g.2) (16 * (g.1 / 16 + n + 1))
    if lo < hi then some (lo, hi - lo) else none
/-- Bytes at an address cut at the 16-byte lines. -/
def linesOf (g : Nat × List Byte) : List (Nat × List Byte) :=
  (lineSpans (g.1, g.2.length)).map fun h => (h.1, (g.2.drop (h.1 - g.1)).take h.2)

/-- A line that a context read ahead holds one of the n bytes from a. -/
def Ahead.meets (h : Ahead) (a n : Nat) : Bool := decide (n ≠ 0 ∧ h.line * 16 < a + n ∧ a < h.line * 16 + 16)
/-- The narrower of two scopes. -/
def narrower (a b : Scope) : Scope := if a.code ≤ b.code then a else b
/-- A party that a scope about the core takes in writes n bytes from a: the lines read ahead are old now. -/
def Scratch.age (p : Scratch) (a n : Nat) (by_ : Scope) : Scratch :=
  { p with ahead := p.ahead.map fun h =>
      if h.meets a n then { h with wrote := some (h.wrote.elim by_ (narrower by_)) } else h }

/-- Bytes of a core's scratchpad. -/
def Core.bytes (c : Core) (a n : Nat) : List Byte := readBytes c.scratch.mem a n
def Core.nat (c : Core) (a n : Nat) : Nat := readNat c.scratch.mem a n
def Core.word (c : Core) (a : Nat) : Word := readWord c.scratch.mem a
/-- Writes bytes to a scratchpad, replacing every error word they cover whole. -/
def Scratch.write (p : Scratch) (a : Nat) (bs : List Byte) : Scratch :=
  { p.overwrite a bs.length with mem := writeBytes p.mem a bs }
/-- A party of the core writes bytes to its scratchpad. -/
def Core.put (c : Core) (a : Nat) (bs : List Byte) : Core :=
  { c with scratch := (c.scratch.write a bs).age a bs.length .core }
/-- A party of the core writes several pieces in one access: together they replace every error word they cover (R120, R164). -/
def Core.putAll (c : Core) (parts : List (Nat × List Byte)) : Core :=
  let spans := parts.map fun g => (g.1, g.2.length)
  let c := parts.foldl (fun c g => c.put g.1 g.2) c
  { c with scratch := { c.scratch with bad := c.scratch.bad.filter fun w => !wordIn w spans } }
/-- A party that a scope about the core takes in writes bytes to its scratchpad: no acquire at a narrower scope sees it (R126). -/
def Core.putFar (c : Core) (a : Nat) (bs : List Byte) (by_ : Scope) : Core :=
  { c with scratch := (c.scratch.write a bs).age a bs.length by_ }

/-- The station of a field counts n corrected errors at a core, which is marked for retirement at 256 (R403, R404). -/
def State.countCorrected (s : State) (p : Site) (n : Nat) : State :=
  let s := s.onCore p fun c => { c with scratch := { c.scratch with
    corrected := c.scratch.corrected + n, marked := c.scratch.marked || decide (256 ≤ c.scratch.corrected + n) } }
  { s with station := { s.station with fields := vmod s.station.fields (fieldOf p) fun f =>
      { f with corrected := min (2 ^ 32 - 1) (f.corrected + n) } } }

/-- An access to n bytes from a repairs every correctable error among them; the field station counts each (R120,
R403, R404). -/
def State.scrub (s : State) (p : Site) (a n : Nat) : State :=
  let c := s.core p
  let hit := c.scratch.soft.filter fun w => decide (n ≠ 0 ∧ w < a + n ∧ a < w + 8)
  if hit.isEmpty then s else
    (s.onCore p fun c => { c with scratch := { c.scratch with
      soft := c.scratch.soft.filter fun w => !decide (n ≠ 0 ∧ w < a + n ∧ a < w + 8) } }).countCorrected p hit.length

/-- The field station counts an uncorrectable error (R146, R403). -/
def State.countError (s : State) (p : Site) : State :=
  { s with station := { s.station with fields := vmod s.station.fields (fieldOf p) fun f =>
      { f with uncorrected := min (2 ^ 32 - 1) (f.uncorrected + 1) } } }

/-! ## Counters (R179 to R185) -/

def Core.counter (c : Core) (n : Nat) : Counter := vget c.sync.counters n
/-- A counter gets a value; a change of it is progress (R202). -/
def Core.setCounter (c : Core) (n : Nat) (v : Counter) : Core :=
  { c with sync := { c.sync with counters := vset c.sync.counters n v }, progress := c.progress || c.counter n != v }
/-- Breaks a counter (R182). -/
def Core.breakCounter (c : Core) (n : Nat) : Core := c.setCounter n { c.counter n with broken := true }
def State.note (s : State) (n : Note) : State := { s with station := { s.station with notes := n :: s.station.notes } }
/-- An add of an engine or of the mesh (R183): at 2^64 it breaks the counter, and the field station records it. -/
def State.addCounter (s : State) (p : Site) (n inc : Nat) : State :=
  let v := (s.core p).counter n
  if v.value.toNat + inc < 2 ^ 64 then
    s.onCore p fun c => c.setCounter n { v with value := v.value + BitVec.ofNat 64 inc }
  else (s.onCore p fun c => c.breakCounter n).note (.counterOverflow p n)
/-- The add of a command that may name no counter (R310). -/
def State.addTo (s : State) (p : Site) (n : Option Nat) : State :=
  match n with
  | none => s
  | some n => s.addCounter p n 1

/-! ## Failure records (R145) -/

/-- The value of an ECAUSE register (R138). -/
def ecauseWord (async : Bool) (f : AsyncFault) : Word :=
  BitVec.ofNat 32 ((if async then 2 ^ 31 else 0) + f.aux % 256 * 2 ^ 16 + f.sub % 256 * 2 ^ 8 + f.code % 256)

/-- A record of kinds 0 to 4 for a context: three slots, TVEC, TSAVE and SP (R145). -/
def killRecord (s : State) (p : Site) (k : CtxNo) (kind filled : Nat) (slots : List (Word × Word × Word))
    (tvec tsave sp : Word) : Vector Word 16 :=
  let c := s.core p
  let sl (n : Nat) : Word × Word × Word := slots.getD n (0, 0, 0)
  #v[BitVec.ofNat 32 (kind + 256 * filled), s.siteValue p, ctxValue c k, BitVec.ofNat 32 c.role.launch,
    (sl 0).1, (sl 0).2.1, (sl 0).2.2, (sl 1).1, (sl 1).2.1, (sl 1).2.2, (sl 2).1, (sl 2).2.1, (sl 2).2.2,
    tvec, tsave, sp]

/-- Adds a record to a launch (R399). -/
def State.addRecord (s : State) (launch : Nat) (r : Vector Word 16) : State :=
  { s with station := { s.station with launches := s.station.launches.map fun l =>
      if l.id = launch then { l with records := l.records ++ [r] } else l } }

/-! ## Streams that end (R351, R353, R366) -/

/-- The arrival a tapped stream makes when it ends (R189). A tap on a slot whose stream is held or faulted is bound to the end of
that stream: the model's choice (log entry 29). -/
def Core.tapArrive (c : Core) (slot : Nat) (failed : Bool) : Core :=
  let arrive (b : Barrier) : Barrier :=
    if b.tap = some slot then
      { b with tap := none, arrived := true, arriver := none, counted := true, failed := failed }
    else b
  { c with sync := { c.sync with barriers := c.sync.barriers.map arrive } }

/-- Command id no longer binds any ring (R296). -/
def Core.unbind (c : Core) (id : Nat) : Core :=
  { c with tensor := { c.tensor with rings := c.tensor.rings.map fun r =>
      { r with cbound := r.cbound.filter (· != id), pbound := r.pbound.filter (· != id) } } }

/-- A stream that ended is waited for by no SBAR and no held stream any more (R351). -/
def Core.forget (c : Core) (id : Nat) : Core :=
  { c with
    slots := c.slots.map fun t => { t with job := t.job.map fun j => { j with waits := j.waits.filter (· != id) } }
    sbars := (c.sbars.map fun b => { b with before := b.before.filter (· != id) }).filter fun b => !b.before.isEmpty }

/-- The stream of a slot ends: its locks go, its slot becomes IDLE, a tapped arrival is made; a stream that ends failed
or cancelled breaks its counter, and the ring it produces for is marked FAIL (R353, R366). -/
def Core.endStream (c : Core) (slot : Nat) (failed : Bool) : Core :=
  let t := vget c.slots slot
  match t.job with
  | none => c
  | some j =>
    let c := ((c.unlock j.id).unbind j.id).forget j.id
    let c := if failed && !j.nc then c.breakCounter j.counter else c
    let c := if failed && j.cmd == .sfeed then
        { c with tensor := { c.tensor with rings := vmod c.tensor.rings j.ring fun r => { r with fail := true } } }
      else c
    let c := c.tapArrive slot failed
    { c with slots := vset c.slots slot { t with state := .idle, fail := failed, job := none } }

/-! ## Contexts that end (R132, R144) -/

/-- A context becomes dormant with its state discarded: the kind, the count of starts and the records of earlier ends
stay; a handler's slot is freed (R55, R132, R245). -/
def Core.goDormant (c : Core) (k : CtxNo) (e : EndRec) (retired : Bool) : Core :=
  let x := c.ctx k
  let c := match x.slot with
    | none => c
    | some (t, n) =>
      let free (o : Option TagEntry) : Option TagEntry := o.map fun (g : TagEntry) => { g with busy := g.busy.filter (· != n) }
      { c with msg := { c.msg with tags := vmod c.msg.tags t free } }
  let gone : Ctx :=
    { Ctx.blank with kind := x.kind, serial := x.serial, ends := e :: x.ends, retired := x.retired || retired }
  { c.setCtx k gone with progress := true }

/-- The slots a kill report copies: the registers of the levels in use, then one more (R145). -/
def killSlots (x : Ctx) (last : Word × Word × Word) (fromTwo : Bool) : List (Word × Word × Word) :=
  let one := (x.epc1, x.ecause1, x.eval1)
  let two := (x.epc2, x.ecause2, x.eval2)
  if fromTwo then [if 1 ≤ x.tlevel then one else (0, 0, 0), if 2 ≤ x.tlevel then two else (0, 0, 0), last]
  else match x.tlevel with
    | 0 => [last]
    | 1 => [one, last]
    | _ => [one, two, last]

/-- A kill (R144): the record of its kind, the held faults as records of kind 4, FAULTED streams of the context
cancelled, and the context dormant. `pc` is the PC the record holds, and that of the held faults (R145); a record of kind 3
holds none, and its slot 1 has EPC 0 (log entry 16). -/
def State.kill (s : State) (p : Site) (k : CtxNo) (kind : Nat) (pc cause val : Word) : State :=
  let c := s.core p
  let x := c.ctx k
  let fromTwo := kind == 0 || kind == 2
  let filled := if kind == 3 then 1 else x.tlevel + 1
  let slots := if kind == 3 then [(0, cause, val)] else killSlots x (pc, cause, val) fromTwo
  let sp := x.x.get 31
  let s := s.addRecord c.role.launch (killRecord s p k kind filled slots x.tvec x.tsave sp)
  let s := x.pending.foldl (fun s f =>
    s.addRecord c.role.launch (killRecord s p k 4 1 [(pc, ecauseWord true f, f.val)] x.tvec x.tsave sp)) s
  s.onCore p fun c =>
    let c := (List.range 8).foldl (fun c n =>
      let t := vget c.slots n
      match t.state, t.job with
      | .faulted, some j => if j.ctx = k then c.endStream n true else c
      | _, _ => c) c
    c.goDormant k { serial := x.serial, epc := x.pc } true

/-- Vector instructions of the task of context k are still queued (R155): they finish before its registers go. -/
def vecPending (c : Core) (k : CtxNo) : Bool :=
  c.vec.any fun v => match v with
    | .op j n _ _ => j == k && n == (c.ctx k).serial
    | .mts j n _ => j == k && n == (c.ctx k).serial
    | .mem j => j == k
/-- The places of VMEM instructions leave the vector queue: their contexts are killed. -/
def Core.noMem (c : Core) : Core :=
  { c with vec := c.vec.filter fun v => match v with
      | .mem _ => false
      | _ => true }
/-- A VMEM instruction of context k is in the vector queue: it has issued, and holds the issue of its context (R155, R156). -/
def memQueued (c : Core) (k : CtxNo) : Bool := c.vec.contains (.mem k)

/-- A task ends itself (R132, R225 to R227): its held faults become records of kind 4 whose EPC is the instruction after
the one that ended it, and the context is dormant (R143, R145). -/
def State.endTask (s : State) (i : Instr) (retired : Bool) : State :=
  let p := s.cur.1
  let k := s.cur.2
  let c := s.here
  let x := s.me
  let epc := s.nextPc i
  if vecPending c k then s else
  let s := x.pending.foldl (fun s f => s.addRecord c.role.launch
    (killRecord s p k 4 1 [(epc, ecauseWord true f, f.val)] x.tvec x.tsave (x.x.get 31))) s
  s.onHere fun c => c.goDormant k { serial := x.serial, epc := epc } retired

/-! ## Traps (R140, R141) -/

/-- The registers trap entry writes (R140). -/
def Ctx.enter (x : Ctx) (cause val epc : Word) : Ctx :=
  let x := if x.tlevel = 0 then { x with epc1 := epc, ecause1 := cause, eval1 := val, tlevel := 1 }
    else { x with epc2 := epc, ecause2 := cause, eval2 := val, tlevel := 2 }
  { x with pc := x.tvec &&& 0xFFFFFFFC, status := .ready }

/-- Taking a fault: entry to the next level, or a kill (R140, R141). -/
def State.takeTrap (s : State) (p : Site) (k : CtxNo) (async : Bool) (f : AsyncFault) (epc : Word) : State :=
  let x := (s.core p).ctx k
  let cause := ecauseWord async f
  if x.tlevel ≤ 1 ∧ x.tvec.getLsbD 0 then s.onCore p fun c => c.onCtx k fun x => x.enter cause f.val epc
  else if vecPending (s.core p) k then s
  else s.kill p k (if x.tlevel = 2 then 0 else 1) epc cause f.val

/-- A fault of context k would kill it, and waits: vector instructions of its task are still queued (R155). -/
def trapWaits (s : State) (p : Site) (k : CtxNo) : Bool :=
  let c := s.core p
  !(decide ((c.ctx k).tlevel ≤ 1) && (c.ctx k).tvec.getLsbD 0) && vecPending c k

/-- A precise fault of the issuing context (R142): EPC names the faulting instruction. -/
def State.trap (s : State) (code : Nat) (val : Word) (sub aux : Nat := 0) : State :=
  s.takeTrap s.cur.1 s.cur.2 false { code := code, sub := sub, aux := aux, val := val } s.me.pc

/-- A trap whose EPC names the next instruction (R142). -/
def State.trapNext (s : State) (i : Instr) (code : Nat) (val : Word) (sub aux : Nat := 0) : State :=
  s.takeTrap s.cur.1 s.cur.2 false { code := code, sub := sub, aux := aux, val := val } (s.nextPc i)

/-- The cause codes of R142. -/
def ILLEGAL : Nat := 0x01
def REGRANGE : Nat := 0x02
def BOUNDS : Nat := 0x03
def ALIGN : Nat := 0x04
def DIVZERO : Nat := 0x05
def TRAPI : Nat := 0x06
def BREAKPT : Nat := 0x07
def PRIV : Nat := 0x08
def HBLOCK : Nat := 0x09
def RANGE : Nat := 0x0A
def SHAPE : Nat := 0x0B
def STREAM : Nat := 0x0C
def RING : Nat := 0x0D
def COUNTER : Nat := 0x0E
def BARRIER : Nat := 0x0F
def ERMODE : Nat := 0x10
def MSG : Nat := 0x11
def FSUM : Nat := 0x12
def CREAM : Nat := 0x13
def MCHK : Nat := 0x14
def LINK : Nat := 0x15
def FORMAT : Nat := 0x16

/-- A precise MCHK of the issuing context: the error is counted as the trap is taken (R146, R147, R406). -/
def State.machineCheck (s : State) (val : Word) : State :=
  if trapWaits s s.cur.1 s.cur.2 then s else (s.countError s.cur.1).trap MCHK val

/-- An engine records an asynchronous fault of a command of task `serial` of context k (R143, R145). -/
def State.asyncFault (s : State) (p : Site) (k : CtxNo) (serial : Nat) (f : AsyncFault) : State :=
  let c := s.core p
  let x := c.ctx k
  if x.status ≠ .dormant ∧ x.serial = serial then
    if x.pending.length < 16 then s.onCore p fun c => c.onCtx k fun x => { x with pending := x.pending ++ [f] }
    else s.addRecord c.role.launch
      (killRecord s p k 4 1 [(x.pc, ecauseWord true f, f.val)] x.tvec x.tsave (x.x.get 31))
  else
    let e := (x.ends.find? fun e => e.serial == serial).getD default
    s.addRecord c.role.launch (killRecord s p k 4 1 [(e.epc, ecauseWord true f, f.val)] 0 0 0)

/-! ## Starting a context (R57, R65) -/

/-- The rectangle of a core's domain at a level (R64). -/
def domainRect (s : State) (ro : RoleInfo) (p : Site) (l : Level) : Rect :=
  match l.domain with
  | 0 => ⟨p.x, p.y, 1, 1⟩
  | 1 => ⟨p.x, p.y, 1, 1⟩
  | 2 => ⟨p.x - (p.x - ro.rect.x0) % max l.w 1, p.y - (p.y - ro.rect.y0) % max l.h 1, l.w, l.h⟩
  | 3 => ⟨p.x / 64 * 64, p.y / 64 * 64, 64, 64⟩
  | 4 => ro.partRect
  | _ => ⟨0, 0, 512, s.meshH⟩

/-- Number and count of rectangles `r` in rectangle `o`, row-major from the south-west (R65). -/
def placeIn (r o : Rect) : Nat × Nat :=
  let cols := o.w / max r.w 1
  ((r.y0 - o.y0) / max r.h 1 * cols + (r.x0 - o.x0) / max r.w 1, cols * (o.h / max r.h 1))

/-- Number and count of a partition among those of its module, in the same order. -/
def placeOfPartition (s : State) (r : Rect) : Nat × Nat :=
  let before (q : Partition) : Bool := decide (64 * q.fy < r.y0 ∨ (64 * q.fy = r.y0 ∧ 64 * q.fx < r.x0))
  ((s.station.partitions.filter before).length, s.station.partitions.length)

/-- Index and extent of a context's domain at level n < L (R65). The modules of a system come in the order of their
numbers, and the domains of one module that a system encloses follow one another (log entry 40). -/
def levelOf (s : State) (ro : RoleInfo) (p : Site) (k : CtxNo) (n : Nat) : Nat × Nat :=
  match ro.levels[n]? with
  | none => (0, 1)
  | some l =>
    if l.domain = 0 then (k.val, ro.nctx)
    else
      let ordinal := (s.modules.filter (· < s.sysNum)).length
      if 6 ≤ l.domain then (ordinal, s.modules.length)
      else
        let inner := domainRect s ro p l
        match ro.levels[n + 1]? with
        | none => if 4 ≤ l.domain then (0, 1) else placeIn inner ro.rect
        | some o =>
          let (i, e) := if l.domain = 4 ∧ 5 ≤ o.domain then placeOfPartition s ro.partRect
            else placeIn inner (domainRect s ro p o)
          if 6 ≤ o.domain then (ordinal * e + i, s.modules.length * e) else (i, e)

/-- LVLn and LVLXn (R65, R66). -/
def lvlWords (s : State) (ro : RoleInfo) (p : Site) (k : CtxNo) (n : Nat) : Word × Word :=
  let top := ro.levels.length - 1
  let l := ro.levels.getD (min n top) default
  let (i, e) := if n ≤ top then levelOf s ro p k n else (0, 1)
  (BitVec.ofNat 32 i, BitVec.ofNat 32 (l.scope % 8 * 2 ^ 25 + l.domain % 8 * 2 ^ 22 + e % 2 ^ 22))

/-- The stack pointer of context k at a start: one past its own stack (R57); zero in a role with no stack region. -/
def stackTop (ro : RoleInfo) (k : CtxNo) : Word :=
  match ro.regions.find? fun r => r.kind == .stack with
  | none => 0
  | some r => BitVec.ofNat 32 (r.base + r.size / ro.nctx * (k.val + 1))

/-- The bank that serves an access at an address under a key (R122). It decides no byte and no order, only timing, which
the model leaves out (log entry 5). -/
def bankOf (key : Word) (ea : Nat) : Nat :=
  let k := key.toNat
  let rot (n c : Nat) : Nat := n * 2 ^ c % 16 + n / 2 ^ (4 - c)
  let w := bitsN ea 17 4
  bitsN w 3 0 ^^^ rot (bitsN w 7 4) (bitsN k 1 0) ^^^ rot (bitsN w 11 8) (bitsN k 3 2) ^^^ rot (bitsN w 13 12) (bitsN k 5 4)
    ^^^ bitsN k 9 6
/-- BANKKEY of context k (R20). -/
def bankKeyOf (ro : RoleInfo) (k : CtxNo) : Word := BitVec.ofNat 32 ((ro.keySeed ^^^ (k.val * 0x0C5)) % 1024)

/-- A started context (R57). -/
def startedCtx (s : State) (p : Site) (k : CtxNo) (pc : Nat) (x1 x2 x3 x4 : Word) : Ctx :=
  let c := s.core p
  let x := c.ctx k
  let ro := c.role
  { Ctx.blank with
    kind := x.kind
    status := .ready
    serial := x.serial + 1
    ends := x.ends
    pc := BitVec.ofNat 32 pc
    x := ((((Vector.replicate 32 (0 : Word)).set 1 x1).set 2 x2).set 3 x3).set 4 x4 |>.set 31 (stackTop ro k)
    bankKey := bankKeyOf ro k
    lvl := Vector.ofFn fun n => (lvlWords s ro p k n.val).1
    lvlx := Vector.ofFn fun n => (lvlWords s ro p k n.val).2 }

/-- Starts a context (R55, R57). -/
def State.start (s : State) (p : Site) (k : CtxNo) (pc : Nat) (x1 x2 x3 x4 : Word) : State :=
  s.onCore p fun c => c.setCtx k (startedCtx s p k pc x1 x2 x3 x4)

/-! ## Control transfers (R78) -/

/-- A control transfer of the issuing context: ALIGN for a target that is no multiple of 4, BOUNDS for one outside every
code region, with EVAL the target; else `go` (R78, R131, R141). -/
def jumpTo (s : State) (target : Word) (go : State) : State :=
  if target.toNat % 4 ≠ 0 then s.trap ALIGN target
  else if !oneRegion s.here.role s.cur.2 .fetch target.toNat 4 then s.trap BOUNDS target
  else go

/-- The issuing context's next instruction is the one at an address. -/
def State.setPc (s : State) (pc : Word) : State := s.onMe fun c => { c with pc := pc }

/-! ## Results and releases -/

/-- Writes xd and moves to the next instruction. -/
def State.result (s : State) (i : Instr) (rd : XReg) (v : Word) : State :=
  s.onMe fun c => { c.wx rd v with pc := c.pc + BitVec.ofNat 32 (instrLen i) }

/-- A line of a decay sweep, which is no access of a context. -/
def LateOp.isRewrite : LateOp → Bool
  | .rewrite .. => true
  | _ => false
/-- Every access that context k has issued is performed: only then can it start again (R132). -/
def accessesDone (c : Core) (k : CtxNo) : Bool := c.late.all fun e => e.ctx != k || e.op.isRewrite

/-- A scope takes in edge memory (R209). -/
def wideScope (sc : Scope) : Bool := decide (3 ≤ sc.code)
/-- A stream of context k issued before message number seq has reads of edge memory to come: they belong to its issue (R204,
R209). One that is FAULTED is stopped. -/
def edgeReading (c : Core) (k : CtxNo) (seq : Nat) : Bool :=
  c.slots.toList.any fun t => t.state != .faulted && t.job.any fun j =>
    j.ctx == k && j.edge && (j.cmd == .sload || j.cmd == .simg || j.cmd == .sfeed) && decide (j.seq < seq)

/-- Every earlier CADD and CRAISE of context k has been performed, and the remote access of every earlier message of it,
those of its earlier tasks too (R125, R181); at a scope that takes in edge memory its streams' reads of it too (R209). -/
def releaseReady (c : Core) (k : CtxNo) (sc : Scope) : Bool :=
  c.sync.queue.all (fun o => o.ctx != k) && c.msg.out.all (fun m => !(m.ctx == k && m.slot.isNone))
    && !(wideScope sc && edgeReading c k c.msg.nextSeq)

/-- An access with release waits for what R125 orders before it; until then it stalls. -/
def releaseStalls (s : State) (ord : MemOrd) (sc : Scope) : Bool :=
  (ord == .rl || ord == .ar) && !releaseReady s.here s.cur.2 sc

/-- Bit 30 of w0 of a header: the message carries release (R238, R255). -/
def OutMsg.rel (m : OutMsg) : Bool := (vget m.hdr 0).getLsbD 30
/-- Every earlier CADD, CRAISE and BARRIVE of context k has been performed, and every message of it with REL: an acquire comes
after them (rule 4 of R198 with R197). R205 reads a message with REL as MS and an AMO with .rl as ST, before which R207 leaves an
acquire free; the model keeps rule 4, by which R203 says what a free cell is: its choice (log entry 4). -/
def acquireReady (c : Core) (k : CtxNo) : Bool :=
  c.sync.queue.all (fun o => o.ctx != k) && c.msg.out.all (fun m => !(m.ctx == k && m.slot.isNone && m.rel))
    && c.sync.barriers.toList.all fun b => !(b.arrived && !b.counted && b.arriver.any fun a => a.1 == k)

/-- An access with acquire waits for the releases before it. -/
def acquireStalls (s : State) (ord : MemOrd) : Bool :=
  (ord == .aq || ord == .ar) && !acquireReady s.here s.cur.2

/-! ## The checks before an instruction's own (R88, R147) -/

/-- Numbers whose every field is RO (R89). -/
def readOnlyReg (n : Nat) : Bool :=
  n ≤ 0x003 || (0x010 ≤ n && n ≤ 0x020) || n == 0x02A || n == 0x202 || n == 0x203 || (0x210 ≤ n && n ≤ 0x21F)
    || (0x400 ≤ n && n ≤ 0x407) || n == 0x500 || (0x510 ≤ n && n ≤ 0x51F)

/-- The privileged numbers (R89): the EVAL of PRIV, if the instruction takes it. -/
def privFault : Instr → Option Word
  | .mfs _ num => if 0x600 ≤ num.toNat ∧ num.toNat ≤ 0x6FF then some (num.zeroExtend 32) else none
  | .mts _ num =>
    if (0x600 ≤ num.toNat ∧ num.toNat ≤ 0x6FF) ∨ readOnlyReg num.toNat then some (num.zeroExtend 32) else none
  | _ => none

/-- A context may issue: its core is held by a launch and runs, and it is ready (R25, R148). A VMEM instruction in the vector
queue of a halted core goes on until it is performed (R155). -/
def State.issuing (s : State) : Bool :=
  s.here.live && (!s.here.halted || memQueued s.here s.cur.2) && s.me.status == .ready

/-- The engine whose command queue an instruction of format E or Q enters (R25, R293), by its major. TSHAPE, TGEOM and
SGEOM are executed at issue, and the stream engine takes a command into a slot. -/
def queueLength (c : Core) : Instr → Nat
  | .mma .. | .mmaw .. | .tqnt .. | .tdqnt .. | .tstpair .. | .tdecay .. | .tdecaySweep .. | .tdecayDrop .. | .tsadd ..
  | .tnorm .. | .tscl .. | .tfact .. | .qcfg .. | .qwaitf .. | .qwaite .. | .qadvh .. | .qadvt .. | .qstat .. | .qreset .. =>
    c.tensor.queue.length
  | .msend .. | .mput .. | .mget .. | .mamo .. | .mbind .. | .mrecv .. | .fscfg .. | .fsum .. | .fsraise .. | .fsres ..
  | .cbcast .. | .cjoin .. | .cskim .. | .ccut .. | .cgath .. | .cprec .. => c.msg.queue.length
  | .cadd .. | .cwait .. | .cread .. | .craise .. | .cbrk .. | .ctest .. | .fence .. | .fencee | .barcfg .. | .barrive ..
  | .barwait .. | .bartap .. | .stepadv | .steprd .. | .erinit .. | .erdone .. | .erpass | .erhalt | .erchk .. | .erstat .. =>
    c.sync.queue.length
  | _ => 0
/-- A command meets a full queue, so its context stalls (R25). -/
def queueFull (c : Core) (i : Instr) : Bool := decide (8 ≤ queueLength c i)

/-- The registers an instruction reads whose parity error the replay mends: the replay is counted (R147, R404). -/
def State.replay (s : State) (i : Instr) : State :=
  let hit := s.me.softRegs.filter fun r => (readCodes i).contains r
  if hit.isEmpty then s
  else (s.onMe fun x => { x with softRegs := x.softRegs.filter fun r => !(readCodes i).contains r }).countCorrected s.cur.1
    hit.length

/-- Runs an encoded instruction's own part once REGRANGE, PRIV, register parity and a full queue are out of the way (R25,
R88, R147). -/
def gate (i : Instr) (s : State) (own : State → State) : Host.Outcome State Fault Refusal :=
  if s.issuing then
    match rangeFault s.here.role i with
    | some v => .next (s.trap REGRANGE (BitVec.ofNat 32 v))
    | none =>
      match privFault i with
      | some v => .next (s.trap PRIV v)
      | none =>
        match (readCodes i).find? fun r => s.me.badRegs.contains r with
        | some r => .next (s.machineCheck (BitVec.ofNat 32 (0x80000000 + r)))
        | none => .next (if queueFull s.here i then s else own (s.replay i))
  else .fault .notIssuing

end Sys2Proof.Machine
end

