-- ==== Sys2Proof/Machine/Ring.lean ====
section
/-!
DEFINITION. Sending over the mesh and the order in which packets land (R13, R14), the rings of the tensor engine and
the ring instructions (R289 to R299), and the link frames of the wave that carry credits (R304).
-/
namespace Sys2Proof.Machine
open Sys2Proof

/-! ## The mesh -/

/-- Injects a packet. -/
def State.send (s : State) (p : Packet) : State := { s with mesh := s.mesh ++ [p] }
/-- The number of the train a packet belongs to. -/
def Packet.train (p : Packet) : Option Nat :=
  match p.body with
  | .creamHeader _ n => some n
  | .trainBeat n _ _ => some n
  | _ => none
/-- Two packets of one flow land in the order they were injected (R14). A beat whose landing waits for a lock does not hold
up other trains (R270, R276). -/
def sameFlow (p q : Packet) : Bool :=
  p.src == q.src && p.dst == q.dst && p.cls == q.cls && (p.cls != .request || p.ctx == q.ctx) && p.train == q.train
/-- Packet `num` of the mesh, if no earlier packet of its flow is still under way, and the state without it. -/
def State.landing (s : State) : Option (Packet × State) :=
  match takeAt s.mesh s.num with
  | none => none
  | some (p, rest) => if (s.mesh.take s.num).any (sameFlow p) then none else some (p, { s with mesh := rest })
/-- The retries of the mesh links into a core are counted as corrected errors there (R13, R404). -/
def State.countRetries (s : State) (p : Site) : State :=
  if (s.core p).retries = 0 then s
  else (s.onCore p fun c => { c with retries := 0 }).countCorrected p (s.core p).retries
/-- A packet carries a message (R237), not a link frame of the wave. -/
def Body.isMessage : Body → Bool
  | .frame _ _ | .credit _ _ | .creditReset _ _ | .failFrame _ => false
  | _ => true
/-- The first packet that may land, or nothing happens. A message that lands is progress (R202). -/
def onLanding (s : State) (f : Packet → State → State) : Host.Outcome State Fault Refusal :=
  match s.landing with
  | none => .next s
  | some (p, t) =>
    let t := t.countRetries p.dst
    .next (f p (if p.body.isMessage then t.onCore p.dst fun c => { c with progress := true } else t))

/-- The neighbour in a direction; none at the edge of the mesh. -/
def neighbour (s : State) (p : Site) : Dir → Option Site
  | .east => if p.x + 1 < 512 then some (Site.mk (p.x + 1) p.y) else none
  | .west => if p.x = 0 then none else some (Site.mk (p.x - 1) p.y)
  | .north => if p.y + 1 < s.meshH then some (Site.mk p.x (p.y + 1)) else none
  | .south => if p.y = 0 then none else some (Site.mk p.x (p.y - 1))
/-- The neighbour that a role rectangle of the launch holds. -/
def launchNeighbour (s : State) (p : Site) (d : Dir) : Option Site :=
  (neighbour s p d).filter fun q => (s.core p).role.launchRects.any fun r => r.has q

/-- The first of n bytes from a outside the region of one of the kinds that holds a (R290). -/
def spanOutside (ro : RoleInfo) (kinds : List RegionKind) (a n : Nat) : Option Nat :=
  match ro.regions.find? fun r => kinds.contains r.kind && r.has a with
  | none => some a
  | some r => if a + n ≤ r.base + r.size then none else some (r.base + r.size)

/-! ## Rings (R289 to R299) -/

def Core.ring (c : Core) (q : Nat) : Ring := vget c.tensor.rings q
def Core.onRing (c : Core) (q : Nat) (f : Ring → Ring) : Core :=
  { c with tensor := { c.tensor with rings := vmod c.tensor.rings q f } }
/-- The address of slot n. -/
def Ring.slot (r : Ring) (n : Nat) : Nat := r.base + n * r.sz
def Ring.free (r : Ring) : Nat := r.ns - r.fill
/-- PBOUND: an engine command or the standing binding of the wave (R296). -/
def Ring.pb (r : Ring) : Bool := r.win || !r.pbound.isEmpty
/-- Pops and pushes n slots (R294). -/
def Ring.pop (r : Ring) (n : Nat) : Ring := { r with head := (r.head + n) % max r.ns 1, fill := r.fill - n }
def Ring.push (r : Ring) (n : Nat) : Ring := { r with tail := (r.tail + n) % max r.ns 1, fill := r.fill + n }

/-- A link frame to a neighbour of the launch; none where the neighbour lies outside it (R303, R304). -/
def State.linkFrame (s : State) (p : Site) (d : Dir) (cls : MeshClass) (b : Body) : State :=
  match launchNeighbour s p d with
  | none => s
  | some q => s.send { src := p, dst := q, cls := cls, ctx := 0, body := b }

/-- A beat to a neighbour in the mesh, whichever launch it belongs to (R187). -/
def State.meshBeat (s : State) (p : Site) (d : Dir) (b : Body) : State :=
  match neighbour s p d with
  | none => s
  | some q => s.send { src := p, dst := q, cls := .control, ctx := 0, body := b }

/-- n slots of ring q leave: a WIN ring sends credits west (R294, R304). -/
def State.popRing (s : State) (p : Site) (q n : Nat) : State :=
  let r := (s.core p).ring q
  let s := s.onCore p fun c => c.onRing q fun r => r.pop n
  if r.win && decide (0 < n) then s.linkFrame p .west .control (.credit q n) else s

/-- The count of a ring instruction (R293). -/
def ringCount (x : Ctx) (n : BitVec 8) (ra : XReg) : Nat := if n = 0 then (x.rx ra).toNat else n.toNat

/-- QCFG (R290). -/
def execQcfg (q : RingNo) (rp : XReg) (s : State) : Host.Outcome State Fault Refusal :=
  let i := Instr.qcfg q rp
  gate i s fun s =>
    let v := (s.me.rpair rp).toNat
    let lo := v % 2 ^ 32
    let hi := v / 2 ^ 32
    let base := bitsN lo 17 0
    let ns := bitsN hi 15 8 + 1
    let sz := (bitsN hi 7 0 + 1) * 64
    let win := bitN hi 16
    let r := s.here.ring q.val
    let aux := q.val
    if ¬ (r.cbound.isEmpty ∧ r.pbound.isEmpty) then s.trap RING (BitVec.ofNat 32 r.fill) 0 aux
    else if bitsN lo 31 18 ≠ 0 ∨ bitsN hi 31 17 ≠ 0 then s.trap RING 0 0 aux
    else if base % 64 ≠ 0 then s.trap ALIGN (BitVec.ofNat 32 base)
    else match spanOutside s.here.role [.ring] base (ns * sz) with
      | some a => s.trap BOUNDS (BitVec.ofNat 32 a)
      | none =>
        let s := s.onHere fun c => c.onRing q.val fun _ => { Ring.blank with base := base, sz := sz, ns := ns, win := win }
        (if win then s.linkFrame s.cur.1 .west .control (.creditReset q.val ns) else s).advance i

/-- QWAITF and QWAITE wait until n slots are there; a handler or an edge-reversal context may not (R61, R294). They are acquires,
so they wait for the context's releases before them (R198, R297). -/
def ringWait (i : Instr) (q : RingNo) (n : Nat) (filled : Bool) (s : State) : State :=
  let r := s.here.ring q.val
  if s.me.kind ≠ .ordinary then s.trap HBLOCK (instrWord i)
  else if r.ns < n then s.trap RING (BitVec.ofNat 32 n) 0 q.val
  else if !acquireReady s.here s.cur.2 then s
  else if n ≤ (if filled then r.fill else r.free) then s.advance i
  else if filled && r.fail then s.trap RING (BitVec.ofNat 32 n) 1 q.val
  else s.onMe fun x => { x with status := .waiting (if filled then .ringFilled q.val n else .ringFree q.val n) i }

/-- QWAITF (R294). -/
def execQwaitf (q : RingNo) (n : BitVec 8) (ra : XReg) (s : State) : Host.Outcome State Fault Refusal :=
  gate (.qwaitf q n ra) s fun s => ringWait (.qwaitf q n ra) q (ringCount s.me n ra) true s

/-- QWAITE (R294). -/
def execQwaite (q : RingNo) (n : BitVec 8) (ra : XReg) (s : State) : Host.Outcome State Fault Refusal :=
  gate (.qwaite q n ra) s fun s => ringWait (.qwaite q n ra) q (ringCount s.me n ra) false s

/-- QADVH (R294): a release at core scope (R297). -/
def execQadvh (q : RingNo) (n : BitVec 8) (ra : XReg) (s : State) : Host.Outcome State Fault Refusal :=
  let i := Instr.qadvh q n ra
  gate i s fun s =>
    let r := s.here.ring q.val
    let m := ringCount s.me n ra
    if r.fill < m then s.trap RING (BitVec.ofNat 32 m) 0 q.val
    else if !r.cbound.isEmpty then s.trap RING (BitVec.ofNat 32 m) 2 q.val
    else if !releaseReady s.here s.cur.2 .core then s
    else (s.popRing s.cur.1 q.val m).advance i

/-- QADVT (R294): a release at core scope (R297). -/
def execQadvt (q : RingNo) (n : BitVec 8) (ra : XReg) (s : State) : Host.Outcome State Fault Refusal :=
  let i := Instr.qadvt q n ra
  gate i s fun s =>
    let r := s.here.ring q.val
    let m := ringCount s.me n ra
    if r.free < m then s.trap RING (BitVec.ofNat 32 m) 0 q.val
    else if r.pb then s.trap RING (BitVec.ofNat 32 m) 2 q.val
    else if !releaseReady s.here s.cur.2 .core then s
    else (s.onHere fun c => c.onRing q.val fun r => r.push m).advance i

/-- The state of a ring as QSTAT gives it (R291). -/
def ringWord (r : Ring) : Word :=
  let bit (b : Bool) (n : Nat) : Nat := if b then 2 ^ n else 0
  BitVec.ofNat 32 (bit (r.ns != 0) 31 + bit r.win 30 + bit r.fail 29 + bit r.pb 28 + bit (!r.cbound.isEmpty) 27
    + r.tail % 256 * 2 ^ 17 + r.head % 256 * 2 ^ 9 + r.fill % 512)

/-- The QSTAT instruction (R291). -/
def execQstat (q : RingNo) (rd : XReg) (s : State) : Host.Outcome State Fault Refusal :=
  gate (.qstat q rd) s fun s => s.result (.qstat q rd) rd (ringWord (s.here.ring q.val))

/-- QRESET (R294): the standing binding of a WIN ring does not count (R296). -/
def execQreset (q : RingNo) (s : State) : Host.Outcome State Fault Refusal :=
  let i := Instr.qreset q
  gate i s fun s =>
    let r := s.here.ring q.val
    if ¬ (r.cbound.isEmpty ∧ r.pbound.isEmpty) then s.trap RING (BitVec.ofNat 32 r.fill) 0 q.val
    else (s.onHere fun c => c.onRing q.val fun r => { r with head := 0, tail := 0, fill := 0, fail := false, landed := 0 }).advance i

/-! ## Link frames of the wave (R303 to R306) -/

/-- WAVE_FRAME: a row lands in the slot at TAIL of a WIN ring and is pushed; a frame with no WIN ring, too long, or
without a free slot is discarded and recorded (R303, R305); a landing on an absent page waits (R398). It lands line by line, as
many a turn as the event says (R119). -/
def execWaveFrame (s : State) : Host.Outcome State Fault Refusal :=
  onLanding s fun p t =>
    match p.body with
    | .frame q bytes =>
      let r := (t.core p.dst).ring q
      if r.win && decide (bytes.length ≤ r.sz ∧ r.fill < r.ns) then
        let a := r.slot r.tail + r.landed
        let rest := bytes.drop r.landed
        if absent (t.core p.dst) a rest.length then s
        else match s.pieceOf a rest.length with
          | some m => s.onCore p.dst fun c => (c.put a (rest.take m)).onRing q fun r => { r with landed := r.landed + m }
          | none => t.onCore p.dst fun c => (c.put a rest).onRing q fun r => { r.push 1 with landed := 0 }
      else t.note (.waveMismatch p.dst q)
    | _ => s

/-- CREDIT: the east neighbour has freed n slots of ring q (R304). -/
def execCreditLands (s : State) : Host.Outcome State Fault Refusal :=
  onLanding s fun p t =>
    match p.body with
    | .credit q n => t.onCore p.dst fun c =>
        { c with tensor := { c.tensor with credits := vmod c.tensor.credits q fun v => v + n } }
    | _ => s

/-- CREDIT_RESET: the east neighbour has configured ring q with NS slots (R304). -/
def execCreditReset (s : State) : Host.Outcome State Fault Refusal :=
  onLanding s fun p t =>
    match p.body with
    | .creditReset q n => t.onCore p.dst fun c =>
        { c with tensor := { c.tensor with credits := vset c.tensor.credits q n } }
    | _ => s

/-- FAIL_FRAME: marks a WIN ring FAIL; on any other ring it is discarded and recorded (R303, R306). -/
def execFailFrame (s : State) : Host.Outcome State Fault Refusal :=
  onLanding s fun p t =>
    match p.body with
    | .failFrame q =>
      if ((t.core p.dst).ring q).win then t.onCore p.dst fun c => c.onRing q fun r => { r with fail := true }
      else t.note (.waveMismatch p.dst q)
    | _ => s

end Sys2Proof.Machine
end

