-- ==== Sys2Proof/Machine/Numbers.lean ====
section
/-!
DEFINITION. The number forms and named functions of the numbers chapter (R31 to R52): F32 with its one rounding, the
Phocy codes and blocks, Phocy-A, decay and stamps, the churn hash and plane form. Exact values are integers times a
power of two.
-/
namespace Sys2Proof.Machine
open Sys2Proof

/-! ## Exact values and rounding to an integer -/

/-- 2^k as a natural number, 1 for a negative k. -/
def pow2 (k : Int) : Nat := 2 ^ k.toNat

/-- The integer nearest to n / d, ties to even, for natural numbers with d > 0. -/
def rneNat (n d : Nat) : Nat :=
  let q := n / d
  let r := n % d
  if 2 * r > d ∨ (2 * r = d ∧ q % 2 = 1) then q + 1 else q

/-- rne(v × 2^s) for an integer v (R40): the sign is apart, so ties go to even on both sides. -/
def rneScale (v s : Int) : Int :=
  let m := rneNat (v.natAbs * pow2 s) (pow2 (-s))
  if v < 0 then -(m : Int) else m

/-- An exact value m × 2^e. -/
structure Dy where
  m : Int
  e : Int
  deriving DecidableEq, Repr, Inhabited

def dyAdd (a b : Dy) : Dy :=
  let e := min a.e b.e
  { m := a.m * pow2 (a.e - e) + b.m * pow2 (b.e - e), e := e }
def dyNeg (a : Dy) : Dy := { a with m := -a.m }
def dyMul (a b : Dy) : Dy := { m := a.m * b.m, e := a.e + b.e }
def dyLt (a b : Dy) : Bool := decide ((dyAdd a (dyNeg b)).m < 0)
def dyAbs (a : Dy) : Dy := { a with m := a.m.natAbs }

/-! ## F32 (R43, R44) -/

/-- What a binary32 pattern stands for: NaN, an infinity, or a finite value, whose sign a zero keeps. -/
inductive FVal where
  | nan
  | inf (neg : Bool)
  | fin (neg : Bool) (m : Nat) (e : Int)
  deriving DecidableEq, Repr, Inhabited

def fval (w : Word) : FVal :=
  let neg := w.getLsbD 31
  let e := bitsN w.toNat 30 23
  let f := bitsN w.toNat 22 0
  if e = 255 then (if f = 0 then .inf neg else .nan)
  else if e = 0 then .fin neg f (-149)
  else .fin neg (f + 2 ^ 23) ((e : Int) - 150)

/-- The canonical quiet NaN (R43). -/
def QNAN : Word := 0x7FC00000
def infWord (neg : Bool) : Word := if neg then 0xFF800000 else 0x7F800000
def zeroWord (neg : Bool) : Word := if neg then 0x80000000 else 0
def isNan (w : Word) : Bool := fval w == .nan

/-- The exact value of a finite pattern. -/
def fexact (w : Word) : Option Dy :=
  match fval w with
  | .fin neg m e => some { m := if neg then -(m : Int) else m, e := e }
  | _ => none

/-- A word and the VSTAT flags its making sets (R156): IV 1, DZ 2, OF 4, UF 8, NX 16, SAT 32. -/
abbrev Flagged := Word × Nat
def fIV : Nat := 1
def fDZ : Nat := 2
def fOF : Nat := 4
def fUF : Nat := 8
def fNX : Nat := 16
def fSAT : Nat := 32

/-- The exponent of the leading bit of num / den: the k with 2^k ≤ num / den < 2^(k+1), for positive numbers. -/
def ratLog2 (num den : Nat) : Int :=
  let k : Int := (Nat.log2 num : Int) - Nat.log2 den
  if num * pow2 (-k) < den * pow2 k then k - 1 else k

/-- rne_f32 of ± (num / den) × 2^e with the flags of R157: one rounding, ties to even, subnormals kept, tininess judged
after rounding (R44). A zero value gives +0.0. -/
def roundRat (neg : Bool) (num den : Nat) (e : Int) : Flagged :=
  if num = 0 then (0, 0)
  else
    let q := max (ratLog2 num den + e - 23) (-149)
    let s := e - q
    let n := num * pow2 s
    let d := den * pow2 (-s)
    let m := rneNat n d
    let bits := (q + 149).toNat * 2 ^ 23 + m
    let sign := if neg then 2 ^ 31 else 0
    if 0x7F800000 ≤ bits then (BitVec.ofNat 32 (sign + 0x7F800000), fOF + fNX)
    else
      let nx := n % d ≠ 0
      (BitVec.ofNat 32 (sign + bits), if nx then (if bits < 0x00800000 then fNX + fUF else fNX) else 0)

/-- rne_f32 of an exact value (R44). -/
def roundDy (v : Dy) : Flagged := roundRat (decide (v.m < 0)) v.m.natAbs 1 v.e
/-- rne_f32 of an exact value or NaR (R44). -/
def rneF32 (v : Option Dy) : Word :=
  match v with
  | none => QNAN
  | some v => (roundDy v).1

/-- The F32 sum (R159): an exact zero sum is +0.0, but (-0) + (-0) is -0.0. -/
def fadd (a b : Word) : Flagged :=
  match fval a, fval b with
  | .nan, _ => (QNAN, 0)
  | _, .nan => (QNAN, 0)
  | .inf s, .inf t => if s = t then (infWord s, 0) else (QNAN, fIV)
  | .inf s, _ => (infWord s, 0)
  | _, .inf t => (infWord t, 0)
  | .fin s m e, .fin t n f =>
    if m = 0 ∧ n = 0 then (zeroWord (s && t), 0)
    else roundDy (dyAdd ⟨if s then -(m : Int) else m, e⟩ ⟨if t then -(n : Int) else n, f⟩)

/-- rne_f32 of the sum of two F32 values (R44), as R48, R370 and R379 take it: an exact zero sum is +0.0 (log entry 13). -/
def rneSum (a b : Word) : Word :=
  match fexact a, fexact b with
  | some x, some y => rneF32 (some (dyAdd x y))
  | _, _ => (fadd a b).1

def fnegate (a : Word) : Word := a ^^^ 0x80000000
def fsub (a b : Word) : Flagged := if isNan b then (QNAN, 0) else fadd a (fnegate b)

/-- The F32 product (R159): rne_f32 of the exact product, so an exact zero product is +0.0 (R44, log entry 13). -/
def fmul (a b : Word) : Flagged :=
  match fval a, fval b with
  | .nan, _ => (QNAN, 0)
  | _, .nan => (QNAN, 0)
  | .inf s, .inf t => (infWord (s != t), 0)
  | .inf s, .fin t n _ => if n = 0 then (QNAN, fIV) else (infWord (s != t), 0)
  | .fin s m _, .inf t => if m = 0 then (QNAN, fIV) else (infWord (s != t), 0)
  | .fin s m e, .fin t n f => roundRat (s != t) (m * n) 1 (e + f)

/-- The fused a × b + c, one rounding (R159). 0 × ∞ sets IV even when c is NaN (R157). -/
def ffma (a b c : Word) : Flagged :=
  let prodInf (s : Bool) : Flagged :=
    match fval c with
    | .nan => (QNAN, 0)
    | .inf t => if s = t then (infWord s, 0) else (QNAN, fIV)
    | _ => (infWord s, 0)
  match fval a, fval b with
  | .nan, _ => (QNAN, 0)
  | _, .nan => (QNAN, 0)
  | .inf s, .inf t => prodInf (s != t)
  | .inf s, .fin t n _ => if n = 0 then (QNAN, fIV) else prodInf (s != t)
  | .fin s m _, .inf t => if m = 0 then (QNAN, fIV) else prodInf (s != t)
  | .fin s m e, .fin t n f =>
    match fval c with
    | .nan => (QNAN, 0)
    | .inf u => (infWord u, 0)
    | .fin u l g =>
      roundDy (dyAdd ⟨if s != t then -((m * n : Nat) : Int) else (m * n : Nat), e + f⟩ ⟨if u then -(l : Int) else l, g⟩)

/-- The order of F32 values, -0.0 below +0.0, for patterns that are no NaN. -/
def fkey (w : Word) : Int := if w.getLsbD 31 then -1 - (w.toNat - 2 ^ 31 : Nat) else w.toNat
/-- VMIN.F and VMAX.F (R159). -/
def fminmax (max_ : Bool) (a b : Word) : Word :=
  if isNan a then (if isNan b then QNAN else b)
  else if isNan b then a
  else if (fkey a < fkey b) != max_ then a else b

/-- a < b and a = b on F32 values: ±0.0 are equal, a NaN compares false (R159). -/
def flt (a b : Word) : Bool :=
  if isNan a || isNan b then false
  else if a &&& 0x7FFFFFFF = 0 ∧ b &&& 0x7FFFFFFF = 0 then false else decide (fkey a < fkey b)
def feq (a b : Word) : Bool :=
  if isNan a || isNan b then false else (a &&& 0x7FFFFFFF == 0 && b &&& 0x7FFFFFFF == 0) || a == b
def fle (a b : Word) : Bool := flt a b || feq a b

/-- F32 to I32 (R44, R172). -/
def f32ToI32 (a : Word) : Flagged :=
  match fval a with
  | .nan => (0, fIV + fSAT)
  | .inf s => (if s then 0x80000000 else 0x7FFFFFFF, fSAT)
  | .fin s m e =>
    let v : Int := if s then -(m : Int) else m
    let n := rneScale v e
    if n < -2 ^ 31 then (0x80000000, fSAT)
    else if 2 ^ 31 ≤ n then (0x7FFFFFFF, fSAT)
    else (BitVec.ofInt 32 n, if m * pow2 e % pow2 (-e) = 0 then 0 else fNX)

/-- F32 to BF16 by nearest even at bit 16 (R44), with flags (R173). -/
def f32ToBf16 (a : Word) : BitVec 16 × Nat :=
  match fval a with
  | .nan => (0x7FC0, 0)
  | .inf s => (if s then 0xFF80 else 0x7F80, 0)
  | .fin _ _ _ =>
    let mag := bitsN a.toNat 30 0
    let r := rneNat mag (2 ^ 16)
    let sign := if a.getLsbD 31 then 2 ^ 15 else 0
    if 0x7F80 ≤ r then (BitVec.ofNat 16 (sign + 0x7F80), fOF + fNX)
    else (BitVec.ofNat 16 (sign + r),
      if mag % 2 ^ 16 = 0 then 0 else if r < 0x0080 then fNX + fUF else fNX)

/-! ## Element codes (R31, R32) -/

/-- The length of the run of bits equal to q from bit n - 1 downward. -/
def runLen (body : Nat) (q : Bool) : Nat → Nat
  | 0 => 0
  | n + 1 => if bitN body n == q then runLen body q n + 1 else 0

/-- The magnitude of a nonzero body of W bits, in units of 2^-12 (R31). -/
def codeMag (body w : Nat) : Nat :=
  let q := bitN body (w - 1)
  let m := runLen body q w
  let k : Int := if q then (m : Int) - 1 else -(m : Int)
  let rest := w - m - 1
  let e := if rest = 0 then 0 else bitsN body (rest - 1) (rest - 1)
  let fbits := rest - 1
  let f := body % 2 ^ fbits
  let x : Int := 2 * k + e + 12 - fbits
  (2 ^ fbits + f) * pow2 x / pow2 (-x)

/-- The value of a code in units of 2^-12, or NaR: 8-bit codes for W = 7, 6-bit codes for W = 5 (R31, R32). -/
def codeVal (c w : Nat) : Option Int :=
  let body := c % 2 ^ w
  let neg := bitN c w
  if body = 0 then (if neg then none else some 0)
  else some (if neg then -(codeMag body w : Int) else codeMag body w)

/-- Phocy-8 (true) and Phocy-6 (false): body width, code width, bytes of codes in a block (R34). -/
def bodyW (eight : Bool) : Nat := if eight then 7 else 5
def codeW (eight : Bool) : Nat := if eight then 8 else 6
def codeBytes (eight : Bool) : Nat := if eight then 16 else 12

/-- elem_value (R33) of the n-th element of a block. -/
def elemValue (code hdr n : Nat) (eight : Bool) : Option Dy :=
  let e := bitsN hdr 15 8
  let sigma := bitsN hdr (2 * (n / 4) + 1) (2 * (n / 4))
  if e = 255 then none
  else (codeVal code (bodyW eight)).map fun v => { m := v, e := (e : Int) - 139 - sigma }

/-- Code n of the codes of a block, as one little-endian number (R34). -/
def codeAt (codes n : Nat) (eight : Bool) : Nat := codes / 2 ^ (codeW eight * n) % 2 ^ codeW eight

/-! ## Quantisation (R35 to R37) -/

/-- QSTAT additions of one command: saturated, flushed, non-finite elements. -/
structure QCount where
  sat : Nat
  flush : Nat
  nonfin : Nat
  deriving DecidableEq, Repr, Inhabited
def qzero : QCount := ⟨0, 0, 0⟩
def qadd (a b : QCount) : QCount := ⟨a.sat + b.sat, a.flush + b.flush, a.nonfin + b.nonfin⟩

/-- nearest_code (R35) of num / den in units of 2^-12: the body, and whether it saturated. Bodies rise with their
magnitudes, so the scan keeps the nearest, and of two equally near the one with an even code. -/
def nearestCode (num den w : Nat) : Nat × Bool :=
  let top := 2 ^ w - 1
  if num > codeMag top w * den then (top, true)
  else
    let dist (b : Nat) : Nat := let v := (if b = 0 then 0 else codeMag b w) * den; max v num - min v num
    ((List.range (2 ^ w)).foldl (fun best b =>
      if dist b < dist best ∨ (dist b = dist best ∧ b % 2 = 0) then b else best) 0, false)

/-- q8_block and q6_block (R36): codes, header and counts. -/
def qblock (x : List Word) (sc : Word) (held eight : Bool) : List Nat × Nat × QCount :=
  let p : List (Option Dy) := x.map fun v => fexact (if held then v else (fmul v sc).1)
  let fin := p.filterMap id
  let amax : Dy := fin.foldl (fun m v => if dyLt m (dyAbs v) then dyAbs v else m) ⟨0, 0⟩
  let e : Nat :=
    if held then min (bitsN sc.toNat 30 23) 254
    else if amax.m = 0 then 127
    else min 254 ((Nat.log2 amax.m.natAbs : Int) + amax.e + 127).toNat
  let quarter (q : Nat) : List (Option Dy) := (p.drop (4 * q)).take 4
  let fits (s : Nat) (v : Option Dy) : Bool :=
    match v with
    | none => false
    | some v => dyLt (dyAbs v) ⟨1, (e : Int) - 127 - s⟩
  let sigma (q : Nat) : Nat :=
    if amax.m = 0 ∨ (quarter q).any Option.isNone then 0
    else if (quarter q).all (fits 3) then 3 else if (quarter q).all (fits 2) then 2
    else if (quarter q).all (fits 1) then 1 else 0
  let one (n : Nat) (v : Option Dy) : Nat × QCount :=
    match v with
    | none => (2 ^ bodyW eight, ⟨0, 0, 1⟩)
    | some v =>
      let s : Int := v.e + 127 - e + sigma (n / 4) + 12
      let (c, sat) := nearestCode (v.m.natAbs * pow2 s) (pow2 (-s)) (bodyW eight)
      (if c = 0 then 0 else if v.m < 0 then c + 2 ^ bodyW eight else c,
        ⟨if sat then 1 else 0, if c = 0 ∧ v.m ≠ 0 then 1 else 0, 0⟩)
  let r := p.mapIdx one
  (r.map Prod.fst, e * 256 + sigma 3 * 64 + sigma 2 * 16 + sigma 1 * 4 + sigma 0,
    r.foldl (fun a b => qadd a b.2) qzero)

/-- The codes of a block as one little-endian number (R34). -/
def packCodes (codes : List Nat) (eight : Bool) : Nat :=
  (codes.mapIdx fun n c => c * 2 ^ (codeW eight * n)).foldl (· + ·) 0

/-! ## Phocy-A (R38 to R42) -/

def NARS : List Lane := List.replicate 16 none
def Acc.fresh0 : Acc := { lanes := List.replicate 16 (some 0), x := 0, fresh := true, stamped := false, stamp := 0 }

/-- A block from its 104 bytes as one number (R38); an invalid header reads as 16 NaR lanes (R39). -/
def accOfNat (v : Nat) : Acc :=
  let hdr := v / 2 ^ 768
  let lane (n : Nat) : Lane :=
    let l : Nat := v / 2 ^ (48 * n) % 2 ^ 48
    if l = 2 ^ 47 then none else some (if 2 ^ 47 ≤ l then (l : Int) - (2 ^ 48 : Nat) else (l : Int))
  if bitsN hdr 63 30 ≠ 0 ∨ bitsN hdr 11 0 = 4095 then
    { lanes := NARS, x := 2047, fresh := false, stamped := false, stamp := 0 }
  else
    let fresh := bitN hdr 12
    { lanes := if fresh then List.replicate 16 (some 0) else (List.range 16).map lane
      x := if fresh then 0 else bitsN hdr 11 0
      fresh := fresh, stamped := bitN hdr 29, stamp := bitsN hdr 28 13 }

def laneNat (l : Lane) : Nat :=
  match l with
  | none => 2 ^ 47
  | some v => (v % ((2 ^ 48 : Nat) : Int)).toNat

/-- The header of a block (R38). -/
def accHdr (a : Acc) : Nat :=
  (if a.stamped then 2 ^ 29 else 0) + a.stamp % 2 ^ 16 * 2 ^ 13 + (if a.fresh then 2 ^ 12 else 0) + a.x % 2 ^ 12

/-- The 104 bytes of a block (R38). -/
def accBytes (a : Acc) : List Byte :=
  (a.lanes.map fun l => bytesOfNat 6 (laneNat l)).flatten ++ bytesOfNat 8 (accHdr a)

/-- acc_align (R40); an exponent may be below zero in decay_acc (R47). -/
def accAlign (l : Lane) (xfrom xto : Int) : Lane := l.map fun v => rneScale v (xfrom - xto)

/-- A lane at or above 2^46 in magnitude. -/
def laneBig (l : Lane) : Bool := l.any fun v => decide (2 ^ 46 ≤ v.natAbs)

/-- acc_grow (R40): the block, and whether ACCOVF is set. X passes 4094 within the fuel. -/
def accGrow : Nat → Acc → Acc × Bool
  | 0, a => (a, false)
  | n + 1, a =>
    if a.lanes.any laneBig then
      let b := { a with x := a.x + 1, lanes := a.lanes.map fun l => l.map fun v => rneScale v (-1) }
      if 4094 < b.x then ({ b with lanes := NARS, x := 4094 }, true) else accGrow n b
    else (a, false)
def growFuel : Nat := 4100

def laneAdd (a b : Lane) : Lane :=
  match a, b with
  | some x, some y => some (x + y)
  | _, _ => none

/-- acc_add (R40). -/
def accAdd (a b : Acc) : Acc × Bool :=
  if a.fresh then accGrow growFuel { b with fresh := false }
  else if b.fresh then accGrow growFuel a
  else
    let x := max a.x b.x
    accGrow growFuel { a with
      x := x
      fresh := false
      lanes := a.lanes.zipWith (fun l m => laneAdd (accAlign l a.x x) (accAlign m b.x x)) b.lanes }

/-- The least X for one exact value (R41). -/
def laneX (v : Dy) : Nat :=
  if v.m = 0 then 0
  else
    let x := ((Nat.log2 v.m.natAbs : Int) + v.e + 2040).toNat
    if rneScale v.m.natAbs (v.e + 2079 - x) < 2 ^ 40 then x else x + 1

/-- acc_pick_x (R41): X, and whether some value exceeds the bound at 4094. -/
def pickX (p : List (Option Dy)) : Nat × Bool :=
  let vs := p.filterMap id
  if vs.isEmpty then (2047, false)
  else
    let x := vs.foldl (fun m v => max m (laneX v)) 0
    (min x 4094, decide (4094 < x))

/-- A value as a lane at exponent X: rne(value × 2^(2079 - X)) (R41, R42). -/
def toLane (x : Nat) (v : Option Dy) : Lane := v.map fun v => rneScale v.m (v.e + 2079 - x)

/-- The values that exceed the bound at X = 4094 become NaR (R41). -/
def capBound (p : List (Option Dy)) : List (Option Dy) :=
  p.map fun v => v.filter fun v => decide (laneX v ≤ 4094)

/-- A fresh Phocy-A block of exact values or NaR (R41): the block, and whether ACCOVF is set. -/
def accOfValues (p : List (Option Dy)) : Acc × Bool :=
  let (x, ovf) := pickX p
  ({ lanes := (capBound p).map (toLane x), x := if (capBound p).all Option.isNone ∧ ¬ ovf then 2047 else x
     fresh := false, stamped := false, stamp := 0 }, ovf)

/-- One K-block of matrix accumulation: steps 2 to 5 of R42 with the exact partials P. -/
def accMac (c : Acc) (p : List (Option Dy)) : Acc × Bool :=
  if c.fresh && p.all (fun v => match v with | some v => v.m == 0 | none => false) then (c, false)
  else
    let (x, ovf) := if c.fresh then pickX p else (c.x, false)
    let q := if c.fresh then capBound p else p
    let lanes := if c.fresh then List.replicate 16 (some 0) else c.lanes
    let (r, o) := accGrow growFuel { c with x := x, fresh := false, lanes := lanes.zipWith laneAdd (q.map (toLane x)) }
    (r, o || ovf)

/-- The exact value of a lane (R38); a fresh block reads zero lanes. -/
def laneVal (a : Acc) (l : Lane) : Option Dy := l.map fun v => { m := v, e := (a.x : Int) - 2079 }

/-! ## Decay and stamps (R46 to R49) -/

/-- decay_acc (R47) with I and M of decay_mult. -/
def decayAcc (a : Acc) (i m : Nat) : Acc :=
  let lanes := a.lanes.map fun l => l.map fun v => rneScale (v * m) (-24)
  if a.x < i then { a with lanes := lanes.map fun l => accAlign l ((a.x : Int) - i) 0, x := 0 }
  else { a with lanes := lanes, x := a.x - i }

/-- decay_f32 (R47) with I and M of decay_mult. -/
def decayF32 (v : Word) (i m : Nat) : Word :=
  match fval v with
  | .nan => QNAN
  | .inf s => infWord s
  | .fin s n e =>
    match fexact (roundRat s (n * m) 1 (e - 24)).1 with
    | none => infWord s
    | some w => (roundDy { w with e := w.e - i }).1

/-! ## The churn hash (R45) -/

/-- The dither of lane i: 12 bits from the neighbour's discard and the step (R45). -/
def churnDither (d i step : Nat) : Nat :=
  let z := (d % 2 ^ 20) ^^^ (step % 2 ^ 16 * 2 ^ 16) ^^^ (i * 0x2B45)
  let z := z ^^^ (z / 2 ^ 15)
  z * 0x6C8E9CF5 % 2 ^ 32 / 2 ^ 20

/-- Whether a lane with discarded part d of n bits rounds up (R45). -/
def churnUp (d n dnext i step : Nat) : Bool :=
  let t := if 12 ≤ n then d / 2 ^ (n - 12) else d * 2 ^ (12 - n)
  decide (4096 ≤ t + churnDither dnext i step)

/-- The discarded part of an F32 magnitude on the BF16 grid, in its least width (R45): (d, n). -/
def bfDiscard (mag : Nat) : Nat × Nat :=
  let d := mag % 2 ^ 16
  match (List.range 16).find? fun k => bitN d k with
  | none => (0, 0)
  | some k => (d / 2 ^ k, 16 - k)

/-! ## Plane form (R50 to R52) -/

/-- The least Ep for one exact value at precision P (R51). -/
def laneEp (p : Nat) (v : Dy) : Nat :=
  if v.m = 0 then 0
  else
    let x := ((Nat.log2 v.m.natAbs : Int) + v.e + 2048).toNat
    if rneScale v.m.natAbs (v.e + 2047 + p - x) < 2 ^ p then x else x + 1

/-- to_plane (R51) of one block: Ep, signs and magnitudes; 0xFFFF marks it invalid. -/
def toPlane (p : Nat) (vs : List (Option Dy)) : Nat × List (Bool × Nat) :=
  let bad : Nat × List (Bool × Nat) := (0xFFFF, List.replicate 16 (false, 0))
  if vs.any Option.isNone then bad
  else
    let ep := (vs.filterMap id).foldl (fun m v => max m (laneEp p v)) 0
    if 4095 < ep then bad
    else (ep, (vs.filterMap id).map fun v =>
      let m := (rneScale v.m.natAbs (v.e + 2047 + p - ep)).toNat
      (decide (v.m < 0) && m != 0, m))

/-- plane_prefix (R52) of one lane of a valid block with k planes landed. -/
def planePrefix (p ep : Nat) (neg : Bool) (mag k : Nat) (centred : Bool) : Dy :=
  if k = 0 then ⟨0, 0⟩
  else
    let t := mag / 2 ^ (p - k) * 2 ^ (p - k)
    let t := if k < p ∧ centred then t + 2 ^ (p - k - 1) else t
    { m := if neg then -(t : Int) else t, e := (ep : Int) - 2047 - p }

end Sys2Proof.Machine
end

