-- ==== Sys2Proof/Machine/Flags.lean ====
section
/-!
DEFINITION. The sticky flags and saturating counts that instructions only add to: VSTAT of a context (R156, R157), QSTAT
and ACCOVF of a core (R319, R320).
-/
namespace Sys2Proof.Machine
open Sys2Proof

/-- The union of two VSTAT flag sets, each one bit a flag (R157). -/
def flagsOr (a b : Nat) : Nat := a ||| b
/-- Sets VSTAT flags (R157): none is cleared. -/
def Ctx.raise (x : Ctx) (f : Nat) : Ctx := { x with vstat := x.vstat ||| BitVec.ofNat 32 f }

/-- An addition that stays at all ones (R319). -/
def satAdd (cap v n : Nat) : Nat := min cap (v + n)
/-- QSTAT after counting saturated, flushed and non-finite elements (R37, R319). -/
def qstatAdd (w : Word) (q : QCount) : Word :=
  BitVec.ofNat 32 (satAdd 2047 (bitsN w.toNat 31 21) q.sat * 2 ^ 21
    + satAdd 2047 (bitsN w.toNat 20 10) q.flush * 2 ^ 10 + satAdd 1023 (bitsN w.toNat 9 0) q.nonfin)
def Core.count (c : Core) (q : QCount) : Core :=
  { c with tensor := { c.tensor with qstat := qstatAdd c.tensor.qstat q } }
/-- Sets ACCOVF (R320), if anything overflowed. -/
def Core.overflow (c : Core) (b : Bool) : Core :=
  if b then { c with tensor := { c.tensor with accovf := c.tensor.accovf ||| 1 } } else c

/-- STEP[15:0]: the low half of counter 63 (R46, R185). -/
def Core.step16 (c : Core) : Nat := (c.counter 63).value.toNat % 2 ^ 16

end Sys2Proof.Machine
end

