-- ==== Sys2Proof/Machine/Special.lean ====
section
/-!
DEFINITION. The special functions of R176 to R178 and the decay multiplier of R47. An irrational value is computed in
fixed point to 400 fraction bits and rounded with a sticky bit, so the one rounding is that of the exact value wherever
the exact value is no nearer than 2^-390 to a boundary between two results (log entry 7).
-/
namespace Sys2Proof.Machine
open Sys2Proof

/-- Fraction bits of a fixed-point number. -/
def fxBits : Nat := 400
def fxOne : Nat := 2 ^ fxBits

/-- The tail of the exponential series from term k: 1 + y/k (1 + y/(k+1) (…)), n terms. -/
def expTail (y : Nat) : Nat → Nat → Nat
  | 0, _ => fxOne
  | n + 1, k => fxOne + y * expTail y n (k + 1) / fxOne / k
/-- e^y in fixed point, for 0 ≤ y < 1. -/
def expFx (y : Nat) : Nat := expTail y 110 1

/-- z^(2j+1)/(2j+1) and the terms after it, n of them: t is the power. -/
def atanhTerms (z2 : Nat) : Nat → Nat → Nat → Nat
  | 0, _, _ => 0
  | n + 1, t, k => t / k + atanhTerms z2 n (t * z2 / fxOne) (k + 2)
/-- atanh z in fixed point, for 0 ≤ z ≤ 1/3. -/
def atanhFx (z : Nat) : Nat := atanhTerms (z * z / fxOne) 140 z 1
/-- ln 2 in fixed point. -/
def ln2Fx : Nat := 2 * atanhFx (fxOne / 3)

/-- 2^f in fixed point, for a fixed-point f below 1. -/
def exp2Fx (f : Nat) : Nat := expFx (f * ln2Fx / fxOne)

/-- A positive exact value as num / den × 2^e: 2^d for d exact, integer or in fixed point with a sticky bit. -/
def exp2Dy (d : Dy) : Nat × Int :=
  if 0 ≤ d.e then (1, d.m * pow2 d.e)
  else
    let w : Int := pow2 (-d.e)
    let n := d.m / w
    let f := (d.m % w).toNat
    if f = 0 then (1, n) else (2 * exp2Fx (f * fxOne / w.toNat) + 1, n - fxBits - 1)

/-- rne_f32 of 2^d / (den × 2^eden) (R176, R178). Beyond ±1,000 the result is an infinity or zero. -/
def exp2Over (d : Dy) (den : Nat) (eden : Int) : Flagged :=
  if dyLt d ⟨-1000, 0⟩ then (0, fUF + fNX)
  else if dyLt ⟨1000, 0⟩ d then (0x7F800000, fOF + fNX)
  else
    let (n, e) := exp2Dy d
    roundRat false n den (e - eden)

/-- rne_f32(2^d) (R176). -/
def exp2Round (d : Dy) : Flagged := exp2Over d 1 0

/-- VEXP2 of one lane (R176). -/
def fexp2 (a : Word) : Flagged :=
  match fval a with
  | .nan => (QNAN, 0)
  | .inf s => (if s then 0 else 0x7F800000, 0)
  | .fin s m e => exp2Round ⟨if s then -(m : Int) else m, e⟩

/-- log2 of y / 2^k with 2^k ≤ y < 2^(k+1), in fixed point. -/
def log2Fx (y k : Nat) : Nat :=
  let p := 2 ^ k
  2 * atanhFx ((y - p) * fxOne / (y + p)) * fxOne / ln2Fx

/-- VLOG2 of one lane (R176). -/
def flog2 (a : Word) : Flagged :=
  match fval a with
  | .nan => (QNAN, 0)
  | .inf s => if s then (QNAN, fIV) else (0x7F800000, 0)
  | .fin s m e =>
    if m = 0 then (0xFF800000, fDZ)
    else if s then (QNAN, fIV)
    else
      let k := Nat.log2 m
      let n : Int := e + k
      if m = 2 ^ k then roundDy ⟨n, 0⟩
      else
        let v : Int := n * (fxOne : Nat) + log2Fx m k
        roundDy ⟨if v < 0 then -(2 * v.natAbs + 1 : Nat) else (2 * v.natAbs + 1 : Nat), -(fxBits : Int) - 1⟩

/-- VRCP of one lane (R176). -/
def frcp (a : Word) : Flagged :=
  match fval a with
  | .nan => (QNAN, 0)
  | .inf s => (zeroWord s, 0)
  | .fin s m e => if m = 0 then (infWord s, fDZ) else roundRat s 1 m (-e)

/-- The integer square root, bit n of the result downward. -/
def sqrtBits (v : Nat) : Nat → Nat → Nat
  | 0, r => r
  | n + 1, r => let t := r + 2 ^ n; sqrtBits v n (if t * t ≤ v then t else r)
def isqrt (v : Nat) : Nat := sqrtBits v (Nat.log2 v / 2 + 1) 0

/-- VRSQ of one lane (R176). -/
def frsq (a : Word) : Flagged :=
  match fval a with
  | .nan => (QNAN, 0)
  | .inf s => if s then (QNAN, fIV) else (0, 0)
  | .fin s m e =>
    if m = 0 then (infWord s, fDZ)
    else if s then (QNAN, fIV)
    else
      let m' := if e % 2 = 0 then m else 2 * m
      let e' := if e % 2 = 0 then e else e - 1
      let r := isqrt m'
      if r * r = m' then roundRat false 1 r (-(e' / 2))
      else roundRat false (2 * isqrt (fxOne * fxOne / m') + 1) 1 (-(e' / 2) - fxBits - 1)

/-- VTANH of one lane (R176). Below 2^-13 the exact value lies within half an ulp under the argument; above 128 within
half an ulp under 1. -/
def ftanh (a : Word) : Flagged :=
  match fval a with
  | .nan => (QNAN, 0)
  | .inf s => (if s then 0xBF800000 else 0x3F800000, 0)
  | .fin s m e =>
    let mag := bitsN a.toNat 30 0
    if m = 0 then (zeroWord s, 0)
    else if mag < 0x39000000 then (a, if mag < 0x00800000 then fNX + fUF else fNX)
    else if 0x43000000 ≤ mag then (if s then 0xBF800000 else 0x3F800000, fNX)
    else
      -- e^(-2x) = 2^(-u) with u = 2 x / ln 2 in fixed point
      let u := (2 * m * pow2 e * fxOne / pow2 (-e)) * fxOne / ln2Fx
      let n := u / fxOne + 1
      let q := exp2Fx (n * fxOne - u) / 2 ^ n
      roundRat s ((2 * fxOne * (fxOne - q)) / (fxOne + q) + 1) 1 (-(fxBits : Int) - 1)

/-! ## Decay (R47) -/

/-- decay_mult (R47): I and M. -/
def decayMult (n df : Nat) : Nat × Nat :=
  let t := n * df
  let f := t % 2 ^ 24
  (t / 2 ^ 24, if f = 0 then 2 ^ 24 else rneNat (exp2Fx ((2 ^ 24 - f) * fxOne / 2 ^ 24)) (2 ^ (fxBits + 1 - 24)))

/-- decay_f32 and decay_acc by n steps at factor DF (R47). -/
def decayWord (v : Word) (n df : Nat) : Word := let (i, m) := decayMult n df; decayF32 v i m
def decayBlock (a : Acc) (n df : Nat) : Acc := let (i, m) := decayMult n df; decayAcc a i m

/-- The steps from a stamp to a step (R46). -/
def elapsedSteps (step stamp : Nat) : Nat := (step + 2 ^ 16 - stamp % 2 ^ 16) % 2 ^ 16

/-! ## Running softmax (R177, R178) -/

/-- exp2(p - q) of R177 for operands that are no NaN. -/
def exp2Diff (p q : Word) : Flagged :=
  match fval p, fval q with
  | .inf s, .inf t => if s = t then (0x3F800000, 0) else (if s then 0 else 0x7F800000, 0)
  | .inf s, _ => (if s then 0 else 0x7F800000, 0)
  | _, .inf t => (if t then 0x7F800000 else 0, 0)
  | .fin s m e, .fin t n f =>
    exp2Round (dyAdd ⟨if s then -(m : Int) else m, e⟩ ⟨if t then (n : Int) else -(n : Int), f⟩)
  | _, _ => (QNAN, 0)

/-- One lane of VSMX: the new maximum and sum, and the flags (R177). Of -0.0 and +0.0 it takes +0.0 as the maximum, as VMAX.F does:
R177 does not say which, the model's choice (log entry 14). -/
def smx (m s a : Word) : Word × Word × Nat :=
  if isNan m || isNan a then (QNAN, QNAN, 0)
  else
    let m2 := fminmax true m a
    if m2 = 0xFF800000 then (m2, s, 0)
    else
      let p := exp2Diff m m2
      let q := exp2Diff a m2
      let r := ffma s p.1 q.1
      (m2, r.1, flagsOr (flagsOr p.2 q.2) r.2)

/-- One lane of VSMXAP: exp2(a - m) / s with one rounding (R178). A quotient that is exactly zero is +0.0 (R44). -/
def smxap (a m s : Word) : Flagged :=
  if isNan a || isNan m || isNan s then (QNAN, 0)
  else
    match fval a, fval m with
    | .fin sa ma ea, .fin sm mm em =>
      let d := dyAdd ⟨if sa then -(ma : Int) else ma, ea⟩ ⟨if sm then (mm : Int) else -(mm : Int), em⟩
      match fval s with
      | .nan => (QNAN, 0)
      | .inf _ => (0, 0)
      | .fin t n e =>
        if n = 0 then (0x7F800000, fDZ)
        else let r := exp2Over d n e; (if t then fnegate r.1 else r.1, r.2)
    | _, _ =>
      let p := (exp2Diff a m).1
      match fval s with
      | .nan => (QNAN, 0)
      | .inf _ => if p = 0x7F800000 then (QNAN, fIV) else (0, 0)
      | .fin t n e =>
        if p = 0x7F800000 then (if n = 0 then (0x7F800000, fDZ) else (infWord t, 0))
        else if p = 0 then (if n = 0 then (QNAN, fIV) else (0, 0))
        else if n = 0 then (0x7F800000, fDZ)
        else roundRat t 1 n (-e)

end Sys2Proof.Machine
end

