-- ==== Sys2Proof/Machine/Shape.lean ====
section
/-!
DEFINITION. The shape record of TG0 to TG7: its fields, the addresses of its blocks, and the checks of R315
(R311 to R315).
-/
namespace Sys2Proof.Machine
open Sys2Proof

/-- A snapshot of TG0 to TG7 (R310). -/
abbrev TG := Vector DWord 8

/-- Bits [hi:lo] of TGr. -/
def tgf (g : TG) (r hi lo : Nat) : Nat := bitsN (vget g r).toNat hi lo
def tgNdim (g : TG) : Nat := tgf g 0 58 55
def tgWfmt (g : TG) : Nat := tgf g 0 54 52
def tgPfmt (g : TG) : Nat := tgf g 0 51 50
def tgHeld (g : TG) : Bool := tgf g 0 49 49 == 1
def tgScl (g : TG) : Bool := tgf g 0 48 48 == 1
def tgDfn (g : TG) : Nat := tgf g 0 47 45
def tgScb (g : TG) : Nat := tgf g 0 44 39
def tgPbase (g : TG) : Nat := tgf g 0 35 18
def tgWbase (g : TG) : Nat := tgf g 0 17 0
def tgH2base (g : TG) : Nat := tgf g 1 53 36
def tgX2base (g : TG) : Nat := tgf g 1 35 18
def tgHbase (g : TG) : Nat := tgf g 1 17 0
def tgFresh (g : TG) : Bool := tgf g 6 19 19 == 1
def tgPop (g : TG) : Bool := tgf g 6 18 18 == 1
def tgBfmt (g : TG) : Nat := tgf g 6 15 14
def tgAfmt (g : TG) : Nat := tgf g 6 13 12
def tgKb (g : TG) : Nat := tgf g 6 7 0 + 1
/-- The dimension word of d, its extent and its stride (R312). -/
def tgDim (g : TG) (d : Nat) : Nat := tgf g (2 + d / 2) (d % 2 * 32 + 31) (d % 2 * 32)
def tgExt (g : TG) (d : Nat) : Nat := bitsN (tgDim g d) 31 20
def tgStride (g : TG) (d : Nat) : Nat := bitsN (tgDim g d) 19 0

/-- WB and CS (R313). -/
def tgWB (g : TG) : Nat := if tgWfmt g = 2 then 104 else 64
def packSize (pfmt : Nat) : Nat := if pfmt = 1 then 16 else if pfmt = 2 then 12 else 104

/-- The extents with their strides, WB standing as the stride of dimension 0 (R313). -/
def tgDims (g : TG) : List (Nat × Nat) :=
  (List.range (min (tgNdim g) 8)).map fun d => (tgExt g d, if d = 0 then tgWB g else tgStride g d)
/-- NB (R313). -/
def tgBlocks (g : TG) : Nat := (tgDims g).foldl (fun n d => n * d.1) 1
/-- The offset of block n on the wide side, dimension 0 fastest (R313). -/
def wideOff : List (Nat × Nat) → Nat → Nat
  | [], _ => 0
  | (e, st) :: l, n => n % max e 1 * st + wideOff l (n / max e 1)
def tgWide (g : TG) (n : Nat) : Nat := tgWbase g + wideOff (tgDims g) n
def tgPacked (g : TG) (n : Nat) : Nat := tgPbase g + packSize (tgPfmt g) * n
def tgHeader (g : TG) (n : Nat) : Nat := tgHbase g + 2 * n
/-- channel(n) (R313). -/
def tgChannel (g : TG) (n : Nat) : Nat :=
  (tgScb g + if tgNdim g = 1 then 0 else n / max (tgExt g 0) 1 % max (tgExt g 1) 1) % 64
/-- The length of the wide span (R313). -/
def tgWideLen (g : TG) : Nat := tgWB g + (tgDims g).foldl (fun n d => n + (d.1 - 1) * d.2) 0

/-- The functions of major 0x30 a record is for, by their codes (R309). -/
def fnMMA : Nat := 2
def fnMMAW : Nat := 3
def fnTQNT : Nat := 4
def fnTDQNT : Nat := 5
def fnTSTPAIR : Nat := 6
def fnTDECAY : Nat := 7
def fnTSADD : Nat := 8
def fnTNORM : Nat := 9
def isMMA (fn : Nat) : Bool := fn == fnMMA || fn == fnMMAW

/-- A span of a command: base, length, whether it is written, and the TG register that holds the base. -/
structure Span where
  base : Nat
  len : Nat
  write : Bool
  aux : Nat
  deriving DecidableEq, Repr

/-- Whether a command uses HBASE: for headers, or for stamps (R314). -/
def usesHdr (g : TG) (fn : Nat) : Bool :=
  if fn = fnTQNT ∨ fn = fnTDQNT ∨ fn = fnTSTPAIR then tgPfmt g == 1 || tgPfmt g == 2
  else (fn == fnTDECAY || fn == fnTSADD) && tgWfmt g == 1

/-- The spans of a command, wide side first (R323, R325 to R329, R332, R334). -/
def tgSpans (g : TG) (fn : Nat) : List Span :=
  let wide (w : Bool) : Span := { base := tgWbase g, len := tgWideLen g, write := w, aux := 0 }
  let packed (w : Bool) : Span := { base := tgPbase g, len := packSize (tgPfmt g) * tgBlocks g, write := w, aux := 0 }
  let hdr (w : Bool) : List Span :=
    if usesHdr g fn then [{ base := tgHbase g, len := 2 * tgBlocks g, write := w, aux := 1 }] else []
  if fn = fnTQNT then [wide false, packed true] ++ hdr true
  else if fn = fnTDQNT then [wide true, packed false] ++ hdr false
  else if fn = fnTSTPAIR then
    [wide false, packed true] ++ hdr true ++
      [{ base := tgH2base g, len := 2 * tgBlocks g, write := true, aux := 1 },
        { base := tgX2base g, len := packSize (tgPfmt g) * tgBlocks g, write := true, aux := 1 }]
  else if fn = fnTDECAY then wide true :: hdr true
  else if fn = fnTSADD then
    wide true :: hdr true ++ [{ base := tgX2base g, len := tgWideLen g, write := false, aux := 1 }]
  else [wide true]

/-- What a shape check reports: the cause, its EVAL, SUB and AUX. -/
abbrev ShapeFault := Nat × Nat × Nat × Nat
def shapeFail (sub val aux : Nat) : ShapeFault := (SHAPE, sub * 2 ^ 24 + val % 2 ^ 24, sub, aux)

/-- Order 1: the first TG register with a reserved bit set (R311, R312). -/
def reservedTg (g : TG) : Option Nat :=
  let bad (r : Nat) : Bool :=
    let v := (vget g r).toNat
    if r = 0 then bitsN v 63 59 != 0 || bitsN v 38 36 != 0
    else if r = 1 then bitsN v 63 54 != 0
    else if r = 6 then bitsN v 63 20 != 0 || bitsN v 17 16 != 0 || bitsN v 11 8 != 0
    else if r = 7 then v != 0
    else [2 * (r - 2), 2 * (r - 2) + 1].any fun d =>
      if tgNdim g ≤ d then tgDim g d != 0 else d == 0 && tgStride g 0 != 0
  (List.range 8).find? bad

/-- What MFS reads of a TG register: the reserved fields of R311 and R312 read zero, whatever TGEOM wrote there (R9), and so
do the dimension words from NDIM on. The check of R315 sees what was written. -/
def tgRead (g : TG) (r : Nat) : DWord :=
  let dim (d : Nat) : Nat := if tgNdim g ≤ d then 0 else if d = 0 then 0xFFF00000 else 0xFFFFFFFF
  let keep : DWord :=
    if r = 0 then 0x07FFFF8FFFFFFFFF
    else if r = 1 then 0x003FFFFFFFFFFFFF
    else if 2 ≤ r ∧ r ≤ 5 then BitVec.ofNat 64 (dim (2 * (r - 2) + 1) * 2 ^ 32 + dim (2 * (r - 2)))
    else if r = 6 then 0x00000000000CF0FF
    else if r = 7 then 0
    else 0xFFFFFFFFFFFFFFFF
  vget g r &&& keep

/-- Order 5: the wide and packed formats a command permits (R314). -/
def fmtOk (fn w p : Nat) : Bool :=
  if isMMA fn || fn == fnTNORM then w == 2 && p == 0
  else if fn = fnTQNT ∨ fn = fnTDQNT then w == 0 && p != 0
  else if fn = fnTSTPAIR then w == 0 && (p == 1 || p == 2)
  else (w == 1 || w == 2) && p == 0

/-- Order 6: the limits of MMA, MMAW and TSTPAIR (R314), and the target of TNORM (R334). -/
def limitFault (g : TG) (fn target : Nat) : Option ShapeFault :=
  let two (lo0 hi0 lo1 hi1 : Nat) : Option ShapeFault :=
    if tgNdim g ≠ 2 then some (shapeFail 7 (tgNdim g) 0)
    else if tgExt g 0 < lo0 ∨ hi0 < tgExt g 0 then some (shapeFail 7 0 2)
    else if tgExt g 1 < lo1 ∨ hi1 < tgExt g 1 then some (shapeFail 7 1 2)
    else none
  if isMMA fn then two 1 4 1 128
  else if fn = fnTSTPAIR then two 1 1 16 16
  else if fn = fnTNORM ∧ 4094 < target then some (shapeFail 7 target 0)
  else none

/-- Order 7: the first misaligned base or stride. R315 has EVAL hold the address, which a stride is not: the model gives the stride
(log entry 32). -/
def misaligned (g : TG) (fn : Nat) : Option ShapeFault :=
  let wal := if tgWfmt g = 2 then 8 else 16
  let pal := if tgPfmt g = 1 then 16 else if tgPfmt g = 2 then 4 else 8
  let all : List (Nat × Nat × Nat) :=
    (tgWbase g, wal, 0) :: ((List.range (tgNdim g)).drop 1).map (fun d => (tgStride g d, wal, 2 + d / 2))
      ++ (if tgPfmt g = 0 then [] else [(tgPbase g, pal, 0)])
      ++ (if usesHdr g fn then [(tgHbase g, 2, 1)] else [])
      ++ (if fn = fnTSTPAIR then [(tgH2base g, 2, 1), (tgX2base g, pal, 1)] else [])
      ++ (if fn = fnTSADD then [(tgX2base g, wal, 1)] else [])
  (all.find? fun e => e.1 % e.2.1 != 0).map fun e => shapeFail 3 e.1 e.2.2

/-- Order 8: the first stride below the span of one index of its dimension, from dimension d on, `span` that of d - 1. -/
def narrowStride (g : TG) : Nat → Nat → Nat → Option ShapeFault
  | 0, _, _ => none
  | n + 1, d, span =>
    if tgStride g d < span then some (shapeFail 1 d (2 + d / 2))
    else narrowStride g n (d + 1) ((tgExt g d - 1) * tgStride g d + span)

/-- Two spans share a byte. -/
def Span.meets (a b : Span) : Bool := decide (a.base < b.base + b.len ∧ b.base < a.base + a.len)

/-- The checks of R315 for a function, with the target of a TNORM. -/
def shapeFault (ro : RoleInfo) (g : TG) (fn target : Nat) : Option ShapeFault :=
  match reservedTg g with
  | some r => some (shapeFail 8 0 r)
  | none =>
    if 2 < tgWfmt g then some (FORMAT, tgWfmt g, 0, 0)
    else if isMMA fn && (tgAfmt g == 0 || tgAfmt g == 3) then some (FORMAT, tgAfmt g, 0, 0)
    else if isMMA fn && (tgBfmt g == 0 || tgBfmt g == 3) then some (FORMAT, tgBfmt g, 0, 0)
    else if tgNdim g = 0 ∨ 8 < tgNdim g then some (shapeFail 4 (tgNdim g) 0)
    else match (List.range (tgNdim g)).find? fun d => tgExt g d == 0 with
      | some d => some (shapeFail 2 d (2 + d / 2))
      | none =>
        if !fmtOk fn (tgWfmt g) (tgPfmt g) then some (shapeFail 5 0 0)
        else
          let spans := tgSpans g fn
          ((((limitFault g fn target).orElse fun _ => misaligned g fn).orElse fun _ =>
            narrowStride g (tgNdim g - 1) 1 (tgWB g * tgExt g 0)).orElse fun _ =>
            (spans.find? fun a => !inKind ro [.data] a.base a.len).map fun a => shapeFail 6 a.base a.aux).orElse fun _ =>
            ((spans.zipIdx.find? fun a => a.1.write && spans.zipIdx.any fun b => a.2 != b.2 && a.1.meets b.1).map
              fun a => shapeFail 9 a.1.base a.1.aux)

/-! ## Work on scratchpad by the tensor engine (R335) -/

/-- A core while a command works on it: the errors found, each with the context and the task that hear of it and the
word, the QSTAT counts, and whether ACCOVF was set. -/
structure TWork where
  c : Core
  faults : List (CtxNo × Nat × Nat)
  q : QCount
  ovf : Bool
  deriving DecidableEq, Repr

/-- The words with an uncorrectable error among n bytes from a. -/
def badsIn (c : Core) (a n : Nat) : List Nat := c.scratch.bad.filter fun w => decide (n ≠ 0 ∧ w < a + n ∧ a < w + 8)
/-- Bytes with none for those an uncorrectable error covers (R335). -/
def optBytes (c : Core) (a n : Nat) : List (Option Byte) :=
  (c.bytes a n).zipIdx.map fun (b, i) =>
    if c.scratch.bad.any fun w => decide (w ≤ a + i ∧ a + i < w + 8) then none else some b
/-- The number of a list of bytes that are all readable. -/
def natOpt (l : List (Option Byte)) : Option Nat :=
  if l.any Option.isNone then none else some (natOfBytes (l.map fun b => b.getD 0))

/-- An access to n bytes from a repairs the correctable errors among them (R120); `State.commit` counts them. -/
def TWork.repair (w : TWork) (a n : Nat) : TWork :=
  if w.c.scratch.soft.isEmpty then w
  else { w with c := { w.c with scratch := { w.c.scratch with
    soft := w.c.scratch.soft.filter fun b => !decide (n ≠ 0 ∧ b < a + n ∧ a < b + 8) } } }
/-- A read of n bytes from a: an asynchronous MCHK for each word with an error (R335), in each block that reads it: the model's
choice (log entry 32). -/
def TWork.read (w : TWork) (k : CtxNo) (serial a n : Nat) : TWork :=
  let w := w.repair a n
  { w with faults := w.faults ++ (badsIn w.c a n).map fun b => (k, serial, b) }
/-- A write of bytes from a: a word with an error that is written in part is left alone and reported (R335). What a command
writes is judged write by write: a word that several blocks share is written in part by each, though together they cover it: the
model's choice (log entry 32). -/
def TWork.write (w : TWork) (k : CtxNo) (serial a : Nat) (bs : List Byte) : TWork :=
  let w := w.repair a bs.length
  let part := (badsIn w.c a bs.length).filter fun b => !decide (a ≤ b ∧ b + 8 ≤ a + bs.length)
  if part.isEmpty then { w with c := w.c.put a bs }
  else
    let keep (x : Nat) : Bool := !part.any fun b => decide (b ≤ x ∧ x < b + 8)
    let mem := bs.zipIdx.foldl (fun m (b, i) => if keep (a + i) then memSet m (a + i) b else m) w.c.scratch.mem
    { w with
      c := { w.c with scratch := Scratch.age { w.c.scratch.overwrite a bs.length with mem := mem } a bs.length .core }
      faults := w.faults ++ part.map fun b => (k, serial, b) }

/-- The 16 F32 words at an address; a word an error covers reads as NaN (R335). -/
def readTokens (c : Core) (a : Nat) : List Word :=
  (List.range 16).map fun k => if (badWord c (a + 4 * k) 4).isNone then c.word (a + 4 * k) else QNAN
def tokenBytes (l : List Word) : List Byte := (l.map fun w => bytesOfNat 4 w.toNat).flatten
/-- The Phocy-A block at an address; a lane an error covers reads as NaR, and so does every lane under a header with an
error (R335). -/
def readAcc (c : Core) (a : Nat) : Acc :=
  if (badWord c (a + 96) 8).isSome then { accOfNat 0 with lanes := NARS, x := 2047, fresh := false }
  else
    let b := accOfNat (c.nat a 104)
    if b.fresh then b
    else { b with lanes := b.lanes.mapIdx fun n l => if (badWord c (a + 6 * n) 6).isSome then none else l }

/-- The elements of a packed block (R33, R335). -/
def elemsOf (codes hdr : List (Option Byte)) (eight : Bool) : List (Option Dy) :=
  match natOpt hdr with
  | none => List.replicate 16 none
  | some h =>
    let v := natOfBytes (codes.map fun b => b.getD 0)
    (List.range 16).map fun k =>
      let lo := codeW eight * k / 8
      let hi := (codeW eight * k + codeW eight - 1) / 8
      if ((codes.drop lo).take (hi + 1 - lo)).any Option.isNone then none else elemValue (codeAt v k eight) h k eight

/-- Puts the work back: the counts, the errors it corrected (R120, R404), and each uncorrectable one counted and delivered as
an asynchronous MCHK (R143, R146, R335). -/
def State.commit (s : State) (p : Site) (w : TWork) : State :=
  let fixed := (s.core p).scratch.soft.length - w.c.scratch.soft.length
  let s := s.setCore p ((w.c.count w.q).overflow w.ovf)
  let s := if fixed = 0 then s else s.countCorrected p fixed
  w.faults.foldl (fun s f =>
    (s.countError p).asyncFault p f.1 f.2.1 { code := MCHK, sub := 0, aux := 0, val := BitVec.ofNat 32 f.2.2 }) s

/-! ## Decay sweeps (R49, R330, R331) -/

/-- The rewrite of block n of a registered region for the crossing C, and what it writes (R49, R331): an error leaves the block
alone. -/
def sweepWrites (w : TWork) (p : Sweep) (cross n : Nat) : TWork × List (Nat × List Byte) :=
  let g := p.tg
  let a := tgWide g n
  let h := tgHeader g n
  let token := tgWfmt g == 1
  let due (stamp : Nat) : Bool := let e := elapsedSteps cross stamp; decide (2 ^ 13 ≤ e ∧ e < 2 ^ 15)
  let w := w.repair a (tgWB g)
  let w := if token then w.repair h 2 else w
  let bad := (if token then badsIn w.c h 2 else []) ++ badsIn w.c a (tgWB g)
  if !bad.isEmpty then ({ w with faults := w.faults ++ bad.map fun b => (p.ctx, p.serial, b) }, [])
  else if token then
    let stamp := w.c.nat h 2
    let ws := (readTokens w.c a).map fun v => decayWord v (elapsedSteps cross stamp) p.df.toNat
    (w, if due stamp then [(a, tokenBytes ws), (h, bytesOfNat 2 cross)] else [])
  else
    let b := readAcc w.c a
    (w, if b.stamped && due b.stamp then
        [(a, accBytes { decayBlock b (elapsedSteps cross b.stamp) p.df.toNat with stamp := cross })]
      else [])
/-- The accesses, line by line, in which a rewrite of a registration is made (R119). -/
def sweepLines (p : Sweep) (l : List (Nat × List Byte)) : List Late :=
  (l.flatMap linesOf).map fun g =>
    { ctx := p.ctx, serial := p.serial, op := .rewrite [g], hold := false, inner := false, fenced := false }
/-- The rewrite made at once, as part of the access that demands it (R331). -/
def sweepBlock (w : TWork) (p : Sweep) (cross n : Nat) : TWork :=
  let (w, l) := sweepWrites w p cross n
  { w with c := l.foldl (fun c g => c.put g.1 g.2) w.c }

/-- The block of a registered region at an address. -/
def blockAt (g : TG) (a : Nat) : Option Nat := (List.range (tgBlocks g)).find? fun n => tgWide g n == a

/-- The rewrites a stamped read at step S demands of the block at an address: those of crossings at or before S,
oldest first (R331). -/
def onDemand (w : TWork) (step a : Nat) : TWork :=
  (List.range 4).foldl (fun w n =>
    let p := vget w.c.tensor.sweeps n
    if !p.valid || p.pend.isEmpty then w
    else match blockAt p.tg a with
      | none => w
      | some b => p.pend.foldl (fun w c =>
          if elapsedSteps step c.toNat < 2 ^ 15 then sweepBlock w p c.toNat b else w) w) w

/-- The first rewrite that a stamped read at step S of the block at an address demands and that writes something: the slot's
registration and the writes. -/
def firstDemand (c : Core) (step a : Nat) : Option (Sweep × List (Nat × List Byte)) :=
  (c.tensor.sweeps.toList.flatMap fun p => if !p.valid then [] else match blockAt p.tg a with
    | none => []
    | some n => p.pend.map fun x => (p, if elapsedSteps step x.toNat < 2 ^ 15 then
        (sweepWrites ⟨c, [], qzero, false⟩ p x.toNat n).2 else [])).find? fun g => !g.2.isEmpty

/-- A rewrite that a stamped read at step S of the block at an address demands lies in part on an absent page: the access stalls
(R331, R398). -/
def demandAbsent (c : Core) (step a : Nat) : Bool :=
  c.tensor.sweeps.toList.any fun p => p.valid && p.pend.any (fun x => decide (elapsedSteps step x.toNat < 2 ^ 15))
    && (blockAt p.tg a).any fun n => absent c a (tgWB p.tg) || (tgWfmt p.tg == 1 && absent c (tgHeader p.tg n) 2)

/-- STEP has moved: at a multiple of 2^13 each valid slot has a sweep pending (R331). -/
def Core.crossing (c : Core) : Core :=
  if c.step16 % 2 ^ 13 = 0 then
    { c with tensor := { c.tensor with sweeps := c.tensor.sweeps.map fun p =>
        if p.valid then { p with pend := p.pend ++ [BitVec.ofNat 16 c.step16] } else p } }
  else c

end Sys2Proof.Machine
end

