-- ==== Sys2Proof/Machine/StreamOps.lean ====
section
/-!
DEFINITION. What streams share: patterns and granules (R341, R342), the delivery and the failure of a granule (R348,
R364 to R367), the places of bridges and ports (R359, R374), and address translation in edge memory (R360, R361).
-/
namespace Sys2Proof.Machine
open Sys2Proof

/-! ## Patterns -/

/-- A snapshot of SG0 to SG7 (R345). -/
abbrev SG := Vector DWord 8
def sgHi (g : SG) (n : Nat) : Nat := bitsN (vget g n).toNat 63 48
def sgLo (g : SG) (n : Nat) : Nat := bitsN (vget g n).toNat 47 0
/-- The dimensions in use from register d on: up to the first with EXT = 0 (R341). -/
def sgDimsFrom (g : SG) : Nat → Nat → List (Nat × Nat)
  | 0, _ => []
  | n + 1, d => if sgHi g d = 0 then [] else (sgHi g d, sgLo g d) :: sgDimsFrom g n (d + 1)
def sgDims (g : SG) : List (Nat × Nat) := sgDimsFrom g 7 1
def sgRun (g : SG) : Nat := sgHi g 0
def sgBase (g : SG) : Nat := sgLo g 0
/-- L (R342). -/
def sgLen (g : SG) : Nat := (sgDims g).foldl (fun n d => n * d.1) (4 * sgRun g)
/-- The address of byte `off` of the sequence (R342). -/
def sgAddr (g : SG) (off : Nat) : Nat :=
  let run := max (4 * sgRun g) 1
  (sgBase g + off % run + wideOff (sgDims g) (off / run)) % 2 ^ 48
/-- Words of the granule that starts at `off`, from word k on: while addresses follow one another (R342). -/
def granuleWords (g : SG) (off a : Nat) : Nat → Nat → Nat
  | 0, k => k
  | n + 1, k =>
    if off + 4 * k < sgLen g ∧ (a + 4 * k) % 256 ≠ 0 ∧ sgAddr g (off + 4 * k) = a + 4 * k
      then granuleWords g off a n (k + 1) else k
/-- The length of the granule that starts at dense offset `off` (R342). -/
def granuleLen (g : SG) (off : Nat) : Nat :=
  if sgLen g ≤ off then 0 else 4 * granuleWords g off (sgAddr g off) 63 1

/-- A 48-bit stride as a signed number: addresses wrap at 2^48 (R342). -/
def signed48 (v : Nat) : Int := if v < 2 ^ 47 then v else (v : Int) - 2 ^ 48
/-- The lowest address of the pattern, and the number of bytes up to its highest (R193, R342). -/
def sgSpan (g : SG) : Int × Nat :=
  let step (d : Nat × Nat) : Int := ((d.1 : Int) - 1) * signed48 d.2
  let lo := (sgDims g).foldl (fun (a : Int) d => a + min (step d) 0) (sgBase g : Int)
  let hi := (sgDims g).foldl (fun (a : Int) d => a + max (step d) 0) ((sgBase g : Int) + 4 * sgRun g)
  (lo, (hi - lo).toNat)
/-- An invalid pattern (R341, R347 step 4). -/
def sgBad (g : SG) (local_ : Bool) : Bool :=
  let used := (sgDims g).length
  sgBase g % 4 != 0 || (sgDims g).any (fun d => d.2 % 4 != 0)
    || ((List.range 8).drop (used + 2)).any (fun d => (vget g d).toNat != 0)
    || (local_ && decide (2 ^ 18 ≤ sgBase g))

/-! ## Delivery and failure -/

def Core.onSlot (c : Core) (n : Nat) (f : Slot → Slot) : Core := { c with slots := vmod c.slots n f }
def Core.onJob (c : Core) (n : Nat) (f : StreamJob → StreamJob) : Core :=
  c.onSlot n fun t => { t with job := t.job.map f }
/-- The stream of a slot, if it is the one with issue number id. -/
def Core.jobOf (c : Core) (slot id : Nat) : Option StreamJob := (vget c.slots slot).job.filter fun j => j.id == id

/-- The current granule of a slot has been delivered: it counts, and BYTES mode adds its length unless it is the last
(R348, R349). A stream cancelled while the granule was partly written ends now (R353). -/
def State.delivered (s : State) (p : Site) (slot : Nat) : State :=
  match (vget (s.core p).slots slot).job with
  | none => s
  | some j =>
    let n := granuleLen j.sg j.start
    let at_ := j.start + n
    let done (j : StreamJob) : StreamJob :=
      { j with next := j.next + 1, start := at_, off := at_, last := n, buf := [], dest := none, busy := false }
    let s := s.onCore p fun c =>
      { (c.onJob slot done).onSlot slot fun t =>
          { t with gran := if n = 0 then t.gran else min (t.gran + 1) (2 ^ 20 - 1) } with
        progress := c.progress || n != 0 }
    let s := if j.bytes && decide (at_ < sgLen j.sg ∨ j.cancel) then s.addCounter p j.counter n else s
    if j.cancel then s.onCore p fun c => c.endStream slot true else s

/-- Records the last fault of a slot (R355, R364). -/
def Core.slotFault (c : Core) (slot sub va : Nat) : Core :=
  c.onSlot slot fun t =>
    { t with fsub := sub, fval := BitVec.ofNat 32 va, fvah := BitVec.ofNat 16 (va / 2 ^ 32) }

/-- A stream ends failed and its issuing context hears of it (R364, R366). -/
def State.streamFails (s : State) (p : Site) (slot code sub va : Nat) (val : Word) : State :=
  match (vget (s.core p).slots slot).job with
  | none => s
  | some j =>
    let s := s.onCore p fun c => (c.slotFault slot sub va).endStream slot true
    s.asyncFault p j.ctx j.serial { code := code, sub := sub, aux := slot, val := val }

/-- A granule meets a translation or access fault: the stream is FAULTED, or cancelled where its task is gone
(R365, R367). -/
def State.streamFaults (s : State) (p : Site) (slot sub va : Nat) : State :=
  match (vget (s.core p).slots slot).job with
  | none => s
  | some j =>
    let x := (s.core p).ctx j.ctx
    let gone := x.status == .dormant || x.serial != j.serial
    let s := s.onCore p fun c =>
      let c := c.slotFault slot sub va
      if gone then c.endStream slot true else c.onSlot slot fun t => { t with state := .faulted }
    s.asyncFault p j.ctx j.serial { code := STREAM, sub := sub, aux := slot, val := BitVec.ofNat 32 va }

/-! ## Places along the boundary (R359, R374) -/

/-- The core at an offset along outward field edge e, counted in the direction of numbering. -/
def edgeSite (e off : Nat) : Site :=
  if e < 8 then Site.mk (64 * e + off) 0
  else if e < 16 then Site.mk 511 (64 * (e - 8) + off)
  else if e < 24 then Site.mk (511 - (64 * (e - 16) + off)) 511
  else Site.mk 0 (511 - (64 * (e - 24) + off))
/-- Whether the variant has the edge: LW9-MB lacks edges 15 to 24. -/
def edgePresent (s : State) (e : Nat) : Bool :=
  match s.variant with
  | .ma => decide (e < 32)
  | .mb => decide (e < 32 ∧ ¬ (15 ≤ e ∧ e ≤ 24))
def portSite (p : Nat) : Site := edgeSite (p / 2) (32 * (p % 2) + 16)
def bridgeSite (e : Nat) : Site := edgeSite e 32
/-- The site word by which a core of this module names the attachment of the home port of a window (R59). -/
def windowSite (s : State) (w : Window) : Word :=
  BitVec.ofNat 32 ((w.home + 64 - s.sysNum) % 64 * 2 ^ 18 + (portSite (bitsN w.hbase 44 39)).toNat)
/-- Hops between two cores (R14). -/
def hops (p q : Site) : Nat := (max p.x q.x - min p.x q.x) + (max p.y q.y - min p.y q.y)
/-- The nearest of some numbered places, ties to the lower number. -/
def nearest (p : Site) (place : Nat → Site) (l : List Nat) : Option Nat :=
  l.foldl (fun m n => match m with
    | none => some n
    | some b => if hops p (place n) < hops p (place b) then some n else m) none
/-- The rectangle of a partition, in cores. -/
def partRectOf (p : Partition) : Rect := ⟨64 * p.fx, 64 * p.fy, 64 * p.fw, 64 * p.fh⟩
/-- A place is open to a core: on a field of its launch's partition, or of the configured one an idle core lies in (R391). A core
in no partition reaches every place: the model's choice (log entry 26). -/
def inPartition (s : State) (p q : Site) : Bool :=
  if (s.core p).live then (s.core p).role.partRect.has q
  else (s.station.partitions.find? fun r => (partRectOf r).has p).all fun r => (partRectOf r).has q
/-- The ports a core may translate at: present, in its partition. -/
def portOpen (s : State) (p : Site) (n : Nat) : Bool :=
  decide (n < 64) && edgePresent s (n / 2) && inPartition s p (portSite n)
/-- The translating port of a stream (R359). -/
def portOf (s : State) (p : Site) (named : Option Nat) : Option Nat :=
  match named with
  | some n => if portOpen s p n then some n else none
  | none => nearest p portSite ((List.range 64).filter (portOpen s p))

/-- Link e is down: the streams with contributions under way through it, to the switch or at it, end failed (R377). -/
def State.contributionsLost (s : State) (e : Nat) : State :=
  let mine (q : Contribution) : Bool := q.source == s.sysNum && q.link == e
  let lost := (s.contributions ++ (s.merges ++ s.merged).flatMap fun m => m.parts).filter mine
  lost.foldl (fun s q =>
      if ((s.core q.site).jobOf q.slot q.id).isSome then s.streamFails q.site q.slot LINK 0 0 (windowSite s q.window) else s)
    { s with contributions := s.contributions.filter fun q => !mine q }

/-! ## Translation (R360, R361) -/

/-- A device address whose home port is present and whose offset lies in that port's memory (R360). -/
def deviceOk (s : State) (dev n : Nat) : Bool :=
  let port := bitsN dev 44 39
  decide (dev < 2 ^ 45) && edgePresent s (port / 2) && decide (bitsN dev 38 0 + n ≤ vget s.portSize port)
/-- An uncorrectable error the memory reports for n bytes at a device address (R360). -/
def deviceBad (s : State) (dev n : Nat) : Bool := s.edgeBad.any fun w => decide (w < dev + n ∧ dev < w + 8)

/-- The core at the home port of a device address, in whose field an error there is counted (R360, R406). -/
def homeSite (dev : Nat) : Site := portSite (bitsN dev 44 39)
/-- A fault of the walk, by subcode: 1 translation, 3 device; an error the memory reports at a device address is one of the
latter. -/
inductive WalkFault where
  | trans | device | bad (dev : Nat)
  deriving DecidableEq, Repr

/-- One walk from a table at a level: the size of the page and its leaf entry (R360). -/
def walk (s : State) (va : Nat) : Nat → Nat → Nat → Except WalkFault (Nat × Nat)
  | 0, _, _ => .error .trans
  | fuel + 1, level, table =>
    let idx := if level = 0 then bitsN va 47 39 else if level = 1 then bitsN va 38 30
      else if level = 2 then bitsN va 29 21 else bitsN va 20 16
    let a := table + 8 * idx
    if !deviceOk s a 8 then .error .device
    else if deviceBad s a 8 then .error (.bad a)
    else
      let e := readNat s.edge a 8
      let leaf := bitN e 1
      let addr := bitsN e 45 8 * 2 ^ 8
      let size := if level = 1 then 2 ^ 30 else if level = 2 then 2 ^ 21 else 2 ^ 16
      if !bitN e 0 || bitsN e 63 46 != 0 || bitsN e 7 6 != 0 || bitN e 4 || bitN e 45 then .error .trans
      else if leaf then
        if level = 0 || addr % size != 0 then .error .trans else .ok (size, e)
      else if level = 3 || bitN e 5 || addr % (if level = 2 then 256 else 4096) != 0 then .error .trans
      else walk s va fuel (level + 1) addr

/-- The page and entry a port finds for an address under an ASID: a cached one where it uses it, else by a walk, which it
caches (R361, log entry 19). -/
def translate (s : State) (port asid va : Nat) : State × Except WalkFault (Nat × Nat) :=
  let hit := s.caches.find? fun c => c.port == port && c.asid == asid && c.page == va / c.size * c.size
  let use := Config.cacheHit s.freeCount
  let s' := { s with freeCount := s.freeCount + 1 }
  match hit, use with
  | some c, true => (s', .ok (c.size, c.entry.toNat))
  | _, _ =>
    match (s.station.asids.find? fun a => a.1 == asid) with
    | none => (s', .error .trans)
    | some (_, root) =>
      match walk s va 4 0 root with
      | .error f => (s', .error f)
      | .ok (size, e) =>
        let page := va / size * size
        let keep := s.caches.filter fun c => !(c.port == port && c.asid == asid && c.page == va / c.size * c.size)
        ({ s' with caches := { port := port, asid := asid, page := page, size := size, entry := BitVec.ofNat 64 e } :: keep },
          .ok (size, e))

end Sys2Proof.Machine
end

