-- ==== Sys2Proof/Machine/Link.lean ====
section
/-!
DEFINITION. Message headers (R238), Hormar links and their bridges (R374 to R377), and the rows of the opcode table that
are events on a link: link `num` of the state.
-/
namespace Sys2Proof.Machine
open Sys2Proof

/-! ## Headers (R237, R238) -/

abbrev Hdr := Vector Word 8
def hdrBits (h : Hdr) (w hi lo : Nat) : Nat := bitsN (vget h w).toNat hi lo
def hdrCa (h : Hdr) : Bool := hdrBits h 0 31 31 == 1
def hdrRel (h : Hdr) : Bool := hdrBits h 0 30 30 == 1
def hdrKind (h : Hdr) : Nat := hdrBits h 0 27 24
def hdrDmod (h : Hdr) : Nat := hdrBits h 0 23 18
def hdrDst (h : Hdr) : Site := (vget h 0).extractLsb' 0 18
def hdrScope (h : Hdr) : Nat := hdrBits h 1 29 27
def hdrCtx (h : Hdr) : CtxNo := Fin.ofNat 8 (hdrBits h 1 26 24)
def hdrSmod (h : Hdr) : Nat := hdrBits h 1 23 18
def hdrSrc (h : Hdr) : Site := (vget h 1).extractLsb' 0 18
def hdrLen (h : Hdr) : Nat := hdrBits h 2 21 12
def hdrTag (h : Hdr) : Nat := hdrBits h 2 11 0
def hdrHaddr (h : Hdr) : Nat := hdrBits h 3 17 0
def hdrLaddr (h : Hdr) : Nat := hdrBits h 4 17 0
def hdrInc (h : Hdr) : Nat := hdrBits h 6 31 16
def hdrCnum (h : Hdr) : Nat := hdrBits h 6 5 0
/-- The site word of the destination and of the sender. -/
def hdrDstWord (h : Hdr) : Word := BitVec.ofNat 32 (hdrBits h 0 23 0)
def hdrSrcWord (h : Hdr) : Word := BitVec.ofNat 32 (hdrBits h 1 23 0)

/-- The kinds of R237 that carry messages. -/
def kSEND : Nat := 0
def kPUT : Nat := 1
def kGET : Nat := 2
def kAMO : Nat := 3
def kACK : Nat := 4
def kGETR : Nat := 5
def kAMOR : Nat := 6
def kNACK : Nat := 7

/-! ## A message whose link goes down (R377) -/

/-- The message leaves the sender's list: it counts as performed (R254). -/
def Core.outDone (c : Core) (rid : Nat) : Core := { c with msg := { c.msg with out := c.msg.out.filter fun m => m.rid != rid } }

/-- A message a core sent is reported failed by its link (R377). -/
def State.outLost (s : State) (p : Site) (m : OutMsg) : State :=
  let s := s.onCore p fun c => c.outDone m.rid
  let site := hdrDstWord m.hdr
  match m.slot with
  | some n => if ((s.core p).jobOf n m.id).isSome then s.streamFails p n LINK 0 0 site else s
  | none =>
    let s := if hdrKind m.hdr = kGET ∨ hdrKind m.hdr = kAMO then
        s.onCore p fun c => let c := c.unlock m.id; if hdrCa m.hdr then c.breakCounter (hdrCnum m.hdr) else c
      else s
    s.asyncFault p m.ctx m.serial { code := LINK, sub := 0, aux := 0, val := site }

/-- A packet fails at a link: its sender hears of it. The requester of a lost reply is in another module (R377). -/
def State.packetLost (s : State) (p : Site) (rid : Option Nat) : State :=
  match rid with
  | none => s
  | some r =>
    match (s.core p).msg.out.find? fun m => m.rid == r with
    | none => s
    | some m => s.outLost p m

/-! ## Flits (R375) -/

/-- CRC-16 with polynomial 0x1021 over the low n bits of a number, the highest first. -/
def crcBits (v : Nat) : Nat → Nat → Nat
  | 0, c => c
  | n + 1, c =>
    let top := c / 2 ^ 15 % 2 == 1
    let c' := c * 2 % 2 ^ 16
    crcBits v n (if top != bitN v n then c' ^^^ 0x1021 else c')
def flitCrc (data : BitVec 512) (ctl : Nat) : Nat := crcBits (data.toNat * 2 ^ 16 + ctl) 528 Config.crcInit.toNat
/-- A flit of a class and a type with a SEQ. -/
def mkFlit (cls type : Nat) (seq : BitVec 12) (data : BitVec 512) : Flit :=
  let hi := cls * 2 ^ 14 + type * 2 ^ 12 + seq.toNat
  { data := data, ctl := BitVec.ofNat 32 (hi * 2 ^ 16 + flitCrc data hi) }
def flitGood (f : Flit) : Bool := flitCrc f.data (bitsN f.ctl.toNat 31 16) == bitsN f.ctl.toNat 15 0
def flitClass (f : Flit) : Nat := bitsN f.ctl.toNat 31 30
def flitType (f : Flit) : Nat := bitsN f.ctl.toNat 29 28
def flitSeq (f : Flit) : BitVec 12 := BitVec.ofNat 12 (bitsN f.ctl.toNat 27 16)

/-- The header beat as a number, w0 lowest (R238). -/
def natOfHdr (h : Hdr) : Nat := (h.toList.zipIdx.map fun (w, i) => w.toNat * 2 ^ (32 * i)).foldl (· + ·) 0
def hdrOfNat (v : Nat) : Hdr :=
  let w (i : Nat) : Word := BitVec.ofNat 32 (v / 2 ^ (32 * i))
  #v[w 0, w 1, w 2, w 3, w 4, w 5, w 6, w 7]
/-- Flits a payload takes (R375). -/
def flitCount (len : Nat) : Nat := 1 + ((len + 31) / 32 + 1) / 2

/-- The flits of a packet (R375). -/
def packetFlits (s : State) (cls : Nat) (seq : BitVec 12) (h : Hdr) (payload : List Byte) : List Flit :=
  let n := flitCount payload.length
  let head := natOfHdr h + s.sysNum % 64 * 2 ^ 256 + (s.sysNum + hdrDmod h) % 64 * 2 ^ 264 + n * 2 ^ 272
  mkFlit cls 0 seq (BitVec.ofNat 512 head) ::
    (List.range (n - 1)).map fun k =>
      mkFlit cls 1 (seq + BitVec.ofNat 12 (k + 1)) (BitVec.ofNat 512 (natOfBytes ((payload.drop (64 * k)).take 64)))

/-- The links not left out. -/
def State.linksIn (s : State) : List Nat := (List.range 32).filter fun e => !(vget s.links e).retired
/-- The bridge of a core: the nearest of those present and open to the core, among the ones its launch was placed with
(R374, R391). -/
def bridgeOf (s : State) (p : Site) : Option Nat :=
  let c := s.core p
  nearest p bridgeSite ((if c.live then c.role.links else s.linksIn).filter fun e =>
    edgePresent s e && inPartition s p (bridgeSite e))

/-- Sends a packet to another module by its bridge; none while the link has no room for its flits. With no bridge, or one
that is down, it fails at once (R376, R377). -/
def State.sendOut (s : State) (p : Site) (h : Hdr) (payload : List Byte) (rid : Option Nat) : Option State :=
  match bridgeOf s p with
  | none => some (s.packetLost p rid)
  | some e =>
    let l := vget s.links e
    if l.state = .down then some (s.packetLost p rid)
    else
      let fs := packetFlits s (if hdrKind h ≤ kAMO then 0 else 1) l.sendSeq h payload
      if 1024 < l.held.length + fs.length then none
      else
        let next := l.sendSeq + BitVec.ofNat 12 fs.length
        let out : Outgoing := { last := next - 1, site := p, rid := rid, hdr := h }
        let l' : Link := { l with
          sendSeq := next, held := l.held ++ fs, packets := l.packets ++ [out]
          replays := l.replays ++ List.replicate fs.length 0 }
        some { s with links := vset s.links e l' }

/-- Sends a message: over the mesh in this module, by a bridge to another; none where it has to wait. `flow` tells
request flows of one core apart. -/
def State.sendMsg (s : State) (p : Site) (h : Hdr) (payload : List Byte) (flow : Nat) (rid : Option Nat) (body : Body) :
    Option State :=
  if hdrDmod h = 0 then
    some (s.send { src := p, dst := hdrDst h, cls := if hdrKind h ≤ kAMO then .request else .reply, ctx := flow, body := body })
  else s.sendOut p h payload rid

/-! ## Arrival of flits (R375, R376) -/

/-- The packet of a complete run of flits, unpacked as the bridge of link e injects it (R375): the sender's module is named
as this module names it (R59, R373). Packets of one core of another module in one class are one flow (R380). -/
def unpack (s : State) (e : Nat) (fs : List Flit) : Option Packet :=
  match fs with
  | [] => none
  | f :: rest =>
    let v := f.data.toNat
    let h := hdrOfNat (v % 2 ^ 256)
    let smod := (bitsN v 261 256 + 64 - s.sysNum % 64) % 64
    let sender := smod * 2 ^ 18 + hdrBits h 1 17 0
    let h := vset h 1 (BitVec.ofNat 32 (hdrBits h 1 31 24 * 2 ^ 24 + sender))
    let payload := ((rest.map fun g => bytesOfNat 64 g.data.toNat).flatten).take (hdrLen h)
    let body : Option Body :=
      if hdrKind h ≤ kAMO then some (.req { hdr := h, payload := payload, rid := 0, launch := none })
      else if hdrKind h ≤ kNACK then some (.rep h payload none)
      else none
    body.map fun b =>
      { src := bridgeSite e, dst := hdrDst h, cls := if hdrKind h ≤ kAMO then .request else .reply, ctx := 8 + sender, body := b }

/-- The request kind a reply may answer. -/
def answers (kind : Nat) (h : Hdr) : Bool :=
  let k := hdrKind h
  if kind = kACK then k == kSEND || k == kPUT else if kind = kGETR then k == kGET else if kind = kAMOR then k == kAMO else true

/-- The message has left its core. -/
def Core.injected (c : Core) (m : OutMsg) : Bool := m.slot.isSome || !(c.msg.queue.any fun q => q.seq == m.seq)

/-- The message a reply answers: by its number, or for one from another module the oldest that went to its sender. -/
def answered (c : Core) (h : Hdr) (rid : Option Nat) : Option OutMsg :=
  match rid with
  | some r => c.msg.out.find? fun m => m.rid == r
  | none => c.msg.out.find? fun m =>
    c.injected m && hdrDstWord m.hdr == hdrSrcWord h && m.ctx == hdrCtx h && answers (hdrKind h) m.hdr

/-- A numbered item put into a list in rising order of the numbers. -/
def insertRid (x : Nat × Nat) : List (Nat × Nat) → List (Nat × Nat)
  | [] => [x]
  | y :: l => if x.2 ≤ y.2 then x :: y :: l else y :: insertRid x l
/-- Messages in the order they were injected, each with the greatest number up to it: by these the messages of launches that
held a core one after another come in order. -/
def orderKeys (launch : Nat) : Nat → List OutMsg → List (Nat × Nat)
  | _, [] => []
  | m, o :: l => (launch, max m o.rid) :: orderKeys launch (max m o.rid) l
/-- The messages of saved launches that replies like a packet from a bridge answer, in the order they were injected: each with
its launch (R381, R394). -/
def awaited (s : State) (p : Packet) : List (Nat × Nat) :=
  match p.body with
  | .rep h _ none => ((s.station.launches.filter fun l => l.phase == .saved).flatMap fun l =>
      (l.saved.filter fun q => q.1 == p.dst.toNat).flatMap fun (_, c) =>
        orderKeys l.id 0 (c.msg.out.filter fun m =>
          c.injected m && hdrDstWord m.hdr == hdrSrcWord h && m.ctx == hdrCtx h)).foldr insertRid []
  | _ => []
/-- How many replies like a packet are among some arrivals: from the same core, for the same context. -/
def alike (p : Packet) (l : List Packet) : Nat :=
  match p.body with
  | .rep h _ none => (l.filter fun q => q.dst == p.dst && match q.body with
      | .rep g _ none => hdrSrcWord g == hdrSrcWord h && hdrCtx g == hdrCtx h
      | _ => false).length
  | _ => 0
/-- The launch that the arrival held at place n is for, if it is a reply to a saved one. -/
def heldFor (s : State) (n : Nat) (p : Packet) : Option Nat := ((awaited s p)[alike p (s.heldArrivals.take n)]?).map (·.1)
/-- A core takes no arrival from a bridge: it is halted, a saved launch is to come back to it while no other holds it, or the
arrival is a reply to a saved launch (R381, R394). -/
def arrivalHeld (s : State) (p : Packet) : Bool :=
  let c := s.core p.dst
  c.halted || (!c.live && s.station.launches.any fun l => l.phase == .saved && l.roles.any fun r => r.info.rect.has p.dst)
    || decide (alike p s.heldArrivals < (awaited s p).length)
/-- The acknowledge flit for a flit that is accepted (R375, R376): its class, and the SEQ up to which all are. -/
def ackFlit (f : Flit) : Flit := mkFlit (flitClass f) 2 (flitSeq f) 0

/-- The link accepts a flit in SEQ order with a good CRC, and acknowledges it; a packet whose flits are all there is injected
at the bridge, or held there while its core is halted or saved (R375, R376, R381). -/
def acceptFlit (s : State) (e : Nat) (f : Flit) : State :=
  let l := vget s.links e
  if l.state ≠ .up ∨ flitGood f = false ∨ flitType f ≥ 2 ∨ flitSeq f ≠ l.recvSeq then s
  else
    let part := if flitType f = 0 then [f] else if l.part.isEmpty then [] else l.part ++ [f]
    let nfl := match part with
      | [] => 0
      | h :: _ => bitsN h.data.toNat 275 272
    let full := !part.isEmpty && decide (nfl ≤ part.length)
    let l' : Link := { l with recvSeq := l.recvSeq + 1, part := if full then [] else part, ack := some (ackFlit f) }
    let s := { s with links := vset s.links e l' }
    if full then
      match unpack s e part with
      | none => s
      | some p => if arrivalHeld s p then { s with heldArrivals := s.heldArrivals ++ [p] } else s.send p
    else s

/-- FLIT: a flit arrives on link `num` (R376). -/
def execFlitArrives (flit : Flit) (s : State) : Host.Outcome State Fault Refusal :=
  .next (if s.num < 32 then acceptFlit s s.num flit else s)

/-- The held flits after those up to a SEQ have been acknowledged. -/
def dropAcked (seq : BitVec 12) (l : List Flit) : List Flit :=
  match l.findIdx? fun f => flitSeq f == seq with
  | none => l
  | some n => l.drop (n + 1)
/-- A cumulative acknowledgement (R376). -/
def Link.acked (l : Link) (seq : BitVec 12) : Link :=
  let rest := dropAcked seq l.held
  if rest.length = l.held.length then l
  else { l with held := rest, replays := l.replays.drop (l.held.length - rest.length), packets := l.packets.filter fun o => rest.any fun f => flitSeq f == o.last }

/-- ACKNOWLEDGE: an acknowledge flit on link `num` releases the flits up to its SEQ (R376). -/
def execAcknowledge (seq : BitVec 12) (s : State) : Host.Outcome State Fault Refusal :=
  .next (if s.num < 32 ∧ (vget s.links s.num).state = .up then
    { s with links := vmod s.links s.num fun l => l.acked seq } else s)

/-- LOSS_OF_LOCK: link `num` loses lock and retrains (R376). -/
def execLossOfLock (s : State) : Host.Outcome State Fault Refusal :=
  .next (if s.num < 32 ∧ (vget s.links s.num).state = .up then
    { s with links := vmod s.links s.num fun l => { l with state := .retraining } } else s)

/-- FLIT_REPLAY: the sender of link `num` replays every flit from its oldest unacknowledged one; at 16 replays of one flit the
link retrains (R376). -/
def execFlitReplay (s : State) : Host.Outcome State Fault Refusal :=
  .next (
    let l := vget s.links s.num
    if s.num < 32 ∧ l.state = .up ∧ ¬ l.held.isEmpty then
      let replays := l.replays.map (· + 1)
      let l' : Link := { l with replays := replays, state := if replays.any (16 ≤ ·) then .retraining else .up }
      { s with links := vset s.links s.num l' }
    else s)

/-- RETRAIN_COMPLETE: link `num` works again and replays from its first unacknowledged flit (R376). -/
def execRetrainComplete (s : State) : Host.Outcome State Fault Refusal :=
  .next (if s.num < 32 ∧ (vget s.links s.num).state = .retraining then
    { s with links := vmod s.links s.num fun l => { l with state := .up, replays := l.replays.map fun _ => 0 } } else s)

/-- The messages of a core to other modules whose reply has not come to this module: those that no packet here answers, each in
its turn. -/
def replyDue (s : State) (p : Site) : List OutMsg :=
  let land (c : Core) (q : Packet) : Core :=
    match q.body with
    | .rep h _ none => if q.dst = p then (answered c h none).elim c fun m => c.outDone m.rid else c
    | _ => c
  let c := (s.mesh ++ s.heldArrivals).foldl land (s.core p)
  c.msg.out.filter fun m => hdrDmod m.hdr != 0 && c.injected m
/-- No reply comes any more through link e to the core at a site whose bridge it is: each is reported to its requester. -/
def repliesLostAt (e : Nat) (s : State) (n : Nat) : State :=
  let p : Site := BitVec.ofNat 18 n
  if bridgeOf s p = some e then (replyDue s p).foldl (fun s m => s.outLost p m) s else s
/-- Link e is down: the replies that the cores await by it are lost, those of saved launches too (R150, R377). -/
def State.repliesLost (s : State) (e : Nat) : State :=
  let s := s.cores.foldl (fun s (n, _) => repliesLostAt e s n) s
  (s.station.launches.filter fun l => l.phase == .saved).foldl (fun s l =>
    s.inSaved l fun t => l.saved.foldl (fun t (n, _) => repliesLostAt e t n) t) s
/-- A link of another module goes down with something of this one: message `n` of those the core in `cur` awaits replies to, or,
past them, the merge on its way to another module's home port (R377). Which link it is this module does not see: the number of
the event says what was on it (log entry 42). -/
def State.lostAbroad (s : State) (n : Nat) : State :=
  let p := s.cur.1
  let due := replyDue s p
  match due[n]? with
  | some m => s.outLost p m
  | none =>
    match takeAt s.merged (n - due.length) with
    | none => s
    | some (m, rest) =>
      if m.window.home = s.sysNum then s
      else m.parts.foldl (fun s q =>
        if q.source = s.sysNum ∧ ((s.core q.site).jobOf q.slot q.id).isSome then
          s.streamFails q.site q.slot LINK 0 0 (windowSite s q.window)
        else s) { s with merged := rest }

/-- RETRAIN_TIMEOUT: link `num` goes down: partial packets are discarded, and every packet not fully acknowledged, every
reply still to come and every contribution under way is reported failed (R377). A number from 32 on stands for a link of another
module. -/
def execRetrainTimeout (s : State) : Host.Outcome State Fault Refusal :=
  .next (
    let l := vget s.links s.num
    if s.num < 32 ∧ l.state = .retraining then
      let l' : Link := { l with state := .down, held := [], packets := [], part := [], replays := [] }
      let s := { s with links := vset s.links s.num l' }
      let s := l.packets.foldl (fun s o => s.packetLost o.site o.rid) s
      let s := (s.repliesLost s.num).contributionsLost s.num
      s.note (.linkDown s.num)
    else if 32 ≤ s.num then s.lostAbroad (s.num - 32)
    else s)

end Sys2Proof.Machine
end

