-- ==== Sys2Proof/Machine/LoadStore.lean ====
section
/-!
DEFINITION. The loads and stores, majors 0x10 to 0x1B (R116 to R121), and the atomics, major 0x1C (R127, R128).
-/
namespace Sys2Proof.Machine
open Sys2Proof

/-- The effective address of a format-M access (R82, R116). -/
def effAddr (c : Ctx) (ra : XReg) (off : BitVec 11) (size : Nat) : Nat :=
  (c.rx ra + off.signExtend 32 * BitVec.ofNat 32 size).toNat

/-- The checks of a scalar access of `size` bytes: ALIGN, BOUNDS, RANGE, MCHK, in that order, with EVAL (R116, R118,
R120, R127). A store of a whole protected word overwrites an error in it; bytes of an absent page hold none (R398). -/
def accessFault (c : Core) (k : CtxNo) (acc : Access) (ea size : Nat) : Option (Nat × Nat) :=
  if ea % size ≠ 0 then some (ALIGN, ea)
  else if !oneRegion c.role k acc ea size then some (BOUNDS, ea)
  else if (lockFault c ea size (acc == .store)).isSome then some (RANGE, ea)
  else if absent c ea size then none
  else (if acc == .store then badPart c ea size else badWord c ea size).map fun w => (MCHK, w)

/-- Takes the trap of a failed access; an uncorrectable error is counted (R146). -/
def State.accessTrap (s : State) (f : Nat × Nat) : State :=
  if f.1 = MCHK then s.machineCheck (BitVec.ofNat 32 f.2) else s.trap f.1 (BitVec.ofNat 32 f.2)

/-- Runs an access to `size` bytes at ea: the checks first, then a stall on an absent page (R398), then the access, which
repairs correctable errors (R120). -/
def access (s : State) (acc : Access) (ea size : Nat) (go : State → State) : State :=
  match accessFault s.here s.cur.2 acc ea size with
  | some f => s.accessTrap f
  | none => if absent s.here ea size then s else go (s.scrub s.cur.1 ea size)

/-- A record of n bytes that an instruction reads at issue: ALIGN, then the checks of a load with EVAL the address, the
lowest locked address and, once no page is absent, the lowest bad word (R242, R316, R344, R347, R398). -/
def record (s : State) (a : Word) (align n : Nat) (go : State → State) : State :=
  if a.toNat % align ≠ 0 then s.trap ALIGN a
  else if !oneRegion s.here.role s.cur.2 .load a.toNat n then s.trap BOUNDS a
  else match lockFault s.here a.toNat n false with
    | some w => s.trap RANGE (BitVec.ofNat 32 w)
    | none =>
      if absent s.here a.toNat n then s
      else match badWord s.here a.toNat n with
        | some w => s.accessTrap (MCHK, w)
        | none => go (s.scrub s.cur.1 a.toNat n)

/-- LOAD of R121: ext turns the number loaded into the value of xd. An acquire waits for the releases before it (R198). -/
def load (i : Instr) (rd ra : XReg) (ord : MemOrd) (off : BitVec 11) (size : Nat) (ext : Nat → Word) (s : State) :
    Host.Outcome State Fault Refusal :=
  gate i s fun s =>
    let ea := effAddr s.me ra off size
    access s .load ea size fun t =>
      if acquireStalls t ord then s else t.result i rd (ext (t.here.nat ea size))

/-- STORE of R121: a release waits for what it must follow (R125). -/
def store (i : Instr) (ra : XReg) (ord : MemOrd) (scope : Scope) (off : BitVec 11) (size : Nat) (val : Ctx → Nat) (s : State) :
    Host.Outcome State Fault Refusal :=
  gate i s fun s =>
    let ea := effAddr s.me ra off size
    access s .store ea size fun t =>
      if releaseStalls t ord scope then s
      else (t.onHere fun c => c.put ea (bytesOfNat size (val t.me))).advance i

/-- LB (R121). -/
def execLb (rd ra : XReg) (ord : MemOrd) (scope : Scope) (off : BitVec 11) (s : State) :
    Host.Outcome State Fault Refusal :=
  load (.lb rd ra ord scope off) rd ra ord off 1 (fun v => (BitVec.ofNat 8 v).signExtend 32) s

/-- LBN (R121). -/
def execLbn (rd ra : XReg) (ord : MemOrd) (scope : Scope) (off : BitVec 11) (s : State) :
    Host.Outcome State Fault Refusal :=
  load (.lbn rd ra ord scope off) rd ra ord off 1 (fun v => BitVec.ofNat 32 v) s

/-- LH (R121). -/
def execLh (rd ra : XReg) (ord : MemOrd) (scope : Scope) (off : BitVec 11) (s : State) :
    Host.Outcome State Fault Refusal :=
  load (.lh rd ra ord scope off) rd ra ord off 2 (fun v => (BitVec.ofNat 16 v).signExtend 32) s

/-- LHN (R121). -/
def execLhn (rd ra : XReg) (ord : MemOrd) (scope : Scope) (off : BitVec 11) (s : State) :
    Host.Outcome State Fault Refusal :=
  load (.lhn rd ra ord scope off) rd ra ord off 2 (fun v => BitVec.ofNat 32 v) s

/-- LW (R121). -/
def execLw (rd ra : XReg) (ord : MemOrd) (scope : Scope) (off : BitVec 11) (s : State) :
    Host.Outcome State Fault Refusal :=
  load (.lw rd ra ord scope off) rd ra ord off 4 (fun v => BitVec.ofNat 32 v) s

/-- LD (R121): the pair d. -/
def execLd (rd ra : XReg) (ord : MemOrd) (scope : Scope) (off : BitVec 11) (s : State) :
    Host.Outcome State Fault Refusal :=
  let i := Instr.ld rd ra ord scope off
  gate i s fun s =>
    let ea := effAddr s.me ra off 8
    access s .load ea 8 fun t =>
      if acquireStalls t ord then s
      else (t.onMe fun c => c.wpair rd (BitVec.ofNat 64 (t.here.nat ea 8))).advance i

/-- SB (R121). -/
def execSb (rs ra : XReg) (ord : MemOrd) (scope : Scope) (off : BitVec 11) (s : State) :
    Host.Outcome State Fault Refusal :=
  store (.sb rs ra ord scope off) ra ord scope off 1 (fun c => (c.rx rs).toNat) s

/-- SH (R121). -/
def execSh (rs ra : XReg) (ord : MemOrd) (scope : Scope) (off : BitVec 11) (s : State) :
    Host.Outcome State Fault Refusal :=
  store (.sh rs ra ord scope off) ra ord scope off 2 (fun c => (c.rx rs).toNat) s

/-- SW (R121). -/
def execSw (rs ra : XReg) (ord : MemOrd) (scope : Scope) (off : BitVec 11) (s : State) :
    Host.Outcome State Fault Refusal :=
  store (.sw rs ra ord scope off) ra ord scope off 4 (fun c => (c.rx rs).toNat) s

/-- SD (R121): the pair s. -/
def execSd (rs ra : XReg) (ord : MemOrd) (scope : Scope) (off : BitVec 11) (s : State) :
    Host.Outcome State Fault Refusal :=
  store (.sd rs ra ord scope off) ra ord scope off 8 (fun c => (c.rpair rs).toNat) s

/-! ## Atomics -/

/-- f(op, old, b) of R127 for codes 0 to 8. -/
def amoFn (code : Nat) (old b : Word) : Word :=
  match code with
  | 0 => old + b
  | 1 => old &&& b
  | 2 => old ||| b
  | 3 => old ^^^ b
  | 4 => if b.slt old then b else old
  | 5 => if old.slt b then b else old
  | 6 => if b.ult old then b else old
  | 7 => if old.ult b then b else old
  | _ => b

/-- An atomic of R127 on the word at xa; `new` is none where the compare of AMOCAS fails and nothing is written. A
word that is not written releases nothing (R128). An acquire alone follows no release before it (R205). -/
def amo (i : Instr) (rd ra : XReg) (ord : MemOrd) (scope : Scope) (new : Ctx → Word → Option Word) (s : State) :
    Host.Outcome State Fault Refusal :=
  gate i s fun s =>
    let ea := (s.me.rx ra).toNat
    access s .store ea 4 fun t =>
      let old := t.here.word ea
      if ord == .ar && acquireStalls t ord then s
      else match new t.me old with
      | none => t.result i rd old
      | some v =>
        if releaseStalls t ord scope then s
        else (t.onHere fun c => c.put ea (bytesOfNat 4 v.toNat)).result i rd old

/-- AMOADD (R127). -/
def execAmoadd (rd ra : XReg) (b : Src) (ord : MemOrd) (scope : Scope) (s : State) : Host.Outcome State Fault Refusal :=
  amo (.amoadd rd ra b ord scope) rd ra ord scope (fun c old => some (amoFn 0 old (c.src b))) s

/-- AMOAND (R127). -/
def execAmoand (rd ra : XReg) (b : Src) (ord : MemOrd) (scope : Scope) (s : State) : Host.Outcome State Fault Refusal :=
  amo (.amoand rd ra b ord scope) rd ra ord scope (fun c old => some (amoFn 1 old (c.src b))) s

/-- AMOOR (R127). -/
def execAmoor (rd ra : XReg) (b : Src) (ord : MemOrd) (scope : Scope) (s : State) : Host.Outcome State Fault Refusal :=
  amo (.amoor rd ra b ord scope) rd ra ord scope (fun c old => some (amoFn 2 old (c.src b))) s

/-- AMOXOR (R127). -/
def execAmoxor (rd ra : XReg) (b : Src) (ord : MemOrd) (scope : Scope) (s : State) : Host.Outcome State Fault Refusal :=
  amo (.amoxor rd ra b ord scope) rd ra ord scope (fun c old => some (amoFn 3 old (c.src b))) s

/-- AMOMIN (R127). -/
def execAmomin (rd ra : XReg) (b : Src) (ord : MemOrd) (scope : Scope) (s : State) : Host.Outcome State Fault Refusal :=
  amo (.amomin rd ra b ord scope) rd ra ord scope (fun c old => some (amoFn 4 old (c.src b))) s

/-- AMOMAX (R127). -/
def execAmomax (rd ra : XReg) (b : Src) (ord : MemOrd) (scope : Scope) (s : State) : Host.Outcome State Fault Refusal :=
  amo (.amomax rd ra b ord scope) rd ra ord scope (fun c old => some (amoFn 5 old (c.src b))) s

/-- AMOMINN (R127). -/
def execAmominn (rd ra : XReg) (b : Src) (ord : MemOrd) (scope : Scope) (s : State) : Host.Outcome State Fault Refusal :=
  amo (.amominn rd ra b ord scope) rd ra ord scope (fun c old => some (amoFn 6 old (c.src b))) s

/-- AMOMAXN (R127). -/
def execAmomaxn (rd ra : XReg) (b : Src) (ord : MemOrd) (scope : Scope) (s : State) : Host.Outcome State Fault Refusal :=
  amo (.amomaxn rd ra b ord scope) rd ra ord scope (fun c old => some (amoFn 7 old (c.src b))) s

/-- AMOSWP (R127). -/
def execAmoswp (rd ra : XReg) (b : Src) (ord : MemOrd) (scope : Scope) (s : State) : Host.Outcome State Fault Refusal :=
  amo (.amoswp rd ra b ord scope) rd ra ord scope (fun c old => some (amoFn 8 old (c.src b))) s

/-- AMOCAS (R128): the low word of b is expected, the high word replaces it. -/
def execAmocas (rd ra : XReg) (b : PairSrc) (ord : MemOrd) (scope : Scope) (s : State) :
    Host.Outcome State Fault Refusal :=
  amo (.amocas rd ra b ord scope) rd ra ord scope (fun c old =>
    if old = (c.pairSrc b).extractLsb' 0 32 then some ((c.pairSrc b).extractLsb' 32 32) else none) s

end Sys2Proof.Machine
end

