-- ==== Sys2Proof/Machine/Message.lean ====
section
/-!
DEFINITION. The message commands of major 0x34 (R240 to R244, R252).
-/
namespace Sys2Proof.Machine
open Sys2Proof

/-- What a message descriptor holds (R241). -/
structure Desc where
  d0 : Word
  d1 : Word
  d2 : Word
  d3 : Word
  deriving DecidableEq, Repr

def Desc.ca (d : Desc) : Bool := d.d1.getLsbD 29
def Desc.rel (d : Desc) : Bool := d.d1.getLsbD 28
def Desc.len (d : Desc) : Nat := bitsN d.d1.toNat 27 18
def Desc.local_ (d : Desc) : Nat := bitsN d.d1.toNat 17 0
def Desc.remote (d : Desc) : Nat := bitsN d.d2.toNat 17 0
def Desc.inc (d : Desc) : Nat := bitsN d.d3.toNat 31 16
def Desc.cnum (d : Desc) : Nat := bitsN d.d3.toNat 5 0
def Desc.dmod (d : Desc) : Nat := bitsN d.d0.toNat 23 18
def Desc.site (d : Desc) : Site := d.d0.extractLsb' 0 18
def descAt (c : Core) (a : Nat) : Desc := ⟨c.word a, c.word (a + 4), c.word (a + 8), c.word (a + 12)⟩

/-- A module number names a module of the system (R373). -/
def moduleNamed (s : State) (dmod : Nat) : Bool := s.modules.contains ((s.sysNum + dmod) % 64)
/-- A core of this module lies in the launch's partition, on a row the variant has (R242 step 5). -/
def destOk (s : State) (p : Site) : Bool := s.here.role.partRect.has p && decide (p.y < s.meshH)

/-- Step 4: a reserved bit, a bad LEN, or D3 without CA. -/
def descReserved (d : Desc) (kind : Nat) : Bool :=
  bitsN d.d0.toNat 31 24 != 0 || bitsN d.d1.toNat 31 30 != 0 || decide (512 < d.len) || d.len % 4 != 0
    || (kind == kAMO && d.len != 4) || (kind != kSEND && bitsN d.d2.toNat 31 18 != 0)
    || (if d.ca then bitsN d.d3.toNat 15 6 != 0 else d.d3 != 0)

/-- The checks of R242 from step 3 on: the cause, EVAL and AUX of the first failure. R242 gives the MSG trap of a DMOD that names
no module (R373) no place among them: it comes before ALIGN and BOUNDS with AUX esel, the model's choice (log entry 25). -/
def descFault (s : State) (i : Instr) (d : Desc) (kind aux : Nat) : Option (Nat × Word × Nat) :=
  let lands := kind == kGET || kind == kAMO
  if d.ca && d.cnum == 63 then some (ILLEGAL, instrWord i, 0)
  else if descReserved d kind then some (MSG, d.d0, aux)
  else if !(if d.dmod = 0 then destOk s d.site else moduleNamed s d.dmod) then some (MSG, d.d0, aux)
  else if d.local_ % 4 ≠ 0 then some (ALIGN, BitVec.ofNat 32 d.local_, 0)
  else if kind ≠ kSEND ∧ d.remote % 4 ≠ 0 then some (ALIGN, BitVec.ofNat 32 d.remote, 0)
  else if d.len ≠ 0 ∧ !oneRegion s.here.role s.cur.2 (if lands then .store else .load) d.local_ d.len then
    some (BOUNDS, BitVec.ofNat 32 d.local_, 0)
  else if lands && d.ca && decide (s.here.role.counters ≤ d.cnum) then
    some (REGRANGE, BitVec.ofNat 32 (0x200 + d.cnum), 0)
  else none

/-- The header of a command's message (R238). -/
def msgHdr (s : State) (d : Desc) (kind tag scope : Nat) (arg aux : Word) : Hdr :=
  let b (v : Bool) (n : Nat) : Nat := if v then 2 ^ n else 0
  #v[BitVec.ofNat 32 (b d.ca 31 + b d.rel 30 + kind * 2 ^ 24 + bitsN d.d0.toNat 23 0),
    BitVec.ofNat 32 (scope * 2 ^ 27 + s.cur.2.val * 2 ^ 24 + s.cur.1.toNat),
    BitVec.ofNat 32 (d.len * 2 ^ 12 + tag),
    if kind = kGET ∨ kind = kAMO then BitVec.ofNat 32 d.local_ else 0,
    if kind = kSEND then 0 else BitVec.ofNat 32 d.remote,
    arg,
    BitVec.ofNat 32 (d.inc * 2 ^ 16 + d.cnum),
    aux]

/-- A message command: its descriptor, its checks, its lock, and its place in the message queue (R241 to R243). A full
queue or lock table stalls the context (R25, R193). -/
def msgCommand (i : Instr) (rb : XReg) (kind tag aux scope : Nat) (arg : Ctx → Desc → Word × Word) (s : State) :
    Host.Outcome State Fault Refusal :=
  gate i s fun s =>
    let a := s.me.rx rb
    record s a 16 16 fun s =>
      let d := descAt s.here a.toNat
      match descFault s i d kind aux with
      | some (code, val, aux) => s.trap code val 0 aux
      | none =>
        let c := s.here
        let id := c.nextCmd
        let seq := c.msg.nextSeq
        let locks := lockOf id d.local_ d.len (kind == kGET || kind == kAMO)
        if 8 ≤ c.msg.queue.length ∨ lockRoom c locks = false then s
        else
          let v := arg s.me d
          let h := msgHdr s d kind tag scope v.1 v.2
          let cmd : MsgCmd :=
            { id := id, ctx := s.cur.2, serial := s.me.serial, hdr := h, src := d.local_, seq := seq, rel := d.rel
              early := [] }
          let out : OutMsg :=
            { rid := seq, id := id, ctx := s.cur.2, serial := s.me.serial, seq := seq, slot := none, hdr := h, landed := 0 }
          (s.onHere fun c => { c.lock locks with
            msg := { c.msg with queue := c.msg.queue ++ [cmd], out := c.msg.out ++ [out], nextSeq := seq + 1 }
            nextCmd := id + 1 }).advance i

/-- MSEND (R241, R242). -/
def execMsend (rb : XReg) (scope : Scope) (esel : BitVec 8) (s : State) : Host.Outcome State Fault Refusal :=
  msgCommand (.msend rb scope esel) rb kSEND esel.toNat esel.toNat scope.code (fun _ d => (d.d2, 0)) s
/-- MPUT (R241, R242). -/
def execMput (rb : XReg) (scope : Scope) (s : State) : Host.Outcome State Fault Refusal :=
  msgCommand (.mput rb scope) rb kPUT 0 0 scope.code (fun _ _ => (0, 0)) s
/-- MGET (R241, R242). -/
def execMget (rb : XReg) (scope : Scope) (s : State) : Host.Outcome State Fault Refusal :=
  msgCommand (.mget rb scope) rb kGET 0 0 scope.code (fun _ _ => (0, 0)) s
/-- MAMO (R240, R249): the operand from xa, or for cas the pair at xa. -/
def execMamo (ra rb : XReg) (scope : Scope) (esel : BitVec 8) (s : State) : Host.Outcome State Fault Refusal :=
  msgCommand (.mamo ra rb scope esel) rb kAMO esel.toNat esel.toNat scope.code
    (fun x _ => (x.rx ra, if esel = 9 then (x.rpair ra).extractLsb' 32 32 else 0)) s

/-- A SEND for a tag waits in the request queue. -/
def sendWaits (c : Core) (tag : Nat) : Bool :=
  c.msg.requests.any fun r => hdrKind r.hdr == kSEND && hdrTag r.hdr == tag

/-- MBIND (R244). -/
def execMbind (rb : XReg) (esel : BitVec 8) (s : State) : Host.Outcome State Fault Refusal :=
  let i := Instr.mbind rb esel
  gate i s fun s =>
    let v := (s.me.rpair rb).toNat
    let lo := v % 2 ^ 32
    let hi := v / 2 ^ 32
    let tag := esel.toNat
    let old := vget s.here.msg.tags tag
    let bad := s.trap MSG (s.siteValue s.cur.1) 0 tag
    let hnd := bitsN lo 15 0 * 4
    let size := (bitsN hi 17 14 + 1) * 32
    let count := bitsN hi 21 18 + 1
    let base := bitsN hi 13 0 * 16
    let set (e : Option TagEntry) : State :=
      (s.onHere fun c => { c with msg := { c.msg with tags := vset c.msg.tags tag e } }).advance i
    if old.any fun e => e.pipe then bad
    else if (if bitN lo 31 then bitsN lo 30 16 != 0 || bitsN hi 31 22 != 0 else v != 0) then bad
    else if (old.any fun e => !e.busy.isEmpty) || sendWaits s.here tag then bad
    else if bitN lo 31 then
      if !inKind s.here.role [.code] hnd 4 then s.trap BOUNDS (BitVec.ofNat 32 hnd)
      else match spanOutside s.here.role [.data, .ring] base (count * size) with
        | some a => s.trap BOUNDS (BitVec.ofNat 32 a)
        | none => set (some
            { handler := hnd, base := base, size := size, count := count, owner := s.cur.2.val, pipe := false, busy := [] })
    else set none

/-- MRECV (R252). -/
def execMrecv (rd : XReg) (esel : BitVec 8) (s : State) : Host.Outcome State Fault Refusal :=
  let i := Instr.mrecv rd esel
  gate i s fun s =>
    if s.me.kind ≠ .handler then s.trap MSG (s.siteValue s.cur.1) 0 0
    else s.result i rd (vget s.me.hdr esel.toNat)

end Sys2Proof.Machine
end

