-- ==== Sys2Proof/Machine/FabricSum.lean ====
section
/-!
DEFINITION. Fabric sums (R257 to R266): the commands FSCFG, FSUM, FSRAISE and FSRES, the protocol every node runs, and the
rows SUM, RENUP, RENDN, SUMDONE and SUMFAIL of the opcode table: packet `num` of the mesh lands.
-/
namespace Sys2Proof.Machine
open Sys2Proof

def Core.sum (c : Core) (t : Nat) : SumTag := vget c.msg.sums t
def State.onSum (s : State) (p : Site) (t : Nat) (f : SumTag → SumTag) : State :=
  s.onCore p fun c => { c with msg := { c.msg with sums := vmod c.msg.sums t f } }
/-- The block b of a tag: its state, if the tag is configured and has it. -/
def SumTag.blk (g : SumTag) (b : Nat) : Option SumBlk := if g.cfg.isSome then g.blks[b]? else none
def SumTag.onBlk (g : SumTag) (b : Nat) (f : SumBlk → SumBlk) : SumTag := { g with blks := g.blks.modify b f }

/-! ## The entry bound (R259) -/

def entryFits (l : Lane) : Bool := l.all fun v => decide (v.natAbs < 2 ^ 28)
/-- fit(C, x). -/
def sumFit (c : Acc) (x : Nat) : Bool := c.lanes.all fun l => entryFits (accAlign l c.x x)
/-- need(C, x), and whether some lane breaks the bound at 4094: the fuel reaches from x to 4094. -/
def sumNeedFrom (c : Acc) : Nat → Nat → Nat × Bool
  | 0, _ => (4094, true)
  | n + 1, x => if sumFit c x then (x, false) else sumNeedFrom c n (x + 1)
def sumNeed (c : Acc) (x : Nat) : Nat × Bool := sumNeedFrom c (4095 - x) x
/-- The lanes of a contribution at an exponent; a lane that breaks the bound is NaR (it can only at 4094). -/
def sumLanes (c : Acc) (x : Nat) : List Lane :=
  c.lanes.map fun l => (accAlign l c.x x).filter fun v => decide (v.natAbs < 2 ^ 28)

/-! ## The protocol of a node (R260, R261) -/

/-- Sends a beat of the tag to every child. -/
def sumDown (s : State) (p : Site) (cfg : SumCfg) (b : Body) : State :=
  cfg.children.foldl (fun s d => s.linkFrame p d .control b) s

/-- The node's locks of a tag go. -/
def sumUnlock (s : State) (p : Site) (cfg : SumCfg) : State := s.onCore p fun c => (c.unlock cfg.resCmd).unlock cfg.srcCmd

/-- Block b is done at a node: its counter is added to, and with the last block the tag is idle (R261). -/
def sumDoneAt (s : State) (p : Site) (t b : Nat) (cfg : SumCfg) : State :=
  let s := s.onSum p t fun g => g.onBlk b fun k => { k with done := true }
  let s := s.addCounter p cfg.counter cfg.inc
  let s := sumDown s p cfg (.sumDone t b ((s.core p).sum t).gen)
  if ((s.core p).sum t).blks.all (·.done) then
    sumUnlock (s.onSum p t fun g => { g with busy := false }) p cfg
  else s

/-- The tag fails at a node (R263). -/
def sumFailAt (s : State) (p : Site) (t b : Nat) (cfg : SumCfg) : State :=
  let s := sumDown s p cfg (.sumFail t b ((s.core p).sum t).gen)
  let s := s.onSum p t fun g => { g with failed := true, busy := false }
  sumUnlock (s.onCore p fun c => c.breakCounter cfg.counter) p cfg

/-- complete(b) at the root (R261, R263). -/
def sumComplete (s : State) (p : Site) (t b : Nat) (cfg : SumCfg) (k : SumBlk) : State :=
  if k.n ≠ cfg.total then
    (sumFailAt s p t b cfg).asyncFault p cfg.ctx cfg.serial { code := FSUM, sub := 0, aux := t, val := BitVec.ofNat 32 b }
  else
    let blk : Acc := { lanes := k.p, x := k.xa, fresh := false, stamped := false, stamp := 0 }
    sumDoneAt (s.onCore p fun c => c.put (cfg.res + 104 * b) (accBytes blk)) p t b cfg

/-- try_send(b) (R260); a failed tag sends and completes nothing (R263). -/
def sumTrySend (s : State) (p : Site) (t b : Nat) : State :=
  let g := (s.core p).sum t
  match g.cfg, g.blk b with
  | some cfg, some k =>
    if g.failed ∨ k.done ∨ k.sent ∨ k.xa < k.req ∨ (cfg.own ∧ g.given.isNone) ∨ !(cfg.children.all fun d => k.got.contains d) then s
    else
      let own : List Lane := match cfg.own, g.given with
        | true, some l => sumLanes (l.getD b default) k.xa
        | _, _ => List.replicate 16 (some 0)
      let k : SumBlk := { k with p := k.p.zipWith laneAdd own, n := k.n + if cfg.own then 1 else 0 }
      match cfg.parent with
      | none => sumComplete (s.onSum p t fun g => g.onBlk b fun _ => k) p t b cfg k
      | some d =>
        let s := s.onSum p t fun g => g.onBlk b fun _ => { k with sent := true }
        s.linkFrame p d .sum (.sum t b g.gen k.xa k.p k.n)
  | _, _ => s

/-- need(C[b], x) of the node's own contribution, if given; ACCOVF is set where no exponent fits (R259). -/
def sumOwnNeed (s : State) (p : Site) (t b x : Nat) : State × Nat :=
  match ((s.core p).sum t).given with
  | none => (s, x)
  | some l =>
    let (y, o) := sumNeed (l.getD b default) x
    (s.onCore p fun c => c.overflow o, y)

/-- adopt(b, x), with request of the node's own need (R260): at the root that adopts once more, which the fuel allows. -/
def sumAdopt : Nat → State → Site → Nat → Nat → Nat → State
  | 0, s, _, _, _, _ => s
  | n + 1, s, p, t, b, x =>
    match ((s.core p).sum t).cfg with
    | none => s
    | some cfg =>
      let s := s.onSum p t fun g => g.onBlk b fun k =>
        { k with xa := x, req := max k.req x, p := List.replicate 16 (some 0), n := 0, got := [], sent := false }
      let s := sumDown s p cfg (.rendn t b ((s.core p).sum t).gen x)
      let (s, y) := sumOwnNeed s p t b x
      let req := (((s.core p).sum t).blk b).elim 0 (·.req)
      let s := if y ≤ x ∨ y ≤ req then s
        else
          let s := s.onSum p t fun g => g.onBlk b fun k => { k with req := y }
          match cfg.parent with
          | none => sumAdopt n s p t b y
          | some d => s.linkFrame p d .control (.renup t b ((s.core p).sum t).gen y)
      sumTrySend s p t b

/-- request(b, x) (R260). -/
def sumRequest (s : State) (p : Site) (t b x : Nat) : State :=
  let g := (s.core p).sum t
  match g.cfg, g.blk b with
  | some cfg, some k =>
    if x ≤ k.req then s
    else
      let s := s.onSum p t fun g => g.onBlk b fun k => { k with req := x }
      match cfg.parent with
      | none => sumAdopt 3 s p t b x
      | some d => s.linkFrame p d .control (.renup t b g.gen x)
  | _, _ => s

/-- The contribution of a node, block by block (R260, on FSUM). -/
def sumGive (s : State) (p : Site) (t : Nat) (blks : List Acc) : State :=
  let s := s.onSum p t fun g => { g with given := some blks }
  (List.range blks.length).foldl (fun s b =>
    let xa := (((s.core p).sum t).blk b).elim 0 (·.xa)
    let (s, x) := sumOwnNeed s p t b xa
    let s := if xa < x then sumRequest s p t b x else s
    sumTrySend s p t b) s

/-! ## Commands -/

/-- The fields of the descriptor of FSCFG (R257). -/
structure SumDesc where
  xa0 : Nat
  nblk : Nat
  own : Bool
  children : List Dir
  dir : Nat
  total : Nat
  res : Nat
  inc : Nat
  counter : Nat
  reserved : Bool
  deriving DecidableEq, Repr

def dirOf : Nat → Option Dir
  | 0 => some .east | 1 => some .west | 2 => some .north | 3 => some .south | _ => none

def sumDesc (d : Desc) : SumDesc :=
  let f0 := d.d0.toNat
  let f1 := d.d1.toNat
  let f2 := d.d2.toNat
  let f3 := d.d3.toNat
  { xa0 := bitsN f0 27 16, nblk := bitsN f0 15 10 + 1, own := bitN f0 8
    children := (List.range 4).filterMap fun n => if bitN f0 (4 + n) then dirOf n else none
    dir := bitsN f0 2 0, total := bitsN f1 18 0, res := bitsN f2 17 0, inc := bitsN f3 31 16, counter := bitsN f3 5 0
    reserved := bitsN f0 31 28 != 0 || bitN f0 9 || bitN f0 3 || bitsN f1 31 19 != 0 || bitsN f2 31 18 != 0
      || bitsN f3 15 6 != 0 }

/-- The fourth row of the table of R257. -/
def sumDescBad (s : State) (d : SumDesc) : Bool :=
  let open_ (r : Dir) : Bool := (launchNeighbour s s.cur.1 r).isSome
  d.reserved || decide (4 < d.dir)
    || (match dirOf d.dir with
      | some r => d.children.contains r || !open_ r || decide (d.total ≠ 0 ∨ d.res ≠ 0)
      | none => decide (d.total = 0 ∨ 2 ^ 18 < d.total))
    || d.children.any (fun r => !open_ r) || (!d.own && d.children.isEmpty) || d.xa0 == 4095

/-- The trap of the fabric-sum commands: EVAL 0, AUX the tag. -/
def State.sumTrap (s : State) (t : Nat) : State := s.trap FSUM 0 0 t

/-- FSCFG (R257). -/
def execFscfg (rb : XReg) (esel : BitVec 8) (s : State) : Host.Outcome State Fault Refusal :=
  let i := Instr.fscfg rb esel
  gate i s fun s =>
    let a := s.me.rx rb
    let t := esel.toNat
    record s a 16 16 fun s =>
      let d := sumDesc (descAt s.here a.toNat)
      let c := s.here
      if d.counter = 63 then s.trap ILLEGAL (instrWord i)
      else if c.role.counters ≤ d.counter then s.trap REGRANGE (BitVec.ofNat 32 (0x200 + d.counter))
      else if (c.sum t).busy ∨ sumDescBad s d then s.sumTrap t
      else if d.res % 8 ≠ 0 then s.trap ALIGN (BitVec.ofNat 32 d.res)
      else if d.dir = 4 ∧ !inKind c.role [.data] d.res (104 * d.nblk) then s.trap BOUNDS (BitVec.ofNat 32 d.res)
      else
        let id := c.nextCmd
        let locks := if d.dir = 4 then lockOf id d.res (104 * d.nblk) true else []
        if lockRoom c locks = false then s
        else
          let cfg : SumCfg :=
            { own := d.own, children := d.children, parent := dirOf d.dir, total := d.total, res := d.res, inc := d.inc
              counter := d.counter, nblk := d.nblk, ctx := s.cur.2, serial := s.me.serial, resCmd := id, srcCmd := id }
          let blk : SumBlk :=
            { xa := d.xa0, req := d.xa0, p := List.replicate 16 (some 0), n := 0, got := [], sent := false, done := false }
          let s := s.onHere fun c => { c.lock locks with nextCmd := id + 1 }
          (s.onSum s.cur.1 t fun g =>
            { cfg := some cfg, gen := g.gen + 1, failed := false, busy := true, given := none
              blks := List.replicate d.nblk blk }).advance i

/-- An FSUM of tag t waits in the message queue. -/
def sumQueued (c : Core) (t : Nat) : Bool := c.msg.queue.any fun m => hdrKind m.hdr == 8 && hdrTag m.hdr == t

/-- FSUM (R258): the source is locked at issue and read when the command is performed. -/
def execFsum (rb : XReg) (esel : BitVec 8) (s : State) : Host.Outcome State Fault Refusal :=
  let i := Instr.fsum rb esel
  gate i s fun s =>
    let t := esel.toNat
    let a := (s.me.rx rb).toNat
    let c := s.here
    let g := c.sum t
    match g.cfg with
    | none => s.sumTrap t
    | some cfg =>
      let n := 104 * cfg.nblk
      if g.failed ∨ cfg.own = false ∨ g.given.isSome ∨ sumQueued c t then s.sumTrap t
      else if a % 8 ≠ 0 then s.trap ALIGN (BitVec.ofNat 32 a)
      else if !oneRegion c.role s.cur.2 .load a n then s.trap BOUNDS (BitVec.ofNat 32 a)
      else
        let id := c.nextCmd
        let locks := lockOf id a n false
        if 8 ≤ c.msg.queue.length ∨ lockRoom c locks = false then s
        else
          let cmd : MsgCmd :=
            { id := id, ctx := s.cur.2, serial := s.me.serial
              hdr := #v[BitVec.ofNat 32 (8 * 2 ^ 24), 0, BitVec.ofNat 32 t, 0, 0, 0, 0, 0]
              src := a, seq := c.msg.nextSeq, rel := false, early := [] }
          let s := s.onHere fun c =>
            { c.lock locks with msg := { c.msg with queue := c.msg.queue ++ [cmd] }, nextCmd := id + 1 }
          (s.onSum s.cur.1 t fun g => { g with cfg := some { cfg with srcCmd := id } }).advance i

/-- FSRAISE (R264): EVAL of its trap is the block (R142). -/
def execFsraise (rb : XReg) (esel : BitVec 8) (s : State) : Host.Outcome State Fault Refusal :=
  let i := Instr.fsraise rb esel
  gate i s fun s =>
    let t := esel.toNat
    let v := (s.me.rx rb).toNat
    let b := bitsN v 5 0
    let x := bitsN v 27 16
    let g := s.here.sum t
    match g.blk b with
    | none => s.trap FSUM (BitVec.ofNat 32 b) 0 t
    | some k =>
      if bitsN v 15 6 ≠ 0 ∨ bitsN v 31 28 ≠ 0 ∨ x = 4095 then s.trap FSUM (BitVec.ofNat 32 b) 0 t
      else (if k.sent ∨ k.done then s else sumRequest s s.cur.1 t b x).advance i

/-- The word FSRES writes (R265). -/
def sumWord (g : SumTag) (b : Nat) : Word :=
  let bit (v : Bool) (n : Nat) : Nat := if v then 2 ^ n else 0
  let k := g.blk b
  BitVec.ofNat 32 (k.elim 0 (fun k => k.xa * 2 ^ 16) + g.gen.toNat * 2 ^ 8 + bit (k.any fun k => decide (k.xa < k.req)) 5
    + bit g.failed 4 + bit (g.cfg.isSome && g.blks.all (·.done)) 3 + bit (k.any (·.done)) 2
    + bit (k.any fun k => k.sent || k.done) 1 + bit g.cfg.isSome 0)

/-- FSRES (R265). -/
def execFsres (rd rb : XReg) (esel : BitVec 8) (s : State) : Host.Outcome State Fault Refusal :=
  let i := Instr.fsres rd rb esel
  gate i s fun s => s.result i rd (sumWord (s.here.sum esel.toNat) (bitsN (s.me.rx rb).toNat 5 0))

/-- An FSUM at the head of its context's commands is performed: an error makes its block 16 NaR lanes (R258). -/
def sumPerform (s : State) (p : Site) (m : MsgCmd) : State :=
  let t := hdrTag m.hdr
  match ((s.core p).sum t).cfg with
  | none => s
  | some cfg =>
    let n := 104 * cfg.nblk
    let c := s.core p
    let blks := (List.range cfg.nblk).map fun b =>
      let a := m.src + 104 * b
      if (badWord c a 104).isSome then { accOfNat 0 with lanes := NARS, x := 2047, fresh := false } else accOfNat (c.nat a 104)
    let s := s.commit p ((⟨c, [], qzero, false⟩ : TWork).read m.ctx m.serial m.src n)
    sumGive s p t blks

/-! ## Arrivals (R260 to R263) -/

/-- The direction from which a neighbour's packet comes. -/
def fromDir (s : State) (p q : Site) : Option Dir := [Dir.east, .west, .north, .south].find? fun d => neighbour s p d == some q

/-- A beat of a sum from a child or from the parent: a stale one is discarded, a mismatch recorded, and else `f` acts (R263). The stale
bullet of R263 names no SUMDONE or SUMFAIL; one of the generation before is discarded without a record too, the model's choice
(log entry 27). -/
def sumBeat (s : State) (p : Packet) (t b : Nat) (gen : BitVec 8) (down : Bool) (f : SumCfg → SumBlk → Dir → State) : State :=
  let g := (s.core p.dst).sum t
  let mismatch := s.note (.sumMismatch p.dst t)
  if g.cfg.isSome && gen + 1 == g.gen then s
  else match g.cfg, g.blk b, fromDir s p.dst p.src with
    | some cfg, some k, some d =>
      if gen ≠ g.gen ∨ !(if down then cfg.parent == some d else cfg.children.contains d) then mismatch
      else if g.failed then s
      else f cfg k d
    | _, _, _ => mismatch

/-- The root's result block may be written: no earlier command's lock delays it and its page is there (R194, R398). -/
def sumResultReady (c : Core) (cfg : SumCfg) (b : Nat) : Bool :=
  cfg.parent.isSome || (!held c cfg.resCmd (cfg.res + 104 * b) 104 true && !absent c (cfg.res + 104 * b) 104)

/-- SUM (R260). -/
def execSumLands (s : State) : Host.Outcome State Fault Refusal :=
  onLanding s fun p t =>
    match p.body with
    | .sum tag b gen xa lanes cnt =>
      sumBeat t p tag b gen false fun cfg k d =>
        if k.done ∨ xa < k.xa then t
        else if 2 ^ 18 < k.n + cnt then t.note (.sumMismatch p.dst tag)
        else if !sumResultReady (t.core p.dst) cfg b then s
        else
          let k' : SumBlk := { k with p := k.p.zipWith laneAdd lanes, n := k.n + cnt, got := d :: k.got }
          sumTrySend (t.onSum p.dst tag fun g => g.onBlk b fun _ => k') p.dst tag b
    | _ => s

/-- RENUP (R260). -/
def execRenupLands (s : State) : Host.Outcome State Fault Refusal :=
  onLanding s fun p t =>
    match p.body with
    | .renup tag b gen x =>
      sumBeat t p tag b gen false fun _ k _ => if k.done ∨ x ≤ k.req then t else sumRequest t p.dst tag b x
    | _ => s

/-- RENDN (R260). -/
def execRendnLands (s : State) : Host.Outcome State Fault Refusal :=
  onLanding s fun p t =>
    match p.body with
    | .rendn tag b gen x =>
      sumBeat t p tag b gen true fun _ k _ => if k.done ∨ x ≤ k.xa then t else sumAdopt 3 t p.dst tag b x
    | _ => s

/-- SUMDONE (R261). -/
def execSumDoneLands (s : State) : Host.Outcome State Fault Refusal :=
  onLanding s fun p t =>
    match p.body with
    | .sumDone tag b gen =>
      sumBeat t p tag b gen true fun cfg k _ => if k.done then t else sumDoneAt t p.dst tag b cfg
    | _ => s

/-- SUMFAIL (R263). -/
def execSumFailLands (s : State) : Host.Outcome State Fault Refusal :=
  onLanding s fun p t =>
    match p.body with
    | .sumFail tag b gen => sumBeat t p tag b gen true fun cfg _ _ => sumFailAt t p.dst tag b cfg
    | _ => s

end Sys2Proof.Machine
end

