-- ==== Sys2Proof/Machine/Cream.lean ====
section
/-!
DEFINITION. Cream-order collectives (R267 to R284): trains and their branches, the commands CBCAST, CJOIN, CSKIM, CCUT,
CGATH and CPREC, and the rows OPEN, TRAIN_DATA_BEAT, END, CUT, TRAIN_DONE and MESH_LINK_LOSS. A train's next beat leaves its
source, or packet `num` of the mesh lands.
-/
namespace Sys2Proof.Machine
open Sys2Proof

def Core.cream (c : Core) (t : Nat) : CreamTag := vget c.msg.creams t
def State.onCream (s : State) (p : Site) (t : Nat) (f : CreamTag → CreamTag) : State :=
  s.onCore p fun c => { c with msg := { c.msg with creams := vmod c.msg.creams t f } }
def CreamTag.train (g : CreamTag) (src : Site) : Option Train := g.trains.find? fun r => r.src == src
def CreamTag.onTrain (g : CreamTag) (src : Site) (f : Train → Train) : CreamTag :=
  { g with trains := g.trains.map fun r => if r.src = src then f r else r }
def Train.branch (r : Train) (d : Dir) : Option Branch := r.branches.find? fun b => b.dir == d
def Train.onBranch (r : Train) (d : Dir) (f : Branch → Branch) : Train :=
  { r with branches := r.branches.map fun b => if b.dir = d then f b else b }
def State.onBranch (s : State) (p : Site) (t : Nat) (src : Site) (d : Dir) (f : Branch → Branch) : State :=
  s.onCream p t fun g => g.onTrain src fun r => r.onBranch d f

/-- A tag that receives in this generation (R278). -/
def CreamTag.joined (g : CreamTag) : Bool := g.mode == .join || g.mode == .gather
/-- Bytes of a tile as it is declared, and as its planes reach (R50, R268). -/
def tileLen (p : Nat) : Nat := 64 + 32 * p
def tileReach (p : Nat) : Nat := 96 + 32 * p
/-- The number of the tile a source's train fills (R274, R275). -/
def CreamTag.tileOf (g : CreamTag) (src : Site) : Nat :=
  if g.mode = .gather then (src.y - g.rect.y0) * g.rect.w + (src.x - g.rect.x0) else 0
def CreamTag.onTile (g : CreamTag) (n : Nat) (f : Tile → Tile) : CreamTag := { g with tiles := g.tiles.modify n f }
/-- The address of a tile: of the named one, else of the receive area, zero if there is none. -/
def CreamTag.tileAddr (g : CreamTag) (n : Nat) : Nat :=
  match g.tiles[n]?, g.tiles with
  | some t, _ => t.base
  | none, t :: _ => t.base
  | none, [] => 0

/-! ## The rectangle tree (R267) -/

/-- The direction of the parent of q on the tree of a source; none at the source. -/
def treeParent (src q : Site) : Option Dir :=
  if q.y < src.y then some .north
  else if src.y < q.y then some .south
  else if q.x < src.x then some .east
  else if src.x < q.x then some .west
  else none
/-- The directions of the children of q. -/
def treeChildren (r : Rect) (src q : Site) : List Dir :=
  let east := q.y = src.y ∧ src.x ≤ q.x ∧ q.x + 1 < r.x0 + r.w
  let west := q.y = src.y ∧ q.x ≤ src.x ∧ r.x0 < q.x
  let north := src.y ≤ q.y ∧ q.y + 1 < r.y0 + r.h
  let south := q.y ≤ src.y ∧ r.y0 < q.y
  (if east then [.east] else []) ++ (if west then [.west] else []) ++ (if north then [.north] else [])
    ++ (if south then [.south] else [])
/-- A train at a node before its OPEN. -/
def newTrain (r : Rect) (src q : Site) : Train :=
  { src := src, toSend := []
    branches := (treeChildren r src q).map fun d =>
      { dir := d, cut := false, ended := false, sent := 0 }
    cutSent := false, ended := false }

/-! ## Headers of kind 13 (R269) -/

/-- A rectangle as ORG and EXT. -/
def rectWords (r : Rect) : Word × Word :=
  (BitVec.ofNat 32 (r.y0 * 2 ^ 9 + r.x0), BitVec.ofNat 32 ((r.h - 1) * 2 ^ 9 + (r.w - 1)))
def rectOfWords (o e : Word) : Rect :=
  ⟨bitsN o.toNat 8 0, bitsN o.toNat 17 9, bitsN e.toNat 8 0 + 1, bitsN e.toNat 17 9 + 1⟩
/-- SUB, and SENT of an END. -/
def BeatKind.sub : BeatKind → Nat × Nat
  | .fin n => (1, n)
  | .cut => (2, 0)
  | _ => (0, 0)
/-- The header of a beat that context k of node p sends: SCTX is the context that issued the tag's command there (log entry
28). -/
def creamHdr (p : Site) (k : CtxNo) (b : CreamBeat) : Vector Word 8 :=
  let cls := if b.kind = .cut then 3 else 2
  let (org, ext) := rectWords b.rect
  #v[BitVec.ofNat 32 (cls * 2 ^ 28 + 13 * 2 ^ 24),
    BitVec.ofNat 32 (Scope.code .device * 2 ^ 27 + k.val * 2 ^ 24 + p.toNat),
    BitVec.ofNat 32 (b.gen.toNat * 2 ^ 22 + b.p * 2 ^ 16 + b.kind.sub.1 * 2 ^ 12 + b.tag),
    siteWord b.src, org, ext, BitVec.ofNat 32 b.kind.sub.2, 0]
/-- What a header says. -/
def beatOfHdr (h : Vector Word 8) : CreamBeat :=
  let w (n hi lo : Nat) : Nat := bitsN (vget h n).toNat hi lo
  { tag := w 2 1 0, gen := BitVec.ofNat 8 (w 2 29 22), p := w 2 21 16, src := BitVec.ofNat 18 (w 3 17 0)
    rect := rectOfWords (vget h 4) (vget h 5)
    kind := if w 2 15 12 = 0 then .opn else if w 2 15 12 = 1 then .fin (w 6 5 0) else .cut, data := [] }

/-! ## Sending on a branch (R268, R270, R281) -/

def dirIdx : Dir → Nat
  | .east => 0 | .west => 1 | .north => 2 | .south => 3
def Core.trainLink (c : Core) (d : Dir) : TrainLink := vget c.msg.trainLinks (dirIdx d)
def State.onTrainLink (s : State) (p : Site) (d : Dir) (f : TrainLink → TrainLink) : State :=
  s.onCore p fun c => { c with msg := { c.msg with trainLinks := vmod c.msg.trainLinks (dirIdx d) f } }

/-- The train of a beat: its tag, generation and source. -/
def CreamBeat.key (b : CreamBeat) : Nat × BitVec 8 × Site := (b.tag, b.gen, b.src)
/-- The number of a train open on a link, and a number that is free (R268). -/
def TrainLink.number (l : TrainLink) (b : CreamBeat) : Option Nat := (l.out.find? fun e => e.2 == b.key).map (·.1)
def TrainLink.freeNumber (l : TrainLink) : Option Nat := (List.range 64).find? fun n => !(l.out.any fun e => e.1 == n)
/-- Beats of a train wait for a number. -/
def TrainLink.waits (l : TrainLink) (b : CreamBeat) : Bool := l.wait.any fun w => w.key == b.key

/-- A beat leaves on a link with the number of its train; a plane counts as sent, and an END frees the number. -/
def creamEmit (s : State) (p : Site) (d : Dir) (n : Nat) (b : CreamBeat) : State :=
  let g := (s.core p).cream b.tag
  match b.kind with
  | .exponents => s.linkFrame p d .sum (.trainBeat n 0 b.data)
  | .plane idx =>
    let s := s.linkFrame p d .sum (.trainBeat n idx b.data)
    if g.gen = b.gen then s.onBranch p b.tag b.src d fun r => { r with sent := r.sent + 1 } else s
  | .fin _ =>
    (s.linkFrame p d .sum (.creamHeader (creamHdr p g.ctx b) n)).onTrainLink p d fun l =>
      { l with out := l.out.filter fun e => e.1 != n }
  | _ => s.linkFrame p d .sum (.creamHeader (creamHdr p g.ctx b) n)

/-- A beat leaves if its train has a number, which an OPEN takes; else it waits with its train (R268). An END whose OPEN was
never sent goes alone. -/
def creamOut (s : State) (p : Site) (d : Dir) (b : CreamBeat) : State :=
  let l := (s.core p).trainLink d
  let wait := s.onTrainLink p d fun l => { l with wait := l.wait ++ [b] }
  if l.waits b then wait
  else match b.kind, l.number b, l.freeNumber with
    | .opn, none, some n => creamEmit (s.onTrainLink p d fun l => { l with out := l.out ++ [(n, b.key)] }) p d n b
    | .opn, none, none => wait
    | .fin _, none, _ => s.linkFrame p d .sum (.creamHeader (creamHdr p ((s.core p).cream b.tag).ctx b) 64)
    | _, some n, _ => creamEmit s p d n b
    | _, none, _ => s

/-- The trains that wait for a number on a link go on, oldest first, as far as there are numbers. -/
def creamFlush : Nat → State → Site → Dir → State
  | 0, s, _, _ => s
  | n + 1, s, p, d =>
    let l := (s.core p).trainLink d
    match l.wait, l.freeNumber with
    | b :: _, some _ =>
      let s := s.onTrainLink p d fun l => { l with wait := l.wait.filter fun w => w.key != b.key }
      creamFlush n ((l.wait.filter fun w => w.key == b.key).foldl (fun s b => creamOut s p d b) s) p d
    | _, _ => s

/-- A beat for a branch that is not cut; an END ends the branch. -/
def creamForward (s : State) (p : Site) (t : Nat) (src : Site) (d : Dir) (b : CreamBeat) : State :=
  match (((s.core p).cream t).train src).bind fun r => r.branch d with
  | none => s
  | some r =>
    if r.cut || r.ended then s
    else
      let s := creamOut s p d b
      match b.kind with
      | .fin _ => creamFlush 64 (s.onBranch p t src d fun r => { r with ended := true }) p d
      | _ => s

/-- A beat for every branch not cut. -/
def creamForwardAll (s : State) (p : Site) (t : Nat) (src : Site) (b : CreamBeat) : State :=
  match ((s.core p).cream t).train src with
  | none => s
  | some r => r.branches.foldl (fun s c => creamForward s p t src c.dir b) s

/-- A header beat of a tag's train. -/
def creamBeat (g : CreamTag) (t : Nat) (src : Site) (k : BeatKind) (data : List Byte) : CreamBeat :=
  { tag := t, gen := g.gen, p := g.p, src := src, rect := g.rect, kind := k, data := data }

/-- try_cut_up (R280). -/
def tryCutUp (s : State) (p : Site) (t : Nat) (src : Site) : State :=
  let g := (s.core p).cream t
  match g.train src with
  | none => s
  | some r =>
    let own := (g.tiles[g.tileOf src]?).any (·.cut)
    if !(own || src == p) || !r.branches.all (·.cut) || r.cutSent then s
    else if src = p then
      (if g.mode = .bcast then s.onCream p t fun g => g.onTrain src fun r => { r with toSend := [] } else s)
    else match treeParent src p with
      | none => s
      | some d =>
        let s := s.onCream p t fun g => g.onTrain src fun r => { r with cutSent := true }
        s.linkFrame p d .control (.creamHeader (creamHdr p g.ctx (creamBeat g t src .cut [])) 64)

/-! ## Landing (R276, R281) -/

/-- Where a beat lands in its tile. -/
def beatOff : BeatKind → Nat
  | .plane n => if n = 1 then 64 else 96 + 32 * (n - 2)
  | _ => 0

/-- Where a beat of a tag's train lands. -/
def CreamTag.landAddr (g : CreamTag) (b : CreamBeat) : Nat := g.tileAddr (g.tileOf b.src) + beatOff b.kind
/-- No earlier command's lock delays the landing of a beat (R194, R276). -/
def beatFree (c : Core) (g : CreamTag) (b : CreamBeat) : Bool :=
  b.data.isEmpty || !held c g.recvCmd (g.landAddr b) b.data.length true
/-- The landing of a beat does not wait for an absent page (R398). -/
def beatPresent (c : Core) (g : CreamTag) (b : CreamBeat) : Bool := !absent c (g.landAddr b) b.data.length

/-- A data beat lands in its tile by the place its kind gives it, whatever P the tag was joined with (log entry 28); a counted one
counts (R276). -/
def creamLand (s : State) (p : Site) (t : Nat) (src : Site) (b : CreamBeat) : State :=
  let g := (s.core p).cream t
  let n := g.tileOf src
  let s := s.onCore p fun c => c.put (g.tileAddr n + beatOff b.kind) b.data
  match b.kind with
  | .plane _ => (s.onCream p t fun g => g.onTile n fun w => { w with count := w.count + 1 }).addCounter p g.counter 1
  | _ => s

/-- The tag is idle once every tile is final and, under CGATH, its own train is done; the receive lock goes when every tile
is final (R281). -/
def creamSettle (s : State) (p : Site) (t : Nat) : State :=
  let g := (s.core p).cream t
  if g.joined && g.tiles.all (·.final) then
    let s := s.onCore p fun c => c.unlock g.recvCmd
    if g.mode = .join ∨ (g.train p).any (·.ended) then s.onCream p t fun g => { g with busy := false } else s
  else s

/-- A tile is final (R280). -/
def creamFinal (s : State) (p : Site) (t : Nat) (src : Site) : State :=
  let n := ((s.core p).cream t).tileOf src
  let s := s.onCream p t fun g => g.onTile n fun w => { w with final := true }
  creamSettle s p t

/-- A beat has its effect at a node that has forwarded it: a data beat lands, an END makes the tile final, unless the tile has
ended or failed (R276, R280, R283). -/
def creamEffect (s : State) (p : Site) (b : CreamBeat) : State :=
  let t := b.tag
  let g := (s.core p).cream t
  if (g.tiles[g.tileOf b.src]?).all fun w => w.final || w.fail then s
  else match b.kind with
    | .opn => s
    | .fin _ => creamFinal (s.onCream p t fun g => if b.src = p then g else g.onTrain b.src fun r => { r with ended := true }) p t b.src
    | _ => creamLand s p t b.src b

/-- A beat's effect takes place, or it waits behind those that wait for an absent page (R270, R398). -/
def creamTake (s : State) (p : Site) (b : CreamBeat) : State :=
  let g := (s.core p).cream b.tag
  if g.toLand.isEmpty && beatPresent (s.core p) g b then creamEffect s p b
  else s.onCream p b.tag fun g => { g with toLand := g.toLand ++ [b] }

/-! ## Commands (R271 to R275, R278 to R280) -/

/-- The descriptor of CBCAST, CJOIN or CGATH (R272). -/
structure CreamDesc where
  fmt : Nat
  p : Nat
  src : Nat
  rect : Rect
  a : Nat
  counter : Nat
  recv : Nat
  reserved : Bool
  deriving DecidableEq, Repr

def creamDesc (c : Core) (a : Nat) (fn : CreamMode) : CreamDesc :=
  let w (n : Nat) : Nat := (c.word (a + 4 * n)).toNat
  { fmt := bitsN (w 0) 31 30, p := bitsN (w 0) 29 24, src := bitsN (w 0) 23 0
    rect := ⟨bitsN (w 1) 8 0, bitsN (w 1) 17 9, bitsN (w 2) 8 0 + 1, bitsN (w 2) 17 9 + 1⟩
    a := bitsN (w 3) 17 0, counter := bitsN (w 3) 23 18, recv := if fn = .gather then bitsN (w 4) 17 0 else bitsN (w 3) 17 0
    reserved := bitsN (w 1) 31 18 != 0 || bitsN (w 2) 31 18 != 0 || bitsN (w 3) 31 24 != 0
      || (if fn = .join then bitsN (w 0) 31 30 != 0 || bitsN (w 0) 23 18 != 0 else bitsN (w 0) 23 0 != 0)
      || (fn == .gather && (bitsN (w 4) 31 18 != 0 || w 5 != 0 || w 6 != 0 || w 7 != 0)) }

/-- Cores two rectangles share. -/
def overlapArea (a b : Rect) : Nat :=
  (min (a.x0 + a.w) (b.x0 + b.w) - max a.x0 b.x0) * (min (a.y0 + a.h) (b.y0 + b.h) - max a.y0 b.y0)
/-- A rectangle lies in the partition and is covered by the launch's role rectangles, which are disjoint (R392). -/
def rectOpen (s : State) (r : Rect) : Bool :=
  r.inside s.here.role.partRect && decide ((s.here.role.launchRects.foldl (fun n q => n + overlapArea r q) 0) = r.w * r.h)

def srcLen (fmt p : Nat) : Nat := if fmt = 0 then tileLen p else if fmt = 1 then 1664 else 1024
def srcReach (fmt p : Nat) : Nat := if fmt = 0 then tileReach p else srcLen fmt p
def srcAlign (fmt : Nat) : Nat := if fmt = 0 then 32 else if fmt = 1 then 8 else 16

/-- The checks of R272 from step 3 on: the cause and EVAL of the first failure. R272 gives step 8 no EVAL and R142 only 'the address
at fault': the model gives the base of the span, its choice (log entry 28). -/
def creamFault (s : State) (i : Instr) (t : Nat) (fn : CreamMode) (d : CreamDesc) : Option (Nat × Nat) :=
  let ro := s.here.role
  let here := s.cur.1
  let sends := fn != .join
  let recvs := fn != .bcast
  let src : Site := BitVec.ofNat 18 d.src
  let n := if fn = .gather then d.rect.w * d.rect.h else 1
  if d.counter = 63 then some (ILLEGAL, (instrWord i).toNat)
  else if ro.counters ≤ d.counter then some (REGRANGE, 0x200 + d.counter)
  else if (s.here.cream t).busy then some (CREAM, d.a)
  else if sends && d.fmt == 3 then some (FORMAT, 3)
  else if d.reserved || decide (d.p < 8 ∨ 32 < d.p) || !rectOpen s d.rect || !d.rect.has here
      || (fn == .join && (!d.rect.has src || src == here)) then some (CREAM, d.a)
  else if sends && d.a % srcAlign d.fmt != 0 then some (ALIGN, d.a)
  else if recvs && d.recv % 32 != 0 then some (ALIGN, d.recv)
  else if sends && !oneRegion ro s.cur.2 .load d.a (srcLen d.fmt d.p) then some (BOUNDS, d.a)
  else if recvs && !inKind ro [.data] d.recv (n * tileLen d.p) then some (BOUNDS, d.recv)
  else none

/-- CBCAST, CJOIN or CGATH: the tag of a new generation, its locks, and for a source a command in the message queue, where
the tile is read (R26, R272 to R276). -/
def creamCommand (i : Instr) (rb : XReg) (t : Nat) (fn : CreamMode) (s : State) : Host.Outcome State Fault Refusal :=
  gate i s fun s =>
    let a := s.me.rx rb
    let n := if fn = .gather then 32 else 16
    record s a n n fun s =>
      let d := creamDesc s.here a.toNat fn
      match creamFault s i t fn d with
      | some (code, val) => s.trap code (BitVec.ofNat 32 val)
      | none =>
        let c := s.here
        let here := s.cur.1
        let id := c.nextCmd
        let sends := fn != .join
        let tiles := if fn = .gather then d.rect.w * d.rect.h else if fn = .join then 1 else 0
        let recv := if tiles = 0 then [] else lockOf id d.recv ((tiles - 1) * tileLen d.p + tileReach d.p) true
        let locks := recv ++ if sends then lockOf (id + 1) d.a (srcReach d.fmt d.p) false else []
        if (sends && decide (8 ≤ c.msg.queue.length)) || !lockRoom c locks then s
        else
          let srcs : List Site := if fn = .gather then d.rect.sites else if fn = .join then [BitVec.ofNat 18 d.src] else [here]
          let tag : CreamTag :=
            { mode := fn, gen := (c.cream t).gen + 1, busy := true, p := d.p, rect := d.rect
              src := if fn = .join then BitVec.ofNat 18 d.src else here, counter := d.counter
              ctx := s.cur.2, serial := s.me.serial, srcCmd := id + 1, recvCmd := id
              tiles := (List.range tiles).map fun k =>
                { base := d.recv + k * tileLen d.p, count := 0, final := false, fail := false, cut := false }
              trains := srcs.map fun q => newTrain d.rect q here, toLand := [] }
          let cmd : MsgCmd :=
            { id := id, ctx := s.cur.2, serial := s.me.serial
              hdr := #v[BitVec.ofNat 32 (13 * 2 ^ 24), 0, BitVec.ofNat 32 t, BitVec.ofNat 32 d.fmt, 0, 0, 0, 0]
              src := d.a, seq := c.msg.nextSeq, rel := false, early := [] }
          let s := s.onHere fun c =>
            { c.lock locks with
              msg := { c.msg with queue := c.msg.queue ++ if sends then [cmd] else [] }
              nextCmd := id + 2 }
          (s.onCream here t fun _ => tag).advance i

/-- CBCAST (R273). -/
def execCbcast (rb : XReg) (esel : BitVec 8) (s : State) : Host.Outcome State Fault Refusal :=
  creamCommand (.cbcast rb esel) rb esel.toNat .bcast s
/-- CJOIN (R275). -/
def execCjoin (rb : XReg) (esel : BitVec 8) (s : State) : Host.Outcome State Fault Refusal :=
  creamCommand (.cjoin rb esel) rb esel.toNat .join s
/-- CGATH (R274). -/
def execCgath (rb : XReg) (esel : BitVec 8) (s : State) : Host.Outcome State Fault Refusal :=
  creamCommand (.cgath rb esel) rb esel.toNat .gather s

/-- The word CPREC writes (R278). -/
def creamWord (g : CreamTag) (n : Nat) : Word :=
  let bit (v : Bool) (n : Nat) : Nat := if v then 2 ^ n else 0
  match (if g.joined then g.tiles[n]? else none) with
  | none => 0
  | some w => BitVec.ofNat 32 (g.gen.toNat * 2 ^ 24 + bit w.fail 23 + bit w.final 22 + bit w.cut 21 + 2 ^ 20 + g.p * 2 ^ 14
      + w.count)

/-- CPREC (R278). -/
def execCprec (rd rb : XReg) (esel : BitVec 8) (s : State) : Host.Outcome State Fault Refusal :=
  let i := Instr.cprec rd rb esel
  gate i s fun s => s.result i rd (creamWord (s.here.cream esel.toNat) (s.me.rx rb).toNat)

/-- Lane i of block b of a tile with k planes read (R52, R279). -/
def skimLane (c : Core) (base p b k : Nat) (centred : Bool) (i : Nat) : Option Dy :=
  let ep := c.nat (base + 2 * b) 2
  let bit (a : Nat) : Bool := bitN (c.nat (a + 2 * b) 2) i
  let mag := (List.range k).foldl (fun m j => m + if bit (base + 96 + 32 * j) then 2 ^ (p - 1 - j) else 0) 0
  let line (a : Nat) : Bool := (badWord c (a + 2 * b) 2).isSome
  let bad := line base || line (base + 64) || (List.range k).any fun j => line (base + 96 + 32 * j)
  if bad || decide (4095 < ep) then none else some (planePrefix p ep (bit (base + 64)) mag k centred)

/-- CSKIM (R279): it waits for the vector instructions its context has queued. An error in what it reads reads as NaR and is
reported (R146). -/
def execCskim (vd : VReg) (rd rb : XReg) (tag : Fin 4) (s : State) : Host.Outcome State Fault Refusal :=
  let i := Instr.cskim vd rd rb tag
  gate i s fun s =>
    let g := s.here.cream tag.val
    let v := (s.me.rx rb).toNat
    let n := bitsN v 9 0
    let kr := bitsN v 30 25
    let b := bitsN v 24 21
    match (if g.joined && bitsN v 20 10 == 0 && !(decide (g.p < kr) && kr != 63) then g.tiles[n]? else none) with
    | none => s.trap CREAM (BitVec.ofNat 32 (g.tileAddr n))
    | some w =>
      if vecPending s.here s.cur.2 then s
      else if w.count = 0 then (s.onMe fun x => x.wv vd Token.zero).result i rd 0xFFFFFFFF
      else
        let k := min kr (w.count - 1)
        let reads := w.base :: (List.range (k + 1)).map fun j => w.base + 64 + 32 * j
        if reads.any fun a => absent s.here (a + 2 * b) 2 then s
        else
          let lanes := Vector.ofFn fun (m : Fin 16) => rneF32 (skimLane s.here w.base g.p b k (bitN v 31) m.val)
          let t := s.commit s.cur.1 (reads.foldl (fun (w : TWork) a => w.read s.cur.2 s.me.serial (a + 2 * b) 2)
            ⟨s.here, [], qzero, false⟩)
          let t := reads.foldl (fun (t : State) a => t.scrub s.cur.1 (a + 2 * b) 2) t
          (t.onMe fun x => x.wv vd { lanes := lanes, valid := 0xFFFF }).result i rd (BitVec.ofNat 32 k)

/-- CCUT (R280). -/
def execCcut (rb : XReg) (esel : BitVec 8) (s : State) : Host.Outcome State Fault Refusal :=
  let i := Instr.ccut rb esel
  gate i s fun s =>
    let t := esel.toNat
    let g := s.here.cream t
    let n := (s.me.rx rb).toNat
    match (if g.joined then g.tiles[n]? else none) with
    | none => s.trap CREAM (BitVec.ofNat 32 (g.tileAddr n))
    | some w =>
      let src : Site := if g.mode = .gather then Site.mk (g.rect.x0 + n % g.rect.w) (g.rect.y0 + n / g.rect.w) else g.src
      let u := s.onCream s.cur.1 t fun g => g.onTile n fun w => { w with cut := true }
      (if w.final || w.cut then u else tryCutUp u s.cur.1 t src).advance i

/-! ## The source (R273, R274) -/

/-- A command of cream tag t waits in the message queue. -/
def creamQueued (c : Core) (t : Nat) : Bool := c.msg.queue.any fun m => hdrKind m.hdr == 13 && hdrTag m.hdr == t

/-- The blocks of a source tile: Ep with the signs and magnitudes; a block an error touches is invalid (R273). A
Phocy-A block with STAMPED set is sent as it stands, not decayed: the model's choice (log entry 28). -/
def sourceBlock (c : Core) (fmt p a b : Nat) : Nat × List (Bool × Nat) :=
  let err (x n : Nat) : Bool := (badWord c x n).isSome
  if fmt = 0 then
    let part := a :: (List.range (p + 1)).map fun j => a + 64 + 32 * j
    if part.any fun x => err (x + 2 * b) 2 then (0xFFFF, List.replicate 16 (false, 0))
    else
      let bit (x i : Nat) : Bool := bitN (c.nat (x + 2 * b) 2) i
      (c.nat (a + 2 * b) 2, (List.range 16).map fun i => (bit (a + 64) i,
        (List.range p).foldl (fun m j => m + if bit (a + 96 + 32 * j) i then 2 ^ (p - 1 - j) else 0) 0))
  else if fmt = 1 then
    let x := a + 104 * b
    if err x 104 then (0xFFFF, List.replicate 16 (false, 0))
    else
      let k := accOfNat (c.nat x 104)
      toPlane p (k.lanes.map (laneVal k))
  else
    let x := a + 64 * b
    if err x 64 then (0xFFFF, List.replicate 16 (false, 0))
    else toPlane p ((List.range 16).map fun i => fexact (c.word (x + 4 * i)))

/-- The 32 bytes of a plane: bit 16b + i for block b, lane i (R50). -/
def planeBytes (blks : List (Nat × List (Bool × Nat))) (f : Bool × Nat → Bool) : List Byte :=
  (blks.map fun (_, l) => bytesOfNat 2 ((l.mapIdx fun i v => if f v then 2 ^ i else 0).foldl (· + ·) 0)).flatten

/-- The beats of a train in order (R268). -/
def trainBeats (g : CreamTag) (t : Nat) (src : Site) (blks : List (Nat × List (Bool × Nat))) : List CreamBeat :=
  let exps := (blks.map fun (e, _) => bytesOfNat 2 e).flatten ++ List.replicate 32 0
  [creamBeat g t src .opn [], creamBeat g t src .exponents exps,
    creamBeat g t src (.plane 1) (planeBytes blks Prod.fst)]
    ++ (List.range g.p).map (fun j =>
      creamBeat g t src (.plane (j + 2)) (planeBytes blks fun v => bitN v.2 (g.p - 1 - j)))
    ++ [creamBeat g t src (.fin (g.p + 1)) []]

/-- A CBCAST or CGATH at the head of its context's commands reads its tile (R273). -/
def creamPerform (s : State) (p : Site) (m : MsgCmd) : State :=
  let t := hdrTag m.hdr
  let fmt := (vget m.hdr 3).toNat
  let g := (s.core p).cream t
  let n := srcReach fmt g.p
  let blks := (List.range 16).map (sourceBlock (s.core p) fmt g.p m.src)
  let s := s.commit p ((⟨s.core p, [], qzero, false⟩ : TWork).read m.ctx m.serial m.src n)
  s.onCream p t fun g => g.onTrain p fun r => { r with toSend := trainBeats g t p blks }

/-- The next beat of the train of core p for tag t leaves on every branch not cut, and under CGATH lands in the core's own
tile (R270, R274). -/
def creamSend (s : State) (p : Site) (t : Nat) (isKind : BeatKind → Bool) : State :=
  let c := s.core p
  let g := c.cream t
  match g.train p with
  | none => s
  | some r =>
    match r.toSend with
    | [] => s
    | b :: rest =>
      if !isKind b.kind || c.halted || !c.live || (g.mode == .gather && !beatFree c g b) then s
      else
        let s := s.onCream p t fun g => g.onTrain p fun r => { r with toSend := rest }
        let s := creamForwardAll s p t p b
        if g.mode = .gather then creamTake s p b else s

/-- A beat that waits for an absent page has its effect once that is there; with none, the next beat of the train leaves. -/
def creamNext (s : State) (p : Site) (t : Nat) (isKind : BeatKind → Bool) : State :=
  let c := s.core p
  let g := c.cream t
  match g.toLand with
  | b :: rest =>
    if isKind b.kind && c.live && beatPresent c g b then creamEffect (s.onCream p t fun g => { g with toLand := rest }) p b
    else creamSend s p t isKind
  | [] => creamSend s p t isKind

/-! ## Arrivals (R270, R280, R283) -/

/-- A header of a train the node has joined acts by `f`; a stale one is discarded, and any other is recorded (R283).
A header of another P or rectangle than the node's is no mismatch: the model's choice (log entry 28). -/
def creamArrives (s : State) (p q : Site) (b : CreamBeat) (f : CreamTag → Dir → State) (bad : State → State) : State :=
  let g := (s.core p).cream b.tag
  if b.gen + 1 == g.gen then bad s
  else match (if b.gen = g.gen ∧ g.mode ≠ .idle then g.train b.src else none), fromDir s p q with
    | some r, some d =>
      if (if b.kind = .cut then (r.branch d).isSome else treeParent b.src p == some d && g.joined) then f g d
      else bad (s.note (.creamMismatch p b.tag))
    | _, _ => bad (s.note (.creamMismatch p b.tag))

/-- A beat of a train that is received: forwarded to every branch, then landed; a lock of an earlier command holds it (R270,
R276). -/
def creamDown (s t : State) (p : Site) (b : CreamBeat) : State :=
  let g := (t.core p).cream b.tag
  if g.gen ≠ b.gen ∨ (g.tiles[g.tileOf b.src]?).any (fun w => w.final || w.fail) then t
  else if !beatFree (t.core p) g b then s
  else creamTake (creamForwardAll t p b.tag b.src b) p b

/-- A train's number on the link to the neighbour it comes from is open to it, with its OPEN or none, or free again. -/
def State.openTrain (s : State) (p q : Site) (n : Nat) (o : Option (Option CreamBeat)) : State :=
  match fromDir s p q with
  | none => s
  | some d => s.onTrainLink p d fun l =>
    let rest := l.inn.filter fun e => e.1 != n
    { l with inn := match o with | none => rest | some b => rest ++ [(n, b)] }
/-- The train of a number on that link: none if it is not open, none inside if its OPEN was discarded. -/
def State.trainOf (s : State) (p q : Site) (n : Nat) : Option (Option CreamBeat) :=
  (fromDir s p q).bind fun d => (((s.core p).trainLink d).inn.find? fun e => e.1 == n).map (·.2)

/-- A downward packet lands: an OPEN opens its train or is discarded with it; a data beat or an END of an open train goes on,
and the END closes it; an END with no OPEN is judged alone (R268, R283). -/
def creamPacket (s t : State) (p : Packet) : State :=
  let q := p.dst
  match p.body with
  | .creamHeader h n =>
    let b := beatOfHdr h
    match b.kind, t.trainOf q p.src n with
    | .opn, _ =>
      creamArrives t q p.src b (fun _ _ => creamDown s (t.openTrain q p.src n (some (some b))) q b) fun t =>
        t.openTrain q p.src n (some none)
    | .fin _, some (some _) => creamDown s (t.openTrain q p.src n none) q b
    | .fin _, some none => t.openTrain q p.src n none
    | .fin _, none => creamArrives t q p.src b (fun _ _ => creamDown s t q b) id
    | _, _ => t
  | .trainBeat n idx data =>
    match t.trainOf q p.src n with
    | some (some b) => creamDown s t q { b with kind := if idx = 0 then .exponents else .plane idx, data := data }
    | _ => t
  | _ => s

/-- The kind of the beat a packet carries, if it is one of a train's. -/
def Packet.beatKind (p : Packet) : Option BeatKind :=
  match p.body with
  | .creamHeader h _ => some (beatOfHdr h).kind
  | .trainBeat _ idx _ => some (if idx = 0 then .exponents else .plane idx)
  | _ => none

/-- A row of the downward beats: packet `num`, or past the mesh's packets the next landing or beat of tag ctx mod 4 at the site
in `cur`. -/
def creamRow (isKind : BeatKind → Bool) (s : State) : Host.Outcome State Fault Refusal :=
  if s.num < s.mesh.length then
    onLanding s fun p t => if p.beatKind.any isKind then creamPacket s t p else s
  else .next (creamNext s s.cur.1 (s.cur.2.val % 4) isKind)

/-- OPEN (R268). -/
def execOpenLands (s : State) : Host.Outcome State Fault Refusal := creamRow (· == .opn) s
/-- TRAIN_DATA_BEAT (R270, R276). -/
def execTrainDataBeat (s : State) : Host.Outcome State Fault Refusal :=
  creamRow (fun k => match k with | .exponents => true | .plane _ => true | _ => false) s
/-- END (R280, R281). -/
def execEndLands (s : State) : Host.Outcome State Fault Refusal :=
  creamRow (fun k => match k with | .fin _ => true | _ => false) s

/-- The branch in a direction is cut: an END goes to it if it was open, what waits for it goes, and the cut may pass up
(R280). -/
def creamCut (s : State) (p : Site) (t : Nat) (src : Site) (d : Dir) (send : Bool) : State :=
  let g := (s.core p).cream t
  match (g.train src).bind fun r => r.branch d with
  | none => s
  | some r =>
    let s := if r.cut || r.ended then s
      else
        let b := creamBeat g t src (.fin r.sent) []
        let s := s.onTrainLink p d fun l => { l with wait := l.wait.filter fun w => w.key != b.key }
        let s := s.onBranch p t src d fun r => { r with cut := true, ended := true }
        if send then creamFlush 64 (creamOut s p d b) p d else s
    tryCutUp s p t src

/-- CUT (R280). -/
def execCutLands (s : State) : Host.Outcome State Fault Refusal :=
  onLanding s fun p t =>
    match p.body with
    | .creamHeader h _ =>
      let b := beatOfHdr h
      if b.kind = .cut then creamArrives t p.dst p.src b (fun _ d => creamCut t p.dst b.tag b.src d true) id else s
    | _ => s

/-- A branch of a train is done: its END has left. -/
def branchDone (c : Core) (g : CreamTag) (t : Nat) (src : Site) (r : Branch) : Bool :=
  r.ended && !(c.trainLink r.dir).waits (creamBeat g t src .opn [])

/-- TRAIN_DONE: the train of tag `num` at the core in `cur` has ended on every branch: the source lock goes, a broadcast
adds 1 to its counter and is idle (R273, R281). -/
def execTrainDone (s : State) : Host.Outcome State Fault Refusal :=
  let p := s.cur.1
  let t := s.num
  let g := s.here.cream t
  .next (match g.train p with
    | none => s
    | some r =>
      if 4 ≤ t ∨ g.busy = false ∨ g.mode = .join ∨ r.ended ∨ creamQueued s.here t ∨ !r.branches.all (branchDone s.here g t p)
        ∨ ¬ (g.mode = .bcast ∨ r.toSend.isEmpty) then s
      else
        let s := s.onCream p t fun g => g.onTrain p fun r => { r with ended := true, toSend := [] }
        let s := s.onCore p fun c => c.unlock g.srcCmd
        if g.mode = .bcast then (s.addCounter p g.counter 1).onCream p t fun g => { g with busy := false }
        else creamSettle s p t)

/-! ## A lost link (R283) -/

/-- What the loss of the link from p in direction d does to the trains that ran from p to q. A tag that loses several tiles raises
one CREAM, whose EVAL is the first of them: the model's choice (log entry 28). -/
def linkLostOne (s : State) (p q : Site) (d : Dir) : State :=
  let s := s.onTrainLink p d fun l => { l with out := [], wait := [] }
  let s := match fromDir s q p with
    | none => s
    | some e => s.onTrainLink q e fun l => { l with inn := [] }
  (List.range 4).foldl (fun s t =>
    let s := (((s.core p).cream t).trains).foldl (fun s r => creamCut s p t r.src d false) s
    let g := (s.core q).cream t
    let lost := g.trains.filter fun r =>
      g.busy && g.joined && decide (r.src ≠ q) && (treeParent r.src q).any (fun e => neighbour s q e == some p)
        && (g.tiles[g.tileOf r.src]?).any fun w => !w.final && !w.fail
    match lost with
    | [] => s
    | r :: _ =>
      let fail (g : CreamTag) : CreamTag := lost.foldl (fun g r => g.onTile (g.tileOf r.src) fun w => { w with fail := true }) g
      let s := s.onCream q t fail
      let s := s.onCore q fun c =>
        let c := (c.breakCounter g.counter).unlock g.recvCmd
        if g.mode = .gather then c.unlock g.srcCmd else c
      s.asyncFault q g.ctx g.serial
        { code := CREAM, sub := 0, aux := 0, val := BitVec.ofNat 32 (g.tileAddr (g.tileOf r.src)) }) s

def oppositeDir : Dir → Dir
  | .east => .west | .west => .east | .north => .south | .south => .north

/-- MESH_LINK_LOSS: the link of the core in `cur` in a direction is lost, for the trains of both its ways (R283). -/
def execMeshLinkLoss (dir : Dir) (s : State) : Host.Outcome State Fault Refusal :=
  .next (match neighbour s s.cur.1 dir with
    | none => s
    | some q => linkLostOne (linkLostOne s s.cur.1 q dir) q s.cur.1 (oppositeDir dir))

end Sys2Proof.Machine
end

