-- ==== Sys2Proof/Machine/MessageNet.lean ====
section
/-!
DEFINITION. The injection of messages, messages at their receiver and replies at the requester (R245 to R256): the rows
INJECTION, REQUEST_ARRIVAL, SEND, PUT, GET, AMO, ACK, GETR, AMOR and NACK, at the core in `cur`; a packet is number `num` of the mesh.
-/
namespace Sys2Proof.Machine
open Sys2Proof

/-! ## Injection (R255) -/

/-- What a release of a context issued with message number `seq` waits for: its earlier messages, and the counter
operations it issued before, those of its earlier tasks too (R181, R255); at a scope that takes in edge memory, its earlier
streams' reads of it too (R209). -/
def releaseBefore (c : Core) (k : CtxNo) (seq : Nat) (wide : Bool) : Bool :=
  c.msg.out.all (fun m => !(m.ctx == k && m.slot.isNone && decide (m.seq < seq)))
    && c.sync.queue.all (fun o => !(o.ctx == k && decide (o.after ≤ seq))) && !(wide && edgeReading c k seq)

/-- Bytes from a with those of lines read ahead in their place (R198). -/
def overlay (early : List (Nat × List Byte)) (a : Nat) (bs : List Byte) : List Byte :=
  bs.mapIdx fun i b =>
    match early.find? fun l => l.1 == (a + i) / 16 with
    | none => b
    | some l => l.2.getD ((a + i) % 16) b

/-- The bytes of its core a message command reads. -/
def cmdSpan (c : Core) (m : MsgCmd) : Nat :=
  let k := hdrKind m.hdr
  if k = kSEND ∨ k = kPUT then hdrLen m.hdr
  else if k = 8 then ((c.sum (hdrTag m.hdr)).cfg.elim 0 fun g => 104 * g.nblk)
  else if k = 13 then srcReach (vget m.hdr 3).toNat (c.cream (hdrTag m.hdr)).p
  else 0

/-- The root of a fabric sum may write each of its blocks. -/
def sumReady (c : Core) (m : MsgCmd) : Bool :=
  hdrKind m.hdr != 8 || ((c.sum (hdrTag m.hdr)).cfg.all fun g => (List.range g.nblk).all (sumResultReady c g))

/-- INJECTION of message command `num` of the core in `cur`: in the order of its context, a REL message once its release is
satisfied, and any payload once no earlier command writes it (R194, R243, R253, R255). Messages to other modules are
listed in the order of their injection, in which their replies come (R380). An FSUM contributes and a train of
CBCAST or CGATH begins in the same way. -/
def injectStep (s : State) : State :=
  let p := s.cur.1
  let c := s.here
  if !c.live || c.halted then s
  else match takeAt c.msg.queue s.num with
    | none => s
    | some (m, rest) =>
      let kind := hdrKind m.hdr
      let len := cmdSpan c m
      if (c.msg.queue.take s.num).any fun n => n.ctx == m.ctx then s
      else if m.rel && !releaseBefore c m.ctx m.seq (decide (3 ≤ hdrScope m.hdr)) then s
      else if held c m.id m.src len false || absent c m.src len || !sumReady c m then s
      else
        let pop (s : State) : State := s.onCore p fun c => { c with msg := { c.msg with
          queue := rest
          out := if hdrDmod m.hdr = 0 then c.msg.out
            else (c.msg.out.filter fun o => o.rid != m.seq) ++ c.msg.out.filter fun o => o.rid == m.seq } }
        if kind = 8 then sumPerform (pop s) p m
        else if kind = 13 then creamPerform (pop s) p m
        else
          let t := s.commit p ((⟨c, [], qzero, false⟩ : TWork).read m.ctx m.serial m.src len)
          let t := (pop t).onCore p fun c => if kind = kSEND ∨ kind = kPUT then c.unlock m.id else c
          let payload := overlay m.early m.src (c.bytes m.src len)
          (t.sendMsg p m.hdr payload m.ctx.val (some m.seq)
            (.req { hdr := m.hdr, payload := payload, rid := m.seq, launch := some c.role.launch })).getD s

/-- INJECTION (R255). -/
def execInjection (s : State) : Host.Outcome State Fault Refusal := .next (injectStep s)

/-! ## Arrival -/

/-- REQUEST_ARRIVAL: a request lands at the end of the queue of its core, while that holds fewer than 16 (R245). -/
def execRequestArrival (s : State) : Host.Outcome State Fault Refusal :=
  onLanding s fun p t =>
    match p.body with
    | .req r =>
      if 16 ≤ (t.core p.dst).msg.requests.length then s
      else t.onCore p.dst fun c => { c with msg := { c.msg with requests := c.msg.requests ++ [r] }, progress := true }
    | _ => s

/-! ## Refusals (R250, R392, R401) -/

/-- The regions that take a landing, and those a remote read may reach (R246). -/
def landKinds : List RegionKind := [.data, .ring]
def readKinds : List RegionKind := [.code, .data, .ring]

/-- The reason a receiver refuses for, by the numbers of R401; a core whose launch is cancelled refuses everything (R416).
Where two rows of R250 hold, the last two come first and the others go in the order of the numbers but for 4, which comes
before 3. The bytes lie in one permitted region; two that follow one another do not do: both are the model's choice (log
entry 26). -/
def refusalOf (s : State) (p : Site) (r : Request) : Option Nat :=
  let c := s.core p
  let h := r.hdr
  let kind := hdrKind h
  let a := hdrLaddr h
  let len := hdrLen h
  let open_ := c.live && !(s.station.launches.any fun l => l.id == c.role.launch && l.cancelled.isSome)
  let placed := match r.launch with
    | none => open_
    | some l => open_ && c.role.launch == l
  let inAny := s.station.partitions.any fun q => Rect.has ⟨64 * q.fx, 64 * q.fy, 64 * q.fw, 64 * q.fh⟩ p
  let badCounter := hdrCa h && decide (c.role.counters ≤ hdrCnum h)
  let here (n : Nat) : Bool := !absent c a n
  if r.launch.isNone && !inAny then some 6
  else if !placed then some 7
  else if kind = kSEND then
    match vget c.msg.tags (hdrTag h) with
    | none => some 1
    | some g => if g.size < len then some 2 else if badCounter then some 3 else none
  else if kind = kPUT then
    if len ≠ 0 ∧ !inKind c.role landKinds a len then some 4
    else if badCounter then some 3
    else if here len && (badPart c a len).isSome then some 5
    else none
  else if kind = kGET then
    if len ≠ 0 ∧ !inKind c.role readKinds a len then some 4
    else if here len && (badWord c a len).isSome then some 5
    else none
  else if a % 4 ≠ 0 ∨ !inKind c.role landKinds a 4 then some 4
  else if here 4 && (badWord c a 4).isSome then some 5
  else none

/-- The word an uncorrectable error refuses a request for. -/
def refusedWord (c : Core) (h : Hdr) : Nat :=
  ((if hdrKind h = kPUT then badPart c (hdrLaddr h) (hdrLen h)
    else badWord c (hdrLaddr h) (if hdrKind h = kGET then hdrLen h else 4))).getD 0

/-- The reply to a request (R238): the names of sender and receiver change places, and what the requester needs for its
landing and its counter returns. An ACK and a NACK carry w6 of the request, CNUM and INC too, beside CA 0: the model's choice
(log entry 25). -/
def replyHdr (p : Site) (q : Hdr) (kind len : Nat) (old : Word) : Hdr :=
  let ca := hdrCa q && (hdrKind q == kGET || hdrKind q == kAMO)
  #v[BitVec.ofNat 32 ((if ca then 2 ^ 31 else 0) + 2 ^ 28 + kind * 2 ^ 24 + hdrBits q 1 23 0),
    BitVec.ofNat 32 (hdrScope q * 2 ^ 27 + (hdrCtx q).val * 2 ^ 24 + p.toNat),
    BitVec.ofNat 32 (len * 2 ^ 12),
    vget q 3, 0, old, vget q 6, 0]

/-- Sends the reply; none while it cannot be sent. -/
def State.reply (s : State) (p : Site) (r : Request) (kind : Nat) (payload : List Byte) (old : Word) : Option State :=
  let h := replyHdr p r.hdr kind payload.length old
  s.sendMsg p h payload 0 none (.rep h payload (some r.rid))

/-- The head of the queue at a core leaves it. -/
def State.popRequest (s : State) (p : Site) : State :=
  s.onCore p fun c => { c with msg := { c.msg with requests := c.msg.requests.drop 1, landing := none, gathered := [] }, progress := true }

/-- The record of a refusal (R401). -/
def refusalRecord (p : Word) (h : Hdr) (launch : Word) (reason : Nat) : Vector Word 16 :=
  let w (n : Nat) : Word := vget h n
  #v[5, p, w 1, launch, w 0, w 2, w 4, w 6, BitVec.ofNat 32 reason, 0, 0, 0, 0, 0, 0, 0]

/-- A launch of this module hears of a refusal, unless it was cancelled (R388, R401). -/
def State.refusalFor (s : State) (launch : Nat) (p : Word) (h : Hdr) (reason : Nat) : State :=
  if s.station.launches.any fun n => n.id == launch && n.cancelled.isSome then s
  else s.addRecord launch (refusalRecord p h (BitVec.ofNat 32 launch) reason)

/-- The record of a refusal at core p, for the sender's launch. For a sender of another module it goes to that module, whose
number the launch has there being free (log entry 26). -/
def State.deliveryRecord (s : State) (p : Site) (r : Request) (reason : Nat) : State :=
  match r.launch with
  | some l => s.refusalFor l (siteWord p) r.hdr reason
  | none =>
    let home := (s.sysNum + hdrSmod r.hdr) % 64
    let record := refusalRecord (siteWord p) r.hdr (Config.foreignLaunch s.freeCount) reason
    { s with station := { s.station with foreign := s.station.foreign ++ [(home, record)] }, freeCount := s.freeCount + 1 }

/-- A refusal (R250): the NACK and the record; the receiver's counter breaks for a SEND or PUT that names a declared one,
unless the reason is 6 or 7; an uncorrectable error is counted and reaches the issuing context. -/
def refuse (s : State) (p : Site) (r : Request) (reason : Nat) : Option State :=
  let c := s.core p
  let h := r.hdr
  (s.reply p r kNACK [] 0).map fun s =>
    let s := (s.popRequest p).deliveryRecord p r reason
    let s := if (hdrKind h = kSEND ∨ hdrKind h = kPUT) ∧ hdrCa h ∧ hdrCnum h < c.role.counters ∧ reason < 6 then
        s.onCore p fun c => c.breakCounter (hdrCnum h)
      else s
    if reason = 5 then
      let s := s.countError p
      match r.launch, (s.core (hdrSrc h)).msg.out.find? fun m => m.rid == r.rid with
      | some _, some m => s.asyncFault (hdrSrc h) m.ctx m.serial
          { code := MCHK, sub := 0, aux := 0, val := BitVec.ofNat 32 (refusedWord c h) }
      | _, _ => s
    else s

/-- Serves the head of the queue of the core in `cur` if it is of a kind: `ready` says whether it may be performed now,
`perform` does so. One that has begun is refused when its core's launch is cancelled, the lines it has written kept, and a GET for
an error too: R250 and R416 do not say what becomes of it; the model's choice (log entry 26). -/
def serve (kind : Nat) (ready : State → Site → Request → Bool) (perform : State → Site → Request → Option State)
    (s : State) : Host.Outcome State Fault Refusal :=
  let p := s.cur.1
  .next (
    match s.here.msg.requests with
    | [] => s
    | r :: _ =>
      if hdrKind r.hdr ≠ kind then s
      else
        let begun := s.here.msg.landing.isSome
        match (refusalOf s p r).filter fun n => !begun || decide (6 ≤ n) || kind == kGET with
        | some n => (refuse s p r n).getD s
        | none => if ready s p r then (perform s p r).getD s else s)

/-! ## Landings -/

/-- The message whose landing is to have its effects: where it goes, and how many of its bytes are written. -/
def landingAt (c : Core) (a : Nat) : Nat × Nat := c.msg.landing.getD (a, 0)

/-- A landing of n bytes at a meets no entry of the lock table and no absent page (R251, R398). -/
def landReady (c : Core) (a n : Nat) (write : Bool) : Bool := (lockFault c a n write).isNone && !absent c a n

/-! ## SEND (R60, R245) -/

/-- The dormant handler context a SEND starts, its accesses all performed (R132): the lowest-numbered, which is the model's
choice, for R60 and R245 name none (log entry 25). -/
def freeHandler (c : Core) : Option CtxNo :=
  (List.finRange 8).find? fun k => decide (k.val < c.role.nctx) && (c.ctx k).kind == .handler && (c.ctx k).status == .dormant
    && accessesDone c k
/-- The lowest-numbered free slot of a tag entry. -/
def freeSlot (g : TagEntry) : Option Nat := (List.range g.count).find? fun n => !g.busy.contains n

/-- The handler, the tag entry, the slot and its address for a SEND, once all are there. -/
def sendPlace (c : Core) (r : Request) : Option (CtxNo × TagEntry × Nat × Nat) :=
  match freeHandler c, vget c.msg.tags (hdrTag r.hdr) with
  | some k, some g =>
    let slot := match c.msg.landing with
      | some (b, _) => some ((b - g.base) / max g.size 1)
      | none => freeSlot g
    slot.map fun n => (k, g, n, g.base + n * g.size)
  | _, _ => none

/-- The counter add of a request, if its header carries one (R183). -/
def State.addOf (s : State) (p : Site) (h : Hdr) : State :=
  if hdrCa h then s.addCounter p (hdrCnum h) (hdrInc h) else s

/-- The narrowest scope about its receiver p that takes in the sender of a request (R126). -/
def Request.scopeAt (r : Request) (p : Site) : Scope := if r.launch.isNone then .system else reach p (hdrSrc r.hdr)

/-- A party hears of the errors of words a landing covers in part: each is counted, and reaches the context that sent the
request, if it is of this module (R143, R146). -/
def State.landErrors (s : State) (p : Site) (r : Request) (words : List Nat) : State :=
  let q := hdrSrc r.hdr
  words.foldl (fun s w =>
    let s := s.countError p
    match r.launch, (s.core q).msg.out.find? fun m => m.rid == r.rid with
    | some _, some m => s.asyncFault q m.ctx m.serial { code := MCHK, sub := 0, aux := 0, val := BitVec.ofNat 32 w }
    | _, _ => s) s

/-- Writes the landing of a request, leaving alone a word with an error that it covers in part (R146). -/
def State.land (s : State) (p : Site) (r : Request) (a : Nat) (bs : List Byte) : State :=
  let s := s.scrub p a bs.length
  let c := s.core p
  let w : TWork := (⟨c, [], qzero, false⟩ : TWork).write 0 0 a bs
  let aged : Core := { w.c with scratch := { w.c.scratch with ahead := (c.scratch.age a bs.length (r.scopeAt p)).ahead } }
  (s.setCore p aged).landErrors p r (w.faults.map fun f => f.2.2)

/-- The landing of the oldest request of core p at an address goes on; `done` follows once all its bytes are written. -/
def landGo (s : State) (p : Site) (r : Request) (a : Nat) (done : State → Option State) : Option State :=
  let (b, n) := landingAt (s.core p) a
  let bs := r.payload.drop n
  match s.pieceOf (b + n) bs.length with
  | some m => some ((s.land p r (b + n) (bs.take m)).onCore p fun c => { c with
      msg := { c.msg with landing := some (b, n + m) } })
  | none => done (s.land p r (b + n) bs)
/-- What is left of the landing of the oldest request of core p at an address meets no lock and no absent page. -/
def landGoes (s : State) (p : Site) (r : Request) (a : Nat) : Bool :=
  let (b, n) := landingAt (s.core p) a
  landReady (s.core p) (b + n) (r.payload.length - n) true

def performSend (s : State) (p : Site) (r : Request) : Option State :=
  match sendPlace (s.core p) r with
  | none => none
  | some (k, g, n, a) =>
   landGo s p r a fun s =>
    (s.reply p r kACK [] 0).map fun s =>
      let h := r.hdr
      let s := (s.popRequest p).addOf p h
      let tag (c : Core) : Core :=
        { c with msg := { c.msg with tags := vset c.msg.tags (hdrTag h) (some { g with busy := n :: g.busy }) } }
      let s := (s.onCore p tag).start p k g.handler (hdrSrcWord h) (BitVec.ofNat 32 a) (BitVec.ofNat 32 (hdrLen h)) (vget h 5)
      s.onCore p fun c => c.onCtx k fun x => { x with hdr := h, slot := some (hdrTag h, n) }

/-- SEND: at the head of the queue it waits for a dormant handler, a free slot and its lines; then the payload is written,
the counter added to and the handler started, and an ACK returns; or it is refused (R245, R250, R251). -/
def execSendServed (s : State) : Host.Outcome State Fault Refusal :=
  serve kSEND (fun s p r => match sendPlace (s.core p) r with
    | none => false
    | some (_, _, _, a) => landGoes s p r a) performSend s

/-- PUT: LEN bytes to LADDR, the counter add, and an ACK; or it is refused (R247, R250). -/
def execPutServed (s : State) : Host.Outcome State Fault Refusal :=
  serve kPUT (fun s p r => landGoes s p r (hdrLaddr r.hdr))
    (fun s p r => landGo s p r (hdrLaddr r.hdr) fun s =>
      (s.reply p r kACK [] 0).map fun s => (s.popRequest p).addOf p r.hdr) s

/-- The oldest request of core p, a GET, reads on, some lines of its bytes or all that are left; then a GETR returns them. -/
def getGo (s : State) (p : Site) (r : Request) : Option State :=
  let c := s.core p
  let (b, n) := landingAt c (hdrLaddr r.hdr)
  let read (m : Nat) : List Byte := c.msg.gathered.take n ++ c.bytes (b + n) m
  let len := hdrLen r.hdr - n
  match s.pieceOf (b + n) len with
  | some m => some ((s.scrub p (b + n) m).onCore p fun c => { c with
      msg := { c.msg with landing := some (b, n + m), gathered := read m } })
  | none => ((s.scrub p (b + n) len).reply p r kGETR (read len) 0).map fun s => s.popRequest p
/-- GET: LEN bytes from LADDR, read line by line, return in a GETR; or it is refused (R119, R248, R250). -/
def execGetServed (s : State) : Host.Outcome State Fault Refusal :=
  serve kGET (fun s p r =>
    let (b, n) := landingAt (s.core p) (hdrLaddr r.hdr)
    landReady (s.core p) (b + n) (hdrLen r.hdr - n) false) getGo s

/-- What an AMO leaves in the word; none where a cas fails (R127, R249). -/
def amoNew (h : Hdr) (old : Word) : Option Word :=
  if hdrTag h = 9 then (if old = vget h 5 then some (vget h 7) else none) else some (amoFn (hdrTag h) old (vget h 5))

/-- AMO: one indivisible read and write of the word at LADDR, whose old value returns in an AMOR; or it is refused
(R249, R250). -/
def execAmoServed (s : State) : Host.Outcome State Fault Refusal :=
  serve kAMO (fun s p r => landReady (s.core p) (hdrLaddr r.hdr) 4 true)
    (fun s p r =>
      let a := hdrLaddr r.hdr
      let old := (s.core p).word a
      ((s.scrub p a 4).reply p r kAMOR [] old).map fun s =>
        let s := s.popRequest p
        match amoNew r.hdr old with
        | none => s
        | some v => s.onCore p fun c =>
          c.putFar a (bytesOfNat 4 v.toNat) (r.scopeAt p)) s

/-! ## Replies at the requester (R248 to R254) -/

/-- What is left of the landing of a reply's data at core p: its address and bytes. -/
def OutMsg.rest (m : OutMsg) (bs : List Byte) : Nat × List Byte := (hdrHaddr m.hdr + m.landed, bs.drop m.landed)
/-- The landing of a reply's data may go on: no earlier command's lock delays it, and its pages are there (R243). -/
def replyGoes (c : Core) (m : OutMsg) (bs : List Byte) : Bool :=
  let (a, rest) := m.rest bs
  !held c m.id a rest.length true && !absent c a rest.length
/-- Writes data of the reply to a message at core p. -/
def State.landData (s : State) (p : Site) (m : OutMsg) (a : Nat) (bs : List Byte) : State :=
  s.commit p ((⟨s.core p, [], qzero, false⟩ : TWork).write m.ctx m.serial a bs)
/-- A reply writes some of its lines and goes on landing later (R119). -/
def replyPiece (s : State) (p : Site) (m : OutMsg) (kind : Nat) (payload : List Byte) : Option State :=
  let (a, rest) := m.rest payload
  if kind ≠ kGETR ∨ !replyGoes (s.core p) m payload then none
  else (s.pieceOf a rest.length).map fun n =>
    (s.landData p m a (rest.take n)).onCore p fun c => { c with msg := { c.msg with
      out := c.msg.out.map fun o => if o.rid = m.rid then { o with landed := o.landed + n } else o } }

/-- A reply of a kind lands: `f` has its effect on the message it answers, or keeps it in the mesh. -/
def replyLands (kind : Nat) (f : State → Site → OutMsg → List Byte → Option State) (s : State) :
    Host.Outcome State Fault Refusal :=
  onLanding s fun p t =>
    match p.body with
    | .rep h payload rid =>
      if hdrKind h ≠ kind then s
      else match answered (t.core p.dst) h rid with
        | none => t
        | some m =>
          (replyPiece s p.dst m kind payload).getD ((f (t.onCore p.dst fun c => { c.outDone m.rid with progress := true }) p.dst m
            (if kind = kAMOR then bytesOfNat 4 (vget h 5).toNat else payload)).getD s)
    | _ => s

/-- ACK: the remote access has been performed (R254); a granule of a stream has been delivered (R352). -/
def execAckLands (s : State) : Host.Outcome State Fault Refusal :=
  replyLands kACK (fun s p m _ => some (match m.slot with
    | none => s
    | some n => if ((s.core p).jobOf n m.id).isSome then s.delivered p n else s)) s

/-- The landing of a reply with data, once no earlier command's lock delays it: the write, the end of the lock, the counter
add (R243, R248). -/
def dataLands (s : State) (p : Site) (m : OutMsg) (bs : List Byte) : Option State :=
  if !replyGoes (s.core p) m bs then none
  else
    let (a, rest) := m.rest bs
    some (((s.landData p m a rest).onCore p fun c => c.unlock m.id).addOf p m.hdr)

/-- GETR (R248). -/
def execGetrLands (s : State) : Host.Outcome State Fault Refusal := replyLands kGETR dataLands s
/-- AMOR (R249). -/
def execAmorLands (s : State) : Host.Outcome State Fault Refusal := replyLands kAMOR dataLands s

/-- The reasons for which a receiver may refuse a kind (R250, R401). -/
def reasonsOf (kind : Nat) : List Nat :=
  if kind = kSEND then [1, 2, 3, 6, 7] else if kind = kPUT then [3, 4, 5, 6, 7] else [4, 5, 6, 7]

/-- A request that another module refused: its station's record comes to the sender's launch with a reason of its own, and
an uncorrectable error reaches the sender with the word's address; both are free here (R250, log entry 26). -/
def State.refusedAbroad (s : State) (p : Site) (m : OutMsg) : State :=
  let reasons := reasonsOf (hdrKind m.hdr)
  let reason := reasons.getD (Config.refusedReason s.freeCount % reasons.length) 7
  let word := Config.refusedAddress s.freeCount
  let s := { s with freeCount := s.freeCount + 1 }
  let s := s.refusalFor (s.core p).role.launch (hdrDstWord m.hdr) m.hdr reason
  if reason = 5 then s.asyncFault p m.ctx m.serial { code := MCHK, sub := 0, aux := 0, val := word } else s

/-- NACK: the command's lock goes and the counter a refused GET or AMO names is broken (R250); a stream that put a granule
ends failed (R352). -/
def execNackLands (s : State) : Host.Outcome State Fault Refusal :=
  replyLands kNACK (fun s p m _ =>
    let s := if hdrDmod m.hdr = 0 then s else s.refusedAbroad p m
    some (match m.slot with
    | some n =>
      let site := hdrDstWord m.hdr
      if ((s.core p).jobOf n m.id).isSome then s.streamFails p n STREAM 4 site.toNat site else s
    | none =>
      let reads := hdrKind m.hdr == kGET || hdrKind m.hdr == kAMO
      s.onCore p fun c =>
        let c := if reads then c.unlock m.id else c
        if reads && hdrCa m.hdr then c.breakCounter (hdrCnum m.hdr) else c)) s

end Sys2Proof.Machine
end

