-- ==== Sys2Proof/Machine/Sync.lean ====
section
/-!
DEFINITION. The synchronisation engine: counters (R179 to R183), the step register (R184, R185) and the fences (R190, R191).
-/
namespace Sys2Proof.Machine
open Sys2Proof

/-- The context's own CADD and CRAISE on counter n that are not yet performed. -/
def ownPending (s : State) (n : Nat) : Bool :=
  s.here.sync.queue.any fun o => o.ctx == s.cur.2 && o.counter == n

/-- Queues a CADD or CRAISE; a full queue stalls (R25, R181). -/
def syncCommand (i : Instr) (raise : Bool) (n : Nat) (scope : Scope) (val : Ctx → Nat) (s : State) : Host.Outcome State Fault Refusal :=
  gate i s fun s =>
    let c := s.here
    if 8 ≤ c.sync.queue.length then s
    else
      let op : SyncOp :=
        { ctx := s.cur.2, serial := s.me.serial, raise := raise, counter := n, val := val s.me, after := c.msg.nextSeq
          wide := wideScope scope }
      (s.onHere fun c => { c with sync := { c.sync with queue := c.sync.queue ++ [op] } }).advance i

/-- The 64-bit value of two registers, high and low (R181). -/
def wide (x : Ctx) (hi lo : XReg) : Nat := (x.rx hi).toNat * 2 ^ 32 + (x.rx lo).toNat

/-- CADD (R181). -/
def execCadd (rb : XReg) (scope : Scope) (esel : BitVec 8) (s : State) : Host.Outcome State Fault Refusal :=
  syncCommand (.cadd rb scope esel) false esel.toNat scope (fun x => (x.rx rb).toNat) s
/-- CRAISE (R181). -/
def execCraise (ra rb : XReg) (scope : Scope) (esel : BitVec 8) (s : State) : Host.Outcome State Fault Refusal :=
  syncCommand (.craise ra rb scope esel) true esel.toNat scope (fun x => wide x ra rb) s

/-- Performs a CADD or CRAISE (R181). -/
def State.syncPerform (s : State) (p : Site) (o : SyncOp) : State :=
  let v := (s.core p).counter o.counter
  if o.raise then
    s.onCore p fun c => c.setCounter o.counter { v with value := BitVec.ofNat 64 (max v.value.toNat o.val) }
  else if v.value.toNat + o.val < 2 ^ 64 then
    s.onCore p fun c => c.setCounter o.counter { v with value := v.value + BitVec.ofNat 64 o.val }
  else
    (s.onCore p fun c => c.breakCounter o.counter).asyncFault p o.ctx o.serial
      { code := COUNTER, sub := 1, aux := o.counter, val := v.value.extractLsb' 0 32 }

/-- CADD_PERFORMED: operation `num` of the queue of the core in `cur` is performed, in its context's program order, once its
release is satisfied (R125, R181). -/
def execCaddPerformed (s : State) : Host.Outcome State Fault Refusal :=
  let c := s.here
  .next (if !c.live || c.halted then s
    else match takeAt c.sync.queue s.num with
      | none => s
      | some (o, rest) =>
        if (c.sync.queue.take s.num).any (fun q => q.ctx == o.ctx)
            || c.msg.out.any (fun m => m.ctx == o.ctx && m.slot.isNone && decide (m.seq < o.after))
            || (o.wide && edgeReading c o.ctx o.after) then s
        else (s.onHere fun c => { c with sync := { c.sync with queue := rest } }).syncPerform s.cur.1 o)

/-- CREAD (R181). -/
def execCread (rd : XReg) (esel : BitVec 8) (s : State) : Host.Outcome State Fault Refusal :=
  let i := Instr.cread rd esel
  gate i s fun s =>
    if ownPending s esel.toNat then s
    else (s.onMe fun x => x.wpair rd (s.here.counter esel.toNat).value).advance i

/-- The word CTEST writes for a counter and a target (R181). -/
def testWord (v : Counter) (target : Word) : Word :=
  BitVec.ofNat 32 ((if v.broken then 2 else 0) + if target.toNat ≤ v.value.toNat then 1 else 0)
/-- CTEST (R181). -/
def execCtest (rd rb : XReg) (esel : BitVec 8) (s : State) : Host.Outcome State Fault Refusal :=
  let i := Instr.ctest rd rb esel
  gate i s fun s =>
    if ownPending s esel.toNat then s else s.result i rd (testWord (s.here.counter esel.toNat) (s.me.rx rb))

/-- CBRK (R181): after the context's own operations on the counter (rule 1 of R198). -/
def execCbrk (esel : BitVec 8) (s : State) : Host.Outcome State Fault Refusal :=
  gate (.cbrk esel) s fun s =>
    if ownPending s esel.toNat then s
    else (s.onHere fun c => c.breakCounter esel.toNat).advance (.cbrk esel)

/-- A CWAIT whose condition holds: the trap of a broken counter, whose EPC names the next instruction, or the next
instruction (R181, R182). -/
def counterWaited (s : State) (n : Nat) : State :=
  let v := s.here.counter n
  if v.broken then
    s.takeTrap s.cur.1 s.cur.2 false { code := COUNTER, sub := 0, aux := n, val := v.value.extractLsb' 0 32 } (s.me.pc + 4)
  else s.onMe fun x => { x with pc := x.pc + 4, status := .ready }
/-- The condition of a CWAIT. -/
def counterMet (s : State) (n target : Nat) : Bool :=
  let v := s.here.counter n
  v.broken || decide (target ≤ v.value.toNat)

/-- CWAIT (R61, R181): an acquire, so it waits for the context's releases before it (rule 4 of R198). -/
def execCwait (ra rb : XReg) (scope : Scope) (esel : BitVec 8) (s : State) : Host.Outcome State Fault Refusal :=
  let i := Instr.cwait ra rb scope esel
  gate i s fun s =>
    let n := esel.toNat
    let t := wide s.me ra rb
    if s.me.kind ≠ .ordinary then s.trap HBLOCK (instrWord i)
    else if !acquireReady s.here s.cur.2 then s
    else if counterMet s n t then counterWaited s n
    else s.onMe fun x => { x with status := .waiting (.counter n t) i }

/-! ## STEP (R184, R185) -/

/-- Counter 63 of a core counts one step, and sweeps become due at a crossing (R185, R331). -/
def State.stepOn (s : State) (p : Site) : State := (s.addCounter p 63 1).onCore p Core.crossing

/-- STEPADV (R185). -/
def execStepadv (s : State) : Host.Outcome State Fault Refusal :=
  gate .stepadv s fun s =>
    let p := s.cur.1
    let ro := s.here.role
    if p ≠ ro.stepSource then s.trap COUNTER 0 2 63
    else if !releaseReady s.here s.cur.2 .device then s
    else
      let others := (ro.launchRects.map Rect.sites).flatten.filter (· != p)
      let beats : List Packet := others.map fun q => { src := p, dst := q, cls := .control, ctx := 0, body := .step }
      ({ s.stepOn p with mesh := s.mesh ++ beats }).advance .stepadv

/-- STEPRD (R185). -/
def execSteprd (rd : XReg) (s : State) : Host.Outcome State Fault Refusal :=
  gate (.steprd rd) s fun s => s.result (.steprd rd) rd ((s.here.counter 63).value.extractLsb' 0 32)

/-- STEP_BEAT: a step beat lands (R185). -/
def execStepBeat (s : State) : Host.Outcome State Fault Refusal :=
  onLanding s fun p t =>
    match p.body with
    | .step => t.stepOn p.dst
    | _ => s

/-! ## Fences (R190, R191) -/

/-- FENCE (R190): it waits for remote accesses, for counter operations and for arrivals; the context's own accesses are
performed before it issues (log entry 4). -/
def execFence (scope : Scope) (s : State) : Host.Outcome State Fault Refusal :=
  gate (.fence scope) s fun s =>
    if releaseReady s.here s.cur.2 scope && acquireReady s.here s.cur.2 then s.advance (.fence scope) else s

/-- An engine command that context k issued, in this task or an earlier one, has writes to come (R191): a FAULTED stream does
not count. -/
def engineBusy (c : Core) (k : CtxNo) : Bool :=
  vecPending c k || !releaseReady c k .task
    || c.tensor.queue.any (fun t => match t with
      | .cmd d => d.ctx == k
      | .mts _ j _ _ => j == k)
    || c.tensor.run.any (fun r => r.cmd.ctx == k)
    || c.msg.queue.any (fun m => m.ctx == k)
    || c.msg.sums.toList.any (fun g => g.busy && g.cfg.any fun f => f.parent.isNone && f.ctx == k)
    || c.msg.creams.toList.any (fun g => g.joined && g.ctx == k && g.tiles.any fun w => !w.final && !w.fail)
    || c.slots.toList.any fun t => t.state != .faulted && t.job.any fun j => j.ctx == k

/-- FENCEE (R191). -/
def execFencee (s : State) : Host.Outcome State Fault Refusal :=
  gate .fencee s fun s => if engineBusy s.here s.cur.2 then s else s.advance .fencee

end Sys2Proof.Machine
end

