-- ==== Sys2Proof/Machine/Barrier.lean ====
section
/-!
DEFINITION. Rectangle barriers (R186 to R189) and the rows ARRIVAL_BEAT, RELEASE_BEAT and BARRIER_ARRIVAL_SENT.
-/
namespace Sys2Proof.Machine
open Sys2Proof

def Core.bar (c : Core) (n : Nat) : Barrier := vget c.sync.barriers n
def Core.onBar (c : Core) (n : Nat) (f : Barrier → Barrier) : Core :=
  { c with sync := { c.sync with barriers := vmod c.sync.barriers n f } }

/-- The trap BARRIER: EVAL the instruction word, AUX the barrier (R142). -/
def State.barTrap (s : State) (i : Instr) (n : Nat) : State := s.trap BARRIER (instrWord i) 0 n

/-! ## The sweep (R187) -/

/-- The generation is released at a core. -/
def Barrier.release (b : Barrier) (gen : Word) (failed : Bool) : Barrier :=
  { b with
    gen := gen, arrived := false, arriver := none, counted := false, failed := false, sent := false
    failedGens := if failed then gen.toNat :: b.failedGens else b.failedGens }

/-- Passes a release on: the west column north and east, any other core east. -/
def passRelease (s : State) (p : Site) (n : Nat) (r : Rect) (gen : Word) (failed : Bool) : State :=
  let b : Body := .release n r gen failed
  let s := if p.x = r.x0 ∧ p.y + 1 < r.y0 + r.h then s.meshBeat p .north b else s
  if p.x + 1 < r.x0 + r.w then s.meshBeat p .east b else s

/-- The sweep goes on at a core once its own arrival counts and the beats it needs are held. -/
def barSweep (s : State) (p : Site) (n : Nat) : State :=
  let b := (s.core p).bar n
  let r := b.rect
  let needEast := decide (p.x + 1 < r.x0 + r.w)
  let needNorth := decide (p.x = r.x0 ∧ p.y + 1 < r.y0 + r.h)
  if !b.configured || !b.arrived || !b.counted || b.sent || (needEast && b.east.isNone) || (needNorth && b.north.isNone) then s
  else
    let failed := b.failed || b.east.any (·.failed) || b.north.any (·.failed)
    let s := s.onCore p fun c => c.onBar n fun b => { b with east := none, north := none, sent := true }
    let beat : Body := .arrival n { rect := r, failed := failed }
    if r.x0 < p.x then s.meshBeat p .west beat
    else if r.y0 < p.y then s.meshBeat p .south beat
    else
      let gen := b.gen + 1
      passRelease (s.onCore p fun c => { c.onBar n (fun b => b.release gen failed) with progress := true }) p n r gen failed

/-- A held beat whose rectangle is not the one now configured is discarded and recorded. -/
def dropHeld (s : State) (p : Site) (n : Nat) : State :=
  let b := (s.core p).bar n
  let other (o : Option Beat) : Bool := o.any fun h => h.rect != b.rect
  let keep (o : Option Beat) : Option Beat := o.filter fun h => h.rect == b.rect
  let s := if other b.east then s.note (.barrierMismatch p n) else s
  let s := if other b.north then s.note (.barrierMismatch p n) else s
  s.onCore p fun c => c.onBar n fun b => { b with east := keep b.east, north := keep b.north }

/-! ## Instructions -/

/-- BARCFG (R186): a generation that changes is progress (R202); beats held while the barrier was unconfigured do not make it busy (R187). -/
def execBarcfg (rb : XReg) (esel : BitVec 8) (s : State) : Host.Outcome State Fault Refusal :=
  let i := Instr.barcfg rb esel
  gate i s fun s =>
    let n := esel.toNat
    let v := (s.me.rpair rb).toNat
    let lo := v % 2 ^ 32
    let hi := v / 2 ^ 32
    let r : Rect := ⟨bitsN lo 8 0, bitsN lo 17 9, bitsN hi 8 0 + 1, bitsN hi 17 9 + 1⟩
    let b := s.here.bar n
    let inMesh := decide (r.x0 + r.w ≤ 512 ∧ r.y0 + r.h ≤ s.meshH)
    if bitsN lo 31 18 ≠ 0 ∨ bitsN hi 31 18 ≠ 0 ∨ !inMesh ∨ !r.inside s.here.role.partRect ∨ !r.has s.cur.1
      ∨ b.arrived ∨ (b.configured ∧ (b.east.isSome ∨ b.north.isSome)) then s.barTrap i n
    else
      let s := s.onHere fun c => { c.onBar n (fun b =>
        { b with configured := true, rect := r, gen := 0, sent := false, failed := false, failedGens := [] }) with
        progress := c.progress || b.gen != 0 }
      (dropHeld s s.cur.1 n).advance i

/-- BARRIVE (R188). It takes a number of the context's messages, so that its release is told from what comes after it. -/
def execBarrive (scope : Scope) (esel : BitVec 8) (s : State) : Host.Outcome State Fault Refusal :=
  let i := Instr.barrive scope esel
  gate i s fun s =>
    let n := esel.toNat
    let b := s.here.bar n
    if !b.configured ∨ b.arrived ∨ b.tap.isSome ∨ b.gen = 0xFFFFFFFF then s.barTrap i n
    else
      let seq := s.here.msg.nextSeq
      (s.onHere fun c => { c.onBar n (fun b =>
          { b with arrived := true, arriver := some (s.cur.2, s.me.serial, seq), wide := wideScope scope, counted := false, failed := false }) with
        msg := { c.msg with nextSeq := seq + 1 } }).advance i

/-- A BARWAIT whose generation has come: the trap of a failed one, whose EPC names the BARWAIT, or the next instruction. -/
def barrierWaited (s : State) (n target : Nat) (word : Word) : State :=
  let b := s.here.bar n
  if b.failedGens.any fun g => decide (target ≤ g ∧ g ≤ b.gen.toNat) then
    s.takeTrap s.cur.1 s.cur.2 false { code := BARRIER, sub := 0, aux := n, val := word } s.me.pc
  else s.onMe fun x => { x with pc := x.pc + 4, status := .ready }

/-- BARWAIT (R61, R188): an acquire, so it waits for the context's releases before it (rule 4 of R198). -/
def execBarwait (rb : XReg) (scope : Scope) (esel : BitVec 8) (s : State) : Host.Outcome State Fault Refusal :=
  let i := Instr.barwait rb scope esel
  gate i s fun s =>
    let n := esel.toNat
    let t := (s.me.rx rb).toNat
    let b := s.here.bar n
    if s.me.kind ≠ .ordinary then s.trap HBLOCK (instrWord i)
    else if !b.configured then s.barTrap i n
    else if !acquireReady s.here s.cur.2 then s
    else if t ≤ b.gen.toNat then barrierWaited s n t (instrWord i)
    else s.onMe fun x => { x with status := .waiting (.barrier n t) i }

/-- BARTAP (R189). -/
def execBartap (bar slot : Fin 8) (s : State) : Host.Outcome State Fault Refusal :=
  let i := Instr.bartap bar slot
  gate i s fun s =>
    let b := s.here.bar bar.val
    if !b.configured ∨ b.arrived ∨ b.tap.isSome ∨ s.here.sync.barriers.toList.any (fun b => b.tap == some slot.val) then
      s.barTrap i bar.val
    else (s.onHere fun c => c.onBar bar.val fun b => { b with tap := some slot.val }).advance i

/-! ## Beats -/

/-- ARRIVAL_BEAT: a beat from the east or the north is held, and the sweep may go on; a second one, or one of another
rectangle, is discarded and recorded (R187). -/
def execArrivalBeat (s : State) : Host.Outcome State Fault Refusal :=
  onLanding s fun p t =>
    match p.body with
    | .arrival n beat =>
      let b := (t.core p.dst).bar n
      let east := neighbour t p.dst .east == some p.src
      let mine := if east then b.east else b.north
      if mine.isSome ∨ (b.configured ∧ beat.rect ≠ b.rect) then t.note (.barrierMismatch p.dst n)
      else
        let t := t.onCore p.dst fun c => { c.onBar n (fun b =>
          if east then { b with east := some beat } else { b with north := some beat }) with progress := true }
        barSweep t p.dst n
    | _ => s

/-- RELEASE_BEAT: the release sets GEN and is passed on, or is discarded and recorded (R187). -/
def execReleaseBeat (s : State) : Host.Outcome State Fault Refusal :=
  onLanding s fun p t =>
    match p.body with
    | .release n r gen failed =>
      let b := (t.core p.dst).bar n
      if !b.configured ∨ b.rect ≠ r then t.note (.barrierMismatch p.dst n)
      else
        let t := t.onCore p.dst fun c => { c.onBar n (fun b => b.release gen failed) with progress := true }
        passRelease t p.dst n r gen failed
    | _ => s

/-- BARRIER_ARRIVAL_SENT: the arrival recorded at barrier `num` of the core in `cur` counts once its release is satisfied,
and takes part in the sweep (R188). -/
def execBarrierArrivalSent (s : State) : Host.Outcome State Fault Refusal :=
  let n := s.num
  let c := s.here
  let b := c.bar n
  let ready := match b.arriver with
    | none => b.counted
    | some (k, _, seq) => releaseBefore c k seq b.wide
  .next (if !c.live || c.halted || decide (8 ≤ n) || !b.arrived || !ready then s
    else barSweep (s.onHere fun c => c.onBar n fun b => { b with counted := true }) s.cur.1 n)

end Sys2Proof.Machine
end

