-- ==== Sys2Proof/Machine/EdgeRev.lean ====
section
/-!
DEFINITION. Edge-reversal mode (R219 to R233) and the rows HANDSHAKE, MISMATCH_BEAT, FLIP, HALT and FIRE.
-/
namespace Sys2Proof.Machine
open Sys2Proof

def Core.crossingAt (c : Core) (n : Nat) : Crossing := vget c.sync.crossings n
def Core.onCrossing (c : Core) (n : Nat) (f : Crossing → Crossing) : Core :=
  { c with sync := { c.sync with crossings := vmod c.sync.crossings n f } }
/-- The entries a context owns, in ascending order. -/
def ownedBy (c : Core) (k : CtxNo) : List Nat :=
  (List.range 32).filter fun n => (c.crossingAt n).valid && (c.crossingAt n).octx == k.val

/-- The trap ERMODE: EVAL the instruction word, AUX the crossing (R220). -/
def State.erTrap (s : State) (i : Instr) (n : Nat) : State := s.trap ERMODE (instrWord i) 0 n

/-- The rank of a context (R232). -/
def rankOf (c : Core) (k : Nat) : Nat := (vget c.errank k).toNat % 2 ^ 16

/-- One key is below another: rank, site word and context number, in that order (R223). -/
def keyLt (a b : Nat × Nat × Nat) : Bool :=
  decide (a.1 < b.1 ∨ (a.1 = b.1 ∧ (a.2.1 < b.2.1 ∨ (a.2.1 = b.2.1 ∧ a.2.2 < b.2.2))))
/-- The keys of an entry's own end and of its partner's. -/
def ownKey (c : Core) (p : Site) (e : Crossing) : Nat × Nat × Nat := (rankOf c e.octx, p.toNat, e.octx)
def partnerKey (e : Crossing) : Nat × Nat × Nat := (e.partnerRank, e.partner.toNat, e.pctx)

/-! ## Handshakes (R222, R223) -/

/-- Sends a beat to an entry of a core, or has its effect at once on the own core. -/
def crossBeat (s : State) (p q : Site) (body : Body) (direct : State → State) : State :=
  if p = q then direct s else s.send { src := p, dst := q, cls := .control, ctx := 0, body := body }

/-- MISMATCH at an entry. -/
def setMismatch (s : State) (p : Site) (n : Nat) : State := s.onCore p fun c => c.onCrossing n fun e => { e with mismatch := true }
def mismatchTo (s : State) (p q : Site) (n : Nat) : State := crossBeat s p q (.mismatch n) fun s => setMismatch s q n

/-- A handshake at entry n of core p (R222, R223). -/
def handshakeAt (s : State) (p : Site) (n : Nat) (h : Handshake) : State :=
  let c := s.core p
  let e := c.crossingAt n
  if c.role.crossings ≤ n then mismatchTo s p h.site h.entry
  else if !e.valid then
    match e.held with
    | none => s.onCore p fun c => c.onCrossing n fun e => { e with held := some h }
    | some g => mismatchTo (mismatchTo (s.onCore p fun c => c.onCrossing n fun e => { e with clash := true }) p g.site g.entry)
        p h.site h.entry
  else if e.partner = h.site ∧ e.pctx = h.ctx ∧ e.pk = h.entry ∧ e.octx = h.partnerCtx then
    if e.mismatch then s
    else
      let e : Crossing := { e with paired := true, partnerRank := h.rank }
      let faces := keyLt (ownKey c p e) (partnerKey e)
      s.onCore p fun c => c.onCrossing n fun _ => { e with face := faces, initFace := faces }
  else mismatchTo (setMismatch s p n) p h.site h.entry

/-- The partner site that an ERINIT names. -/
def erinitSite (x : Ctx) (rb : XReg) : Site :=
  let lo := (x.rpair rb).toNat % 2 ^ 32
  Site.mk (bitsN lo 8 0) (bitsN lo 17 9)
/-- The scope of the release that its handshake is: core scope to the own core, device scope to another (R221, R228). -/
def erinitScope (s : State) (rb : XReg) : Scope := if erinitSite s.me rb = s.cur.1 then .core else .device
/-- ERINIT (R221): its handshake is a release, which it waits for (R228). The entry keeps its PINNED, which the rule does not name
(R10). -/
def execErinit (rb : XReg) (esel : BitVec 8) (s : State) : Host.Outcome State Fault Refusal :=
  let i := Instr.erinit rb esel
  gate i s fun s =>
    let n := esel.toNat
    let p := s.cur.1
    let c := s.here
    let v := (s.me.rpair rb).toNat
    let lo := v % 2 ^ 32
    let hi := v / 2 ^ 32
    let octx := bitsN lo 28 26
    let pk := bitsN lo 25 21
    let q := erinitSite s.me rb
    let base := bitsN hi 13 0 * 16
    let len1 := bitsN hi 27 14
    let e := c.crossingAt n
    if e.valid ∨ bitsN lo 31 29 ≠ 0 ∨ bitsN hi 31 28 ≠ 0
      ∨ ¬ (c.role.ord ≤ octx ∧ octx < c.role.ord + c.role.er)
      ∨ !(c.role.launchRects.any fun r => r.has q) ∨ (q = p ∧ pk = n)
      ∨ !inKind c.role [.data] base ((len1 + 1) * 16) then s.erTrap i n
    else if !releaseReady c s.cur.2 (erinitScope s rb) then s
    else
      let new : Crossing :=
        { Crossing.blank with
          valid := true, octx := octx, pk := pk, pctx := bitsN lo 20 18, partner := q, base := base, len1 := len1
          pinned := e.pinned, mismatch := e.clash }
      let s := s.onHere fun c => c.onCrossing n fun _ => new
      let h : Handshake := { site := p, ctx := octx, entry := n, rank := rankOf c octx, partnerCtx := bitsN lo 20 18 }
      let s := crossBeat s p q (.handshake pk h) fun s => handshakeAt s p pk h
      let s := match e.held with
        | none => s
        | some g => handshakeAt s p n g
      s.advance i

/-! ## Ends of a firing (R225 to R227) -/

/-- A flip to the partner of an entry: its FACE is set. -/
def faceAt (s : State) (p : Site) (n : Nat) : State := s.onCore p fun c => c.onCrossing n fun e => { e with face := true }
/-- A halt to the partner of an entry: its FACE and PINNED are set. -/
def pinAt (s : State) (p : Site) (n : Nat) : State :=
  s.onCore p fun c => c.onCrossing n fun e => { e with face := true, pinned := true }

/-- Turns every gate of a context that is not pinned (R225). An entry made its own while it fires and not yet paired is turned
with the rest, as the pseudocode of R225 has it, where R222 and R229 say that a flip meets no unpaired entry: the model's choice
(log entry 39). -/
def flipAll (s : State) (p : Site) (k : CtxNo) : State :=
  (ownedBy (s.core p) k).foldl (fun s n =>
    let e := (s.core p).crossingAt n
    let s := s.onCore p fun c => c.onCrossing n fun e => { e with ends := e.ends + 1, face := e.pinned && e.face }
    if e.pinned then s else crossBeat s p e.partner (.flip e.pk) fun s => faceAt s p e.pk) s

/-- Retires a context from its crossings (R227). -/
def haltAll (s : State) (p : Site) (k : CtxNo) : State :=
  (ownedBy (s.core p) k).foldl (fun s n =>
    let e := (s.core p).crossingAt n
    let s := s.onCore p fun c => c.onCrossing n fun e => { e with ends := e.ends + 1, face := false, pinned := true }
    crossBeat s p e.partner (.halt e.pk) fun s => pinAt s p e.pk) s

/-- A site lies in the scope of a core (R7). -/
def inScope (p q : Site) : Scope → Bool
  | .task => false
  | .core => p == q
  | .die => fieldOf p == fieldOf q
  | .device => true
  | .system => true

/-- Ends a firing: not yet while the task's vector instructions are queued. -/
def endFiring (i : Instr) (s : State) (retired : Bool) (turn : State → State) : State :=
  if vecPending s.here s.cur.2 then s else (turn s).endTask i retired

/-- ERDONE (R225). -/
def execErdone (scope : Scope) (s : State) : Host.Outcome State Fault Refusal :=
  let i := Instr.erdone scope
  gate i s fun s =>
    let p := s.cur.1
    let k := s.cur.2
    if s.me.kind ≠ .edgeReversal then s.erTrap i 0
    else match (ownedBy s.here k).find? fun n => !inScope p (s.here.crossingAt n).partner scope with
      | some n => s.erTrap i n
      | none => if !releaseReady s.here k scope then s else endFiring i s false fun s => flipAll s p k

/-- ERPASS (R226). -/
def execErpass (s : State) : Host.Outcome State Fault Refusal :=
  gate .erpass s fun s =>
    if s.me.kind ≠ .edgeReversal then s.erTrap .erpass 0
    else endFiring .erpass s false fun t => flipAll t s.cur.1 s.cur.2

/-- ERHALT (R227). -/
def execErhalt (s : State) : Host.Outcome State Fault Refusal :=
  gate .erhalt s fun s =>
    if s.me.kind ≠ .edgeReversal then s.erTrap .erhalt 0
    else if !releaseReady s.here s.cur.2 .device then s
    else endFiring .erhalt s true fun t => haltAll t s.cur.1 s.cur.2

/-- ERCHK (R230). -/
def execErchk (rd : XReg) (esel : BitVec 8) (s : State) : Host.Outcome State Fault Refusal :=
  let i := Instr.erchk rd esel
  gate i s fun s =>
    let n := esel.toNat
    let e := s.here.crossingAt n
    if !e.valid ∨ e.mismatch then s.erTrap i n
    else if !e.paired then s.result i rd 1
    else if e.initFace ≠ keyLt (ownKey s.here s.cur.1 e) (partnerKey e) then s.erTrap i n
    else s.result i rd 0

/-- The word ERSTAT writes (R231). -/
def crossingWord (e : Crossing) : Word :=
  let bit (v : Bool) (n : Nat) : Nat := if v then 2 ^ n else 0
  BitVec.ofNat 32 (e.ends.toNat * 2 ^ 16 + bit e.mismatch 7 + bit e.held.isSome 6 + bit e.pinned 5 + bit e.face 3
    + bit e.initFace 2 + bit e.paired 1 + bit e.valid 0)

/-- ERSTAT (R231). -/
def execErstat (rd : XReg) (esel : BitVec 8) (s : State) : Host.Outcome State Fault Refusal :=
  let i := Instr.erstat rd esel
  gate i s fun s => s.result i rd (crossingWord (s.here.crossingAt esel.toNat))

/-! ## Beats and firing -/

/-- HANDSHAKE (R222). -/
def execHandshakeLands (s : State) : Host.Outcome State Fault Refusal :=
  onLanding s fun p t =>
    match p.body with
    | .handshake n h => handshakeAt t p.dst n h
    | _ => s

/-- MISMATCH_BEAT (R222). -/
def execMismatchBeat (s : State) : Host.Outcome State Fault Refusal :=
  onLanding s fun p t =>
    match p.body with
    | .mismatch n => setMismatch t p.dst n
    | _ => s

/-- FLIP (R225). -/
def execFlipLands (s : State) : Host.Outcome State Fault Refusal :=
  onLanding s fun p t =>
    match p.body with
    | .flip n => faceAt t p.dst n
    | _ => s

/-- HALT (R227). -/
def execHaltLands (s : State) : Host.Outcome State Fault Refusal :=
  onLanding s fun p t =>
    match p.body with
    | .halt n => pinAt t p.dst n
    | _ => s

/-- An edge-reversal context is due to fire (R71, R224): every entry that an ERINIT has made its own faces it. Entries for which
no ERINIT has come yet do not count: the model's choice (log entry 39). -/
def dueToFire (c : Core) (k : CtxNo) : Bool :=
  let x := c.ctx k
  x.kind == .edgeReversal && x.status == .dormant && !x.retired && !(ownedBy c k).isEmpty
    && (ownedBy c k).all fun n => let e := c.crossingAt n; e.paired && !e.mismatch && e.face

/-- FIRE: the edge-reversal context in `cur` starts, once no page of its regions is absent (R57, R224, R233). It starts after its
accesses (R132), and its acquire after its releases (R198, R228). -/
def execFire (s : State) : Host.Outcome State Fault Refusal :=
  let c := s.here
  let k := s.cur.2
  let away := (ownedBy c k).any fun n => let e := c.crossingAt n; absent c e.base ((e.len1 + 1) * 16)
  .next (if !c.live || c.halted || !dueToFire c k || away || !accessesDone c k || !acquireReady c k then s
    else
      let n := k.val - c.role.ord
      s.start s.cur.1 k (c.role.erTasks.getD n 0) (BitVec.ofNat 32 n) 0 0 0)

end Sys2Proof.Machine
end

