-- ==== Sys2Proof/Machine/Wake.lean ====
section
/-!
DEFINITION. The rows WAKE and ASYNC_FAULT: a waiting context becomes ready (R55, R181, R188, R294), and a held asynchronous
fault is entered (R143).
-/
namespace Sys2Proof.Machine
open Sys2Proof

/-- A ring wait that is over: the trap of a ring that ran dry and is marked FAIL, or the next instruction (R294, R306). -/
def ringWaited (s : State) (failed : Bool) (q n : Nat) : State :=
  if failed then
    s.takeTrap s.cur.1 s.cur.2 false { code := RING, sub := 1, aux := q, val := BitVec.ofNat 32 n } s.me.pc
  else s.onMe fun x => { x with pc := x.pc + 4, status := .ready }

/-- WAKE: the wait of the context in `cur` is over if its condition holds; the acquire it makes waits for the context's
releases (rule 4 of R198), and a held fault that can be entered abandons the wait instead (R143). -/
def execWake (s : State) : Host.Outcome State Fault Refusal :=
  let c := s.here
  .next (if !c.live || c.halted || !acquireReady c s.cur.2 || (s.me.tlevel == 0 && !s.me.pending.isEmpty) then s
    else match s.me.status with
      | .waiting (.counter n t) _ => if counterMet s n t then counterWaited s n else s
      | .waiting (.barrier n t) i => if t ≤ (c.bar n).gen.toNat then barrierWaited s n t (instrWord i) else s
      | .waiting (.ringFilled q n) _ =>
        let r := c.ring q
        if n ≤ r.fill then ringWaited s false q n else if r.fail then ringWaited s true q n else s
      | .waiting (.ringFree q n) _ => if n ≤ (c.ring q).free then ringWaited s false q n else s
      | _ => s)

/-- ASYNC_FAULT: the oldest held fault of the context in `cur` is entered at TLEVEL 0, abandoning a wait (R143); with traps
disabled the context is killed, once its queued vector instructions are done (R141). A VMEM instruction that has issued comes
first (R156). -/
def execAsyncFault (s : State) : Host.Outcome State Fault Refusal :=
  let c := s.here
  let x := s.me
  .next (if !c.live || c.halted || x.status == .dormant || x.tlevel != 0 || memQueued c s.cur.2
      || c.late.any (fun e => e.hold && e.ctx == s.cur.2) then s
    else match x.pending with
      | [] => s
      | f :: rest =>
        if !x.tvec.getLsbD 0 && vecPending c s.cur.2 then s
        else (s.onMe fun x => { x with pending := rest }).takeTrap s.cur.1 s.cur.2 true f x.pc)

end Sys2Proof.Machine
end

