-- ==== Sys2Proof/Machine/Stream.lean ====
section
/-!
DEFINITION. The commands of the stream engine, major 0x3C (R343 to R347, R351, R353 to R357).
-/
namespace Sys2Proof.Machine
open Sys2Proof

/-! ## SGEOM (R344) -/

/-- SGEOM (R344). -/
def execSgeom (rb : XReg) (esel : BitVec 8) (s : State) : Host.Outcome State Fault Refusal :=
  let i := Instr.sgeom rb esel
  gate i s fun s =>
    if esel = 8 then
      let a := s.me.rx rb
      record s a 8 64 fun s =>
        let sg : Vector DWord 8 := Vector.ofFn fun n => BitVec.ofNat 64 (s.here.nat (a.toNat + 8 * n.val) 8)
        (s.onMe fun x => { x with sg := sg }).advance i
    else (s.onMe fun x => { x with sg := vset x.sg esel.toNat (x.rpair rb) }).advance i

/-! ## The stream descriptor (R345) -/

/-- The fields of a stream descriptor, and whether a bit that must be zero is set. -/
structure StreamDesc where
  dsite : Word
  daddr : Nat
  nc : Bool
  rca : Bool
  bytes : Bool
  counter : Nat
  inc : Nat
  rinc : Nat
  rcounter : Nat
  named : Bool
  edge : Bool
  port : Nat
  ring : Nat
  rop : Nat
  reserved : Bool
  deriving DecidableEq, Repr

def streamDesc (c : Core) (a : Nat) : StreamDesc :=
  let w (n : Nat) : Nat := (c.word (a + 4 * n)).toNat
  { dsite := BitVec.ofNat 32 (bitsN (w 0) 23 0), daddr := bitsN (w 1) 17 0
    nc := bitN (w 2) 31, rca := bitN (w 2) 29, bytes := bitN (w 2) 28, counter := bitsN (w 2) 21 16, inc := bitsN (w 2) 15 0
    rinc := bitsN (w 3) 31 16, rcounter := bitsN (w 3) 5 0
    named := bitN (w 4) 31, edge := bitN (w 4) 30, port := bitsN (w 4) 29 24, ring := bitsN (w 4) 19 16, rop := bitsN (w 4) 1 0
    reserved := bitsN (w 0) 31 24 != 0 || bitsN (w 1) 31 18 != 0 || bitN (w 2) 30 || bitsN (w 2) 27 22 != 0
      || bitsN (w 3) 15 6 != 0 || bitsN (w 4) 23 20 != 0 || bitsN (w 4) 15 2 != 0 || w 5 != 0 || w 6 != 0 || w 7 != 0 }

/-- The function code of a command (R343, R355). -/
def StreamCmd.code : StreamCmd → Nat
  | .scopy => 1 | .sload => 2 | .sstore => 3 | .sfeed => 4 | .sdrain => 5 | .sred => 6 | .sxput => 7 | .simg => 12
def StreamCmd.isRing (m : StreamCmd) : Bool := m == .sfeed || m == .sdrain

/-- The patterned side lies in edge memory. -/
def edgeSide (m : StreamCmd) (edge : Bool) : Bool :=
  match m with
  | .sload => true
  | .sstore => true
  | .sred => true
  | .scopy => false
  | .sxput => false
  | _ => edge
/-- The dense side is at another core. -/
def remoteSide (m : StreamCmd) (p : Site) (dsite : Word) : Bool :=
  m == .sxput || (m == .scopy && dsite != 0 && dsite != siteWord p)

/-- Step 4 of R347: an invalid descriptor or pattern for a command. -/
def streamBad (s : State) (m : StreamCmd) (d : StreamDesc) (g : SG) : Bool :=
  let p := s.cur.1
  let dmod := bitsN d.dsite.toNat 23 18
  let edge := edgeSide m d.edge
  d.reserved || (d.nc && (d.counter != 0 || d.inc != 0 || d.bytes)) || (d.bytes && d.inc != 0)
    || (!d.rca && (d.rinc != 0 || d.rcounter != 0)) || (d.rca && !remoteSide m p d.dsite)
    || (match m with
      | .scopy => dmod != 0
      | .sxput => dmod == 0
      | _ => d.dsite != 0)
    || (m.isRing && d.daddr != 0) || (!m.isRing && (d.edge || d.ring != 0))
    || (!d.named && d.port != 0) || (d.named && (!edge || !portOpen s p d.port))
    || (if m = .sred then decide (1 < d.rop) else d.rop != 0)
    || (m == .sred && d.rop == 1
      && (sgRun g % 26 != 0 || sgBase g % 8 != 0 || (sgDims g).any fun e => e.2 % 8 != 0))
    || sgBad g (!edge)

/-- Kinds of region a stream reads locally (R346). -/
def streamReads : List RegionKind := [.code, .data, .ring]

/-- The first of n bytes from a that lies in no region of the kinds given: regions that follow one another make one span.
Each step passes one region, so as many as there are regions suffice. -/
def regionsOutside (ro : RoleInfo) (kinds : List RegionKind) (a stop : Nat) : Nat → Option Nat
  | 0 => some a
  | fuel + 1 =>
    if stop ≤ a then none
    else match ro.regions.find? fun r => kinds.contains r.kind && r.has a with
      | none => some a
      | some r => regionsOutside ro kinds (r.base + r.size) stop fuel

/-- The first byte outside the regions of the kinds given, for the span of a pattern or a dense span (R347 step 7). -/
def localOutside (ro : RoleInfo) (kinds : List RegionKind) (lo : Int) (n : Nat) : Option Word :=
  if n = 0 then none
  else if lo < 0 then some (BitVec.ofInt 32 lo)
  else (regionsOutside ro kinds lo.toNat (lo.toNat + n) (ro.regions.length + 1)).map (BitVec.ofNat 32)

/-- The local spans of a command, patterned side first: the first byte, the length, and whether it is written. -/
def localSpans (m : StreamCmd) (d : StreamDesc) (remote : Bool) (g : SG) : List (Int × Nat × Bool) :=
  let n := sgLen g
  let pat (w : Bool) : List (Int × Nat × Bool) := if n = 0 then [] else [((sgSpan g).1, (sgSpan g).2, w)]
  let dense (w : Bool) : List (Int × Nat × Bool) := if n = 0 then [] else [((d.daddr : Int), n, w)]
  match m with
  | .scopy => pat false ++ if remote then [] else dense true
  | .sload => dense true
  | .sstore => dense false
  | .sfeed => if d.edge then [] else pat false
  | .sdrain => if d.edge then [] else pat true
  | .sred => dense false
  | .sxput => pat false
  | .simg => if d.edge then [] else pat false

/-- The checks of R347 from step 3 to step 8: the cause, EVAL, SUB and AUX of the first failure. The one ring that is bound
against a command is that of an SFEED with WIN = 1, for which R346 gives EVAL 0; every other binding is waited for (R296). A
ring past the declared count traps RING with EVAL 0, as one that is not configured, where R289 has REGRANGE: the model's choice
(log entry 30). -/
def streamFault (s : State) (i : Instr) (xb : Word) (slot : Nat) (m : StreamCmd) (d : StreamDesc) (g : SG) :
    Option (Nat × Word × Nat × Nat) :=
  let ro := s.here.role
  let remote := remoteSide m s.cur.1 d.dsite
  let n := sgLen g
  let r := s.here.ring d.ring
  let site : Site := d.dsite.extractLsb' 0 18
  if d.counter = 63 ∨ (d.rca ∧ d.rcounter = 63) then some (ILLEGAL, instrWord i, 0, 0)
  else if ro.counters ≤ d.counter ∧ ¬ (d.nc ∧ d.counter = 0) then some (REGRANGE, BitVec.ofNat 32 (0x200 + d.counter), 0, 0)
  else if streamBad s m d g then some (STREAM, xb, 7, slot)
  else if (m = .scopy ∧ remote ∧ !destOk s site) ∨ (m = .sxput ∧ (!moduleNamed s (bitsN d.dsite.toNat 23 18) ∨ s.meshH ≤ site.y)) then
    some (MSG, d.dsite, 0, slot)
  else if m.isRing ∧ (ro.rings ≤ d.ring ∨ r.ns = 0 ∨ (m = .sfeed ∧ r.win)) then some (RING, 0, 0, d.ring)
  else if m.isRing ∧ n % max r.sz 1 ≠ 0 then some (RING, BitVec.ofNat 32 n, 0, d.ring)
  else match (localSpans m d remote g).findSome? fun (lo, k, w) => localOutside ro (if w then [.data] else streamReads) lo k with
    | some a => some (BOUNDS, a, 0, 0)
    | none => if (vget s.here.slots slot).state = .faulted then some (STREAM, BitVec.ofNat 32 slot, 5, slot) else none

/-- Streams a new stream of a slot waits for: those that SBARs in force name (R351). -/
def sbarWaits (c : Core) (slot : Nat) : List Nat :=
  (c.sbars.filter fun b => b.mask.getLsbD slot).flatMap fun b => b.before

/-- A stream is issued: it takes its slot, its locks and its ring side, and is HELD or ACTIVE (R348). A slot that is in use
or a lock table without room stalls (R193, R340); a command that fails a check of R347 traps all the same, for the rules do not say
which comes first: the model's choice (log entry 30). -/
def State.startStream (s : State) (i : Instr) (slot : Nat) (j : StreamJob) (spans : List (Int × Nat × Bool)) : State :=
  let c := s.here
  let locks := spans.flatMap fun (lo, n, w) => lockOf j.id lo.toNat n w
  if (vget c.slots slot).state ≠ .idle ∨ lockRoom c locks = false then s
  else
    let bind (r : Ring) : Ring :=
      if j.cmd = .sfeed then { r with pbound := r.pbound ++ [j.id] } else { r with cbound := r.cbound ++ [j.id] }
    let put (c : Core) : Core :=
      let c := c.lock locks
      let c := if j.cmd.isRing then c.onRing j.ring bind else c
      let c := c.onSlot slot fun t =>
        { t with
          state := if j.waits.isEmpty then .active else .held
          fail := false, cmd := j.cmd.code, gran := 0, job := some j }
      { c with nextCmd := j.id + 1, msg := { c.msg with nextSeq := j.seq + 1 } }
    (s.onHere put).advance i

/-- A transfer command with a descriptor (R345 to R348). -/
def transfer (i : Instr) (rb : XReg) (slot : Nat) (m : StreamCmd) (scope : Scope) (s : State) :
    Host.Outcome State Fault Refusal :=
  gate i s fun s =>
    let a := s.me.rx rb
    record s a 32 32 fun s =>
      let d := streamDesc s.here a.toNat
      let g := s.me.sg
      match streamFault s i a slot m d g with
      | some (code, val, sub, aux) => s.trap code val sub aux
      | none =>
        let remote := remoteSide m s.cur.1 d.dsite
        let j : StreamJob :=
          { id := s.here.nextCmd, cmd := m, ctx := s.cur.2, serial := s.me.serial, sg := g, scope := scope
            dsite := d.dsite, remote := remote, daddr := d.daddr, nc := d.nc, bytes := d.bytes
            counter := d.counter, inc := d.inc, rca := d.rca, rcounter := d.rcounter, rinc := d.rinc
            edge := edgeSide m d.edge, port := if d.named then some d.port else none, ring := d.ring, rop := d.rop
            next := 0, start := 0, off := 0, last := 0, carry := [], buf := [], dest := none, busy := false, cancel := false
            waits := sbarWaits s.here slot, seq := s.here.msg.nextSeq }
        s.startStream i slot j (localSpans m d remote g)

/-- SCOPY (R346). -/
def execScopy (rb : XReg) (scope : Scope) (esel : BitVec 8) (s : State) : Host.Outcome State Fault Refusal :=
  transfer (.scopy rb scope esel) rb esel.toNat .scopy scope s
/-- SLOAD (R346). -/
def execSload (rb : XReg) (scope : Scope) (esel : BitVec 8) (s : State) : Host.Outcome State Fault Refusal :=
  transfer (.sload rb scope esel) rb esel.toNat .sload scope s
/-- SSTORE (R346). -/
def execSstore (rb : XReg) (scope : Scope) (esel : BitVec 8) (s : State) : Host.Outcome State Fault Refusal :=
  transfer (.sstore rb scope esel) rb esel.toNat .sstore scope s
/-- SFEED (R346, R350). -/
def execSfeed (rb : XReg) (esel : BitVec 8) (s : State) : Host.Outcome State Fault Refusal :=
  transfer (.sfeed rb esel) rb esel.toNat .sfeed .core s
/-- SDRAIN (R346, R350). -/
def execSdrain (rb : XReg) (esel : BitVec 8) (s : State) : Host.Outcome State Fault Refusal :=
  transfer (.sdrain rb esel) rb esel.toNat .sdrain .core s
/-- SRED (R346, R370). -/
def execSred (rb : XReg) (scope : Scope) (esel : BitVec 8) (s : State) : Host.Outcome State Fault Refusal :=
  transfer (.sred rb scope esel) rb esel.toNat .sred scope s
/-- SXPUT (R346, R352). -/
def execSxput (rb : XReg) (scope : Scope) (esel : BitVec 8) (s : State) : Host.Outcome State Fault Refusal :=
  transfer (.sxput rb scope esel) rb esel.toNat .sxput scope s

/-- SIMG (R356, R357). -/
def execSimg (ra rb : XReg) (esel : BitVec 8) (s : State) : Host.Outcome State Fault Refusal :=
  let i := Instr.simg ra rb esel
  gate i s fun s =>
    let xa := s.me.rx ra
    let v := xa.toNat
    let off := (s.me.rx rb).toNat
    let g := s.me.sg
    let ro := s.here.role
    let nc := bitN v 14
    let counter := bitsN v 13 8
    let inc := bitsN v 31 16
    let edge := bitN v 7
    let n := sgLen g
    let d : StreamDesc :=
      { dsite := 0, daddr := 0, nc := nc, rca := false, bytes := false, counter := counter, inc := inc, rinc := 0
        rcounter := 0, named := false, edge := edge, port := 0, ring := 0, rop := 0, reserved := false }
    if bitN v 15 ∨ bitsN v 6 2 ≠ 0 ∨ (nc ∧ (inc ≠ 0 ∨ counter ≠ 0)) ∨ sgBad g (!edge) then s.trap STREAM xa 7 esel.toNat
    else if counter = 63 then s.trap ILLEGAL (instrWord i)
    else if ro.counters ≤ counter ∧ !nc then s.trap REGRANGE (BitVec.ofNat 32 (0x200 + counter))
    else match (ro.regions.filter fun r => r.kind == .code)[bitsN v 1 0]? with
      | none => s.trap BOUNDS (BitVec.ofNat 32 (bitsN v 1 0))
      | some r =>
        if off % 4 ≠ 0 then s.trap ALIGN (BitVec.ofNat 32 off)
        else if n ≠ 0 ∧ r.size < off + n then s.trap BOUNDS (BitVec.ofNat 32 (r.base + max off r.size))
        else
          let spans := localSpans .simg d false g
          match spans.findSome? fun (lo, k, _) => localOutside ro streamReads lo k with
          | some a => s.trap BOUNDS a
          | none =>
            if (vget s.here.slots esel.toNat).state = .faulted then s.trap STREAM (BitVec.ofNat 32 esel.toNat) 5 esel.toNat
            else
              let j : StreamJob :=
                { id := s.here.nextCmd, cmd := .simg, ctx := s.cur.2, serial := s.me.serial, sg := g, scope := .core
                  dsite := 0, remote := false, daddr := r.base + off, nc := nc, bytes := false
                  counter := counter, inc := inc, rca := false, rcounter := 0, rinc := 0
                  edge := edge, port := none, ring := 0, rop := 0
                  next := 0, start := 0, off := 0, last := 0, carry := [], buf := [], dest := none, busy := false
                  cancel := false, waits := sbarWaits s.here esel.toNat, seq := s.here.msg.nextSeq }
              s.startStream i esel.toNat j (spans ++ if n = 0 then [] else [(((r.base + off : Nat) : Int), n, true)])

/-! ## Control commands (R351, R353 to R355) -/

/-- SBAR (R351). -/
def execSbar (mask : BitVec 8) (s : State) : Host.Outcome State Fault Refusal :=
  gate (.sbar mask) s fun s =>
    let before := (List.range 8).filterMap fun n =>
      if mask.getLsbD n then (vget s.here.slots n).job.map fun j => j.id else none
    let add (c : Core) : Core := if before.isEmpty then c else { c with sbars := c.sbars ++ [{ mask := mask, before := before }] }
    (s.onHere add).advance (.sbar mask)

/-- A contribution is one of a stream's. -/
def Contribution.isOf (q : Contribution) (p : Site) (slot id : Nat) : Bool := q.site == p && q.slot == slot && q.id == id
/-- Contributions of a stream are on their way. -/
def contributing (s : State) (p : Site) (slot id : Nat) : Bool :=
  let mine (q : Contribution) : Bool := q.isOf p slot id && q.source == s.sysNum
  s.contributions.any mine || s.merges.any (fun m => m.parts.any mine) || s.merged.any fun m => m.parts.any mine
/-- The current granule of a stream has bytes written at its destination already. -/
def granuleBegun (s : State) (p : Site) (slot : Nat) (j : StreamJob) : Bool :=
  (s.core p).msg.out.any (fun m => m.slot == some slot && m.id == j.id) || contributing s p slot j.id
    || (j.off != j.start && !(j.cmd == .sdrain && j.edge))

/-- SCANCEL (R353): a granule that is partly written completes first, and the stream ends with it. The last granule of a
BYTES stream, delivered and not yet counted, is counted. -/
def execScancel (esel : BitVec 8) (s : State) : Host.Outcome State Fault Refusal :=
  let i := Instr.scancel esel
  gate i s fun s =>
    let p := s.cur.1
    match (vget s.here.slots esel.toNat).job with
    | none => s.advance i
    | some j =>
      if granuleBegun s p esel.toNat j then (s.onHere fun c => c.onJob esel.toNat fun j => { j with cancel := true }).advance i
      else
        let s := { s with edgeReqs := s.edgeReqs.filter fun r => !(r.site == p && r.slot == esel.toNat && r.id == j.id) }
        let s := if j.bytes && decide (sgLen j.sg ≤ j.start) && j.last != 0 then s.addCounter p j.counter j.last else s
        (s.onHere fun c => c.endStream esel.toNat true).advance i

/-- SRESUME (R354). -/
def execSresume (esel : BitVec 8) (s : State) : Host.Outcome State Fault Refusal :=
  let i := Instr.sresume esel
  gate i s fun s =>
    let t := vget s.here.slots esel.toNat
    if t.state = .faulted ∧ (t.fsub = 1 ∨ t.fsub = 2) then
      (s.onHere fun c => c.onSlot esel.toNat fun t => { t with state := .active }).advance i
    else s.trap STREAM (BitVec.ofNat 32 esel.toNat) 6 esel.toNat

/-- The code of a slot state (R340). -/
def SlotState.code : SlotState → Nat
  | .idle => 0 | .active => 1 | .held => 2 | .faulted => 3

/-- The word SSTAT writes (R355). -/
def slotWord (c : Core) (slot sel : Nat) : Word :=
  let bit (v : Bool) (n : Nat) : Nat := if v then 2 ^ n else 0
  let t := vget c.slots slot
  match sel with
  | 0 => BitVec.ofNat 32 (t.state.code * 2 ^ 29 + bit t.fail 28 + bit (c.sync.barriers.toList.any fun b => b.tap == some slot) 27
      + t.cmd * 2 ^ 20 + t.gran)
  | 1 => t.fval
  | 2 => BitVec.ofNat 32 (t.fsub * 2 ^ 24 + t.fvah.toNat)
  | _ => 0

/-- SSTAT (R355). -/
def execSstat (rd rb : XReg) (esel : BitVec 8) (s : State) : Host.Outcome State Fault Refusal :=
  let i := Instr.sstat rd rb esel
  gate i s fun s => s.result i rd (slotWord s.here esel.toNat (s.me.rx rb).toNat)

end Sys2Proof.Machine
end

