-- ==== Sys2Proof/Machine/StreamRun.lean ====
section
/-!
DEFINITION. A stream at work in its core (R348 to R352, R365, R370, R378): the rows STREAM_ACTIVATE, GRANULE and STREAM_END,
for slot `num` of the core in `cur`.
-/
namespace Sys2Proof.Machine
open Sys2Proof

/-- A granule has begun: bytes of it are out of their source (R353, R371). -/
def granuleOpen (j : StreamJob) : Bool := j.off != j.start || !j.buf.isEmpty
/-- The core in `cur` may work on the stream of slot `num` in a state; a halted one may finish a granule it has begun
(R371). -/
def streamAt (s : State) (st : SlotState) : Option StreamJob :=
  let c := s.here
  let t := vget c.slots s.num
  if !c.live || decide (8 ≤ s.num) || t.state != st then none
  else t.job.filter fun j => !c.halted || st == .active && granuleOpen j

/-- STREAM_ACTIVATE: a HELD stream becomes ACTIVE once the streams it waits for have ended (R351). -/
def execStreamActivate (s : State) : Host.Outcome State Fault Refusal :=
  .next (match streamAt s .held with
    | none => s
    | some j => if j.waits.isEmpty then s.onHere fun c => c.onSlot s.num fun t => { t with state := .active } else s)

/-! ## Local reads and writes -/

/-- Reads n bytes of core p for a stream: errors are reported, and the bytes are as they stand (R364). -/
def streamRead (s : State) (p : Site) (j : StreamJob) (a n : Nat) : List Byte × State :=
  ((s.core p).bytes a n, s.commit p ((⟨s.core p, [], qzero, false⟩ : TWork).read j.ctx j.serial a n))
/-- Writes bytes of a stream at core p. -/
def streamWrite (s : State) (p : Site) (j : StreamJob) (a : Nat) (bs : List Byte) : State :=
  s.commit p ((⟨s.core p, [], qzero, false⟩ : TWork).write j.ctx j.serial a bs)
/-- A stream may access n bytes of its core: no earlier command's lock delays it, and no page is absent (R194, R398). -/
def streamReady (c : Core) (j : StreamJob) (a n : Nat) (write : Bool) : Bool := !held c j.id a n write && !absent c a n

/-- Bytes land at their place of the dense side of a stream, which delivers its granule (R348). -/
def denseLands (s : State) (p : Site) (slot : Nat) (j : StreamJob) (bs : List Byte) : State :=
  (streamWrite s p j (j.daddr + j.start) bs).delivered p slot

/-! ## Rings (R296, R298, R350) -/

/-- Bytes of the granule that the current slot of a ring still takes or gives. -/
def pieceLen (r : Ring) (j : StreamJob) (n : Nat) : Nat := min (j.start + n - j.off) (r.sz - j.off % max r.sz 1)

/-- The stream has moved m bytes on. -/
def Core.moved (c : Core) (slot m : Nat) : Core := c.onJob slot fun j => { j with off := j.off + m }

/-- The slot at TAIL takes m bytes: it is the stream's turn, the slot is free and its page is there. -/
def ringReady (c : Core) (j : StreamJob) (m : Nat) : Bool :=
  let r := c.ring j.ring
  r.pbound.head? == some j.id && decide (r.fill < r.ns) && !absent c (r.slot r.tail + j.off % max r.sz 1) m

/-- Bytes of a granule of n go into the ring slot at TAIL, which is pushed once it is whole. -/
def ringTake (s : State) (p : Site) (slot : Nat) (j : StreamJob) (n : Nat) (bs : List Byte) : State :=
  let r := (s.core p).ring j.ring
  let a := r.slot r.tail + j.off % max r.sz 1
  if !ringReady (s.core p) j bs.length then s
  else
    let s := streamWrite s p j a bs
    let whole := (j.off + bs.length) % max r.sz 1 = 0
    let s := s.onCore p fun c => (if whole then c.onRing j.ring fun r => r.push 1 else c).moved slot bs.length
    if j.off + bs.length = j.start + n then s.delivered p slot else s

/-- The next bytes of a granule of n leave the ring slot at HEAD, which is popped after its last; a ring that is dry and
marked FAIL ends the stream failed (R350). `put` has what becomes of them. -/
def ringGive (s : State) (p : Site) (slot : Nat) (j : StreamJob) (n : Nat) (put : State → List Byte → State) : State :=
  let r := (s.core p).ring j.ring
  let m := pieceLen r j n
  let a := r.slot r.head + j.off % max r.sz 1
  if r.cbound.head? ≠ some j.id then s
  else if r.fill = 0 then (if r.fail then s.onCore p fun c => c.endStream slot true else s)
  else if absent (s.core p) a m then s
  else
    let (bs, s) := streamRead s p j a m
    let s := if (j.off + m) % max r.sz 1 = 0 then s.popRing p j.ring 1 else s
    put (s.onCore p fun c => c.moved slot m) bs

/-! ## Edge granules (R359, R360, R378) -/

/-- Where a granule of edge memory lies: the device address, and the alias page, if it is one. -/
abbrev EdgePlace := Nat × Option (Nat × Nat × Nat)

/-- The device bytes an access to a place touches: of an alias page the codes and the headers (R368). -/
def placeSpans (d : EdgePlace) (n : Nat) : List (Nat × Nat) :=
  match d.2 with
  | none => [(d.1, n)]
  | some (size, base, off) =>
    let b0 := off / 32
    let b1 := (off + max n 1 - 1) / 32
    [(base + 16 * b0, 16 * (b1 + 1 - b0)), (base + size / 2 + 2 * b0, 2 * (b1 + 1 - b0))]

/-- Translates the granule of n bytes at va for a stream and checks the access: its place, or the state in which the stream
has faulted or failed (R360, R364). -/
def edgePlace (s : State) (p : Site) (slot : Nat) (j : StreamJob) (va n : Nat) (reads writes : Bool) :
    State × Option EdgePlace :=
  match portOf s p j.port with
  | none => (s.streamFails p slot STREAM 3 va (BitVec.ofNat 32 va), none)
  | some port =>
    match translate s port (s.core p).role.asid va with
    | (s, .error .trans) => (s.streamFaults p slot 1 va, none)
    | (s, .error .device) => (s.streamFails p slot STREAM 3 va (BitVec.ofNat 32 va), none)
    | (s, .error (.bad a)) => ((s.countError (homeSite a)).streamFails p slot STREAM 3 va (BitVec.ofNat 32 va), none)
    | (s, .ok (size, e)) =>
      let base := bitsN e 45 8 * 2 ^ 8
      let off := va % size
      let alias_ := bitN e 5
      if (reads && !bitN e 2) || (writes && !bitN e 3) || (alias_ && reads && writes) then (s.streamFaults p slot 2 va, none)
      else
        let d : EdgePlace := if alias_ then (base, some (size, base, off)) else (base + off, none)
        if (placeSpans d n).all fun (a, k) => deviceOk s a k then (s, some d)
        else (s.streamFails p slot STREAM 3 va (BitVec.ofNat 32 va), none)

/-- Sends a granule to its home port. -/
def State.toHome (s : State) (p : Site) (slot : Nat) (j : StreamJob) (va n : Nat) (d : EdgePlace) (op : EdgeOp) : State :=
  let r : EdgeReq := { site := p, slot := slot, id := j.id, va := va, dev := d.1, len := n, aliasPg := d.2, op := op }
  let s := { s with edgeReqs := s.edgeReqs ++ [r] }
  s.onCore p fun c => c.onJob slot fun j => { j with busy := true }

/-! ## Reductions (R370, R378) -/

/-- The words of a granule as reductions of ROP 0. -/
def wordParts (d va : Nat) (bs : List Byte) : List RedPart :=
  (List.range (bs.length / 4)).map fun k =>
    { pieces := [(d + 4 * k, 4)], data := (bs.drop (4 * k)).take 4, va := va + 4 * k }

/-- The pieces of block b in the granule [start, start + n) at an address, after those earlier granules hold of it. -/
def blockPieces (carry : List (Nat × Nat)) (start n d b : Nat) : List (Nat × Nat) :=
  let lo := max (104 * b) start
  let hi := min (104 * b + 104) (start + n)
  (if 104 * b < start then carry else []) ++ [(d + (lo - start), hi - lo)]
/-- The blocks that end in the granule [start, start + n) at device address d (R370). `src` gives the bytes of a block from
the dense side. -/
def blockParts (g : SG) (src : Nat → List Byte) (carry : List (Nat × Nat)) (start n d : Nat) : List RedPart :=
  let first := start / 104
  (List.range ((start + n) / 104 - first)).map fun k =>
    { pieces := blockPieces carry start n d (first + k), data := src (104 * (first + k)), va := sgAddr g (104 * (first + k)) }
/-- The virtual pieces of the block that goes on after the granule [start, start + n) at va. -/
def blockRest (carry : List (Nat × Nat)) (start n va : Nat) : List (Nat × Nat) :=
  if (start + n) % 104 = 0 then [] else blockPieces carry start n va ((start + n) / 104)
/-- The device places of pieces that earlier granules left, translated now: no translation outlives its granule (R361, R371). -/
def placePieces (s : State) (p : Site) (slot : Nat) (j : StreamJob) : List (Nat × Nat) → State × Option (List (Nat × Nat))
  | [] => (s, some [])
  | (va, n) :: l =>
    match edgePlace s p slot j va n true true with
    | (s, none) => (s, none)
    | (s, some d) =>
      match placePieces s p slot j l with
      | (s, none) => (s, none)
      | (s, some r) => (s, some ((d.1, n) :: r))

/-- The window of another module a device address falls in, whichever reduction it was made for (R378). -/
def windowOf (s : State) (d : Nat) : Option Window :=
  s.windows.find? fun w => w.home != s.sysNum && decide (w.base ≤ d ∧ d < w.base + w.size)

/-- Sends the reductions of a granule through the bridge to the switch; with no bridge, or one that is down, the stream ends
failed (R377, R378). -/
def State.toSwitch (s : State) (p : Site) (slot : Nat) (j : StreamJob) (w : Window) (parts : List RedPart) : State :=
  match (bridgeOf s p).filter fun e => (vget s.links e).state != .down with
  | none => s.streamFails p slot LINK 0 0 (windowSite s w)
  | some e =>
    let one (q : RedPart) : Contribution :=
      { window := w, rop := j.rop, target := w.hbase + ((q.pieces.headD (0, 0)).1 - w.base), data := q.data
        source := s.sysNum, link := e, site := p, slot := slot, id := j.id, va := q.va }
    let s := { s with contributions := s.contributions ++ parts.map one }
    s.onCore p fun c => c.onJob slot fun j => { j with busy := true }

/-- A granule of an SRED: its words or blocks go to the home port, or to the switch; one that completes no block is
delivered at once. -/
def reduceGranule (s : State) (p : Site) (slot : Nat) (j : StreamJob) (va n : Nat) : State :=
  let src (off k : Nat) : List Byte := (s.core p).bytes (j.daddr + off) k
  if !streamReady (s.core p) j (j.daddr + j.start) n false then s
  else match edgePlace s p slot j va n true true with
    | (s, none) => s
    | (s, some d) =>
     match placePieces s p slot j (if 104 ≤ j.start % 104 + n then j.carry else []) with
     | (s, none) => s
     | (s, some carried) =>
      let s := (streamRead s p j (j.daddr + j.start) n).2
      let parts := if j.rop = 0 then wordParts d.1 va (src j.start n)
        else blockParts j.sg (fun off => src off 104) carried j.start n d.1
      let carry := if j.rop = 0 then [] else blockRest j.carry j.start n va
      let s := s.onCore p fun c => c.onJob slot fun j => { j with carry := carry }
      if parts.isEmpty then s.delivered p slot
      else match windowOf s d.1 with
        | some w => s.toSwitch p slot j w parts
        | none => s.toHome p slot j va n d (.reduce j.rop parts)

/-! ## Puts of a stream (R352) -/

/-- The header of the PUT of a granule: the last one carries the remote add. -/
def putHdr (p : Site) (j : StreamJob) (n : Nat) : Hdr :=
  let ca := j.rca && decide (sgLen j.sg ≤ j.start + n)
  #v[BitVec.ofNat 32 ((if ca then 2 ^ 31 else 0) + kPUT * 2 ^ 24 + bitsN j.dsite.toNat 23 0),
    BitVec.ofNat 32 (j.scope.code * 2 ^ 27 + j.ctx.val * 2 ^ 24 + p.toNat),
    BitVec.ofNat 32 (n * 2 ^ 12), 0, BitVec.ofNat 32 ((j.daddr + j.start) % 2 ^ 18), 0,
    BitVec.ofNat 32 (if ca then j.rinc * 2 ^ 16 + j.rcounter else 0), 0]

/-- A granule leaves as a PUT; it is delivered when its ACK returns. -/
def putGranule (s : State) (p : Site) (slot : Nat) (j : StreamJob) (a n : Nat) : State :=
  let h := putHdr p j n
  let rid := (s.core p).msg.nextSeq
  let (bs, t) := streamRead s p j a n
  let out : OutMsg :=
    { rid := rid, id := j.id, ctx := j.ctx, serial := j.serial, seq := rid, slot := some slot, hdr := h, landed := 0 }
  let t := t.onCore p fun c =>
    { c.onJob slot (fun j => { j with busy := true }) with msg := { c.msg with out := c.msg.out ++ [out], nextSeq := rid + 1 } }
  (t.sendMsg p h bs (8 + slot) (some rid)
    (.req { hdr := h, payload := bs, rid := rid, launch := some (s.core p).role.launch })).getD s

/-! ## GRANULE and STREAM_END -/

/-- The next granule of a stream that is not on its way, or the next part of one that a ring takes or gives, into a ring as many
lines of it as the event says (R119, R348). -/
def granule (s : State) (p : Site) (slot : Nat) (j : StreamJob) : State :=
  let c := s.core p
  let n := granuleLen j.sg j.start
  let va := sgAddr j.sg j.start
  match j.cmd with
  | .scopy =>
    if !streamReady c j va n false then s
    else if j.remote then putGranule s p slot j va n
    else if !streamReady c j (j.daddr + j.start) n true then s
    else let (bs, t) := streamRead s p j va n; denseLands t p slot j bs
  | .sxput => if streamReady c j va n false then putGranule s p slot j va n else s
  | .sload =>
    match edgePlace s p slot j va n true false with
    | (s, none) => s
    | (s, some d) => s.toHome p slot j va n d .read
  | .simg =>
    if j.edge then
      match edgePlace s p slot j va n true false with
      | (s, none) => s
      | (s, some d) => s.toHome p slot j va n d .read
    else if !streamReady c j va n false || !streamReady c j (j.daddr + j.start) n true then s
    else let (bs, t) := streamRead s p j va n; denseLands t p slot j bs
  | .sstore =>
    if !streamReady c j (j.daddr + j.start) n false then s
    else match edgePlace s p slot j va n false true with
      | (s, none) => s
      | (s, some d) =>
        let (bs, s) := streamRead s p j (j.daddr + j.start) n
        s.toHome p slot j va n d (.write bs)
  | .sred => reduceGranule s p slot j va n
  | .sfeed =>
    let r := c.ring j.ring
    let whole := pieceLen r j n
    let m := (s.pieceOf (r.slot r.tail + j.off % max r.sz 1) whole).getD whole
    let a := va + (j.off - j.start)
    if !j.edge then
      (if !streamReady c j a m false || !ringReady c j m then s
        else let (bs, t) := streamRead s p j a m; ringTake t p slot j n bs)
    else if j.buf.isEmpty then
      match edgePlace s p slot j va n true false with
      | (s, none) => s
      | (s, some d) => s.toHome p slot j va n d .read
    else ringTake s p slot j n ((j.buf.drop (j.off - j.start)).take m)
  | .sdrain =>
    let a := va + (j.off - j.start)
    if !j.edge then
      (if !streamReady c j a (pieceLen (c.ring j.ring) j n) true then s
        else ringGive s p slot j n fun t bs =>
          let t := streamWrite t p j a bs
          if j.off + bs.length = j.start + n then t.delivered p slot else t)
    else match j.dest with
      | none =>
        (match edgePlace s p slot j va n false true with
        | (s, none) => s
        | (s, some d) => s.onCore p fun c => c.onJob slot fun j => { j with dest := some d })
      | some d =>
        ringGive s p slot j n fun t bs =>
          let buf := j.buf ++ bs
          if buf.length = n then t.toHome p slot j va n d (.write buf)
          else t.onCore p fun c => c.onJob slot fun j => { j with buf := buf }

/-- A stream has delivered everything; a zero-length one to another core has sent its one PUT (R349, R352). -/
def streamOver (j : StreamJob) : Bool := decide (sgLen j.sg ≤ j.start) && !(j.remote && j.next == 0)

/-- GRANULE. -/
def execGranule (s : State) : Host.Outcome State Fault Refusal :=
  .next (match streamAt s .active with
    | none => s
    | some j => if j.busy || streamOver j then s else granule s s.cur.1 s.num j)

/-- STREAM_END: the locks go, the END add or the last BYTES add is made, the slot is IDLE and a tapped arrival is made
(R348, R349). -/
def execStreamEnd (s : State) : Host.Outcome State Fault Refusal :=
  .next (match streamAt s .active with
    | none => s
    | some j =>
      if j.busy || !streamOver j then s
      else
        let p := s.cur.1
        let s := if j.bytes then (if j.last = 0 then s else s.addCounter p j.counter j.last)
          else if j.nc then s else s.addCounter p j.counter j.inc
        s.onCore p fun c => c.endStream s.num false)

end Sys2Proof.Machine
end

