-- ==== Sys2Proof/Machine/Edge.lean ====
section
/-!
DEFINITION. Accesses at the home ports (R361, R368 to R370), and the reduction windows of the Hormar switch (R378, R379):
the rows HOME_PORT_ACCESS, WINDOW_CONTRIBUTION, HOLD_TIME_EXPIRY and MERGED_CONTRIBUTION.
-/
namespace Sys2Proof.Machine
open Sys2Proof

/-! ## Edge memory -/

/-- Writes bytes at a device address: an error they cover whole is replaced. -/
def State.edgePut (s : State) (a : Nat) (bs : List Byte) : State :=
  { s with
    edge := writeBytes s.edge a bs
    edgeBad := s.edgeBad.filter fun w => !decide (a ≤ w ∧ w + 8 ≤ a + bs.length) }
/-- A write of n bytes that covers a word with an error in part. -/
def edgeBadPart (s : State) (a n : Nat) : Bool :=
  s.edgeBad.any fun w => decide (w < a + n ∧ a < w + 8) && !decide (a ≤ w ∧ w + 8 ≤ a + n)

/-! ## Alias pages (R368, R369) -/

/-- Element e of an alias page as F32 (R369). -/
def aliasElem (s : State) (size base e : Nat) : Word :=
  rneF32 (elemValue (readNat s.edge (base + e) 1) (readNat s.edge (base + size / 2 + 2 * (e / 16)) 2) (e % 16) true)
/-- n bytes at an offset of an alias page, as BF16 elements. -/
def aliasRead (s : State) (size base off n : Nat) : List Byte :=
  ((List.range (n / 2)).map fun k => bytesOfNat 2 (f32ToBf16 (aliasElem s size base (off / 2 + k))).1.toNat).flatten
/-- Block b of an alias page with the elements that bytes at an offset give, requantised (R36, R369). -/
def aliasBlock (s : State) (size base off : Nat) (bs : List Byte) (b : Nat) : State :=
  let elem (k : Nat) : Word :=
    let o := 2 * (16 * b + k)
    if off ≤ o ∧ o + 2 ≤ off + bs.length then BitVec.ofNat 32 (natOfBytes ((bs.drop (o - off)).take 2) * 2 ^ 16)
    else aliasElem s size base (16 * b + k)
  let (codes, hdr, _) := qblock ((List.range 16).map elem) 0x3F800000 false true
  (s.edgePut (base + 16 * b) (bytesOfNat 16 (packCodes codes true))).edgePut (base + size / 2 + 2 * b) (bytesOfNat 2 hdr)
/-- Writes BF16 elements at an offset of an alias page. -/
def aliasWrite (s : State) (size base off : Nat) (bs : List Byte) : State :=
  let b0 := off / 32
  let b1 := (off + bs.length - 1) / 32
  if bs.isEmpty then s
  else (List.range (b1 + 1 - b0)).foldl (fun s k => aliasBlock s size base off bs (b0 + k)) s

/-! ## Reductions (R370) -/

/-- The bytes of a word or block in edge memory, and their replacement. -/
def piecesRead (s : State) (l : List (Nat × Nat)) : List Byte := l.flatMap fun (a, n) => readBytes s.edge a n
def piecesWrite (s : State) : List (Nat × Nat) → List Byte → State
  | [], _ => s
  | (a, n) :: l, bs => piecesWrite (s.edgePut a (bs.take n)) l (bs.drop n)
def addF32 (a b : Nat) : Nat := (rneSum (BitVec.ofNat 32 a) (BitVec.ofNat 32 b)).toNat

/-- The header of a stored block is invalid, so that it reads as NaR (R39). -/
def hdrInvalid (v : Nat) : Bool := bitsN (v / 2 ^ 768) 63 30 != 0 || bitsN (v / 2 ^ 768) 11 0 == 4095
/-- The aligned lanes of a contribution (R370, R379): none where one breaks the entry bound. -/
def alignedLanes (c : Acc) (x : Nat) : Option (List Lane) :=
  let l := c.lanes.map fun v => accAlign v c.x x
  if l.all entryFits then some l else none
/-- A block with aligned lanes added; none where it is rejected (R370): the header is kept but for FRESH. -/
def reduceLanes (t : Nat) (add : List Lane) : Option (List Byte) :=
  if hdrInvalid t then none
  else
    let b := accOfNat t
    let hdr := t / 2 ^ 768
    let l := (if b.fresh then List.replicate 16 (some 0) else b.lanes).zipWith laneAdd add
    if l.any laneBig then none
    else some ((l.map fun v => bytesOfNat 6 (laneNat v)).flatten ++ bytesOfNat 8 (hdr - hdr / 2 ^ 12 % 2 * 2 ^ 12))
/-- Whether a stored block is fresh, and its X; a fresh one keeps the X of its header (R370). -/
def storedX (t : Nat) : Nat := bitsN (t / 2 ^ 768) 11 0

/-- STREAM subcode 8 to the stream of a rejected word or block, the last fault of its slot (R355, R364, R370). -/
def State.rejectTo (s : State) (p : Site) (slot : Nat) (j : StreamJob) (va : Nat) : State :=
  (s.onCore p fun c => c.slotFault slot 8 va).asyncFault p j.ctx j.serial { code := STREAM, sub := 8, aux := slot, val := BitVec.ofNat 32 va }

/-- One word or block of an SRED (R370). -/
def reducePart (s : State) (p : Site) (slot : Nat) (j : StreamJob) (rop : Nat) (q : RedPart) : State :=
  let t := natOfBytes (piecesRead s q.pieces)
  if rop = 0 then piecesWrite s q.pieces (bytesOfNat 4 (addF32 t (natOfBytes q.data)))
  else match (alignedLanes (accOfNat (natOfBytes q.data)) (storedX t)).bind (reduceLanes t) with
    | some bs => piecesWrite s q.pieces bs
    | none => s.rejectTo p slot j q.va

/-! ## HOME_PORT_ACCESS -/

/-- Takes an edge request from the list. -/
def State.dropReq (s : State) (rest : List EdgeReq) : State := { s with edgeReqs := rest }

/-- The bytes an SLOAD, SFEED or SIMG has read come back: into scratchpad, or to wait for ring slots; none while the
landing has to wait. -/
def readReturns (s : State) (r : EdgeReq) (j : StreamJob) (bs : List Byte) : Option State :=
  if j.cmd = .sfeed then
    some (s.onCore r.site fun c => c.onJob r.slot fun j => { j with buf := bs, busy := false })
  else if streamReady (s.core r.site) j (j.daddr + j.start) bs.length true then some (denseLands s r.site r.slot j bs)
  else none

/-- HOME_PORT_ACCESS: the home port performs edge request `num`; an error the memory reports ends the stream failed
(R360, R369, R370). A request of a stream that has ended is dropped. -/
def execHomePortAccess (s : State) : Host.Outcome State Fault Refusal :=
  .next (match takeAt s.edgeReqs s.num with
    | none => s
    | some (r, rest) =>
      let t := s.dropReq rest
      match (t.core r.site).jobOf r.slot r.id with
      | none => t
      | some j =>
        let spans := placeSpans (r.dev, r.aliasPg) r.len
        let bad := match r.op, r.aliasPg with
          | .write _, none => edgeBadPart t r.dev r.len
          | .reduce _ parts, _ => parts.any fun q => q.pieces.any fun (a, n) => deviceBad t a n
          | _, _ => spans.any fun (a, n) => deviceBad t a n
        if bad then (t.countError (homeSite r.dev)).streamFails r.site r.slot STREAM 3 r.va (BitVec.ofNat 32 r.va)
        else match r.op with
          | .read =>
            let bs := match r.aliasPg with
              | none => readBytes t.edge r.dev r.len
              | some (size, base, off) => aliasRead t size base off r.len
            (readReturns t r j bs).getD s
          | .write bs =>
            let t := match r.aliasPg with
              | none => t.edgePut r.dev bs
              | some (size, base, off) => aliasWrite t size base off bs
            t.delivered r.site r.slot
          | .reduce rop parts => (parts.foldl (fun s q => reducePart s r.site r.slot j rop q) t).delivered r.site r.slot)

/-! ## Reduction windows (R379) -/

/-- The granule of a contributor is delivered once none of its contributions is on its way. -/
def contributorAck (s : State) (q : Contribution) : State :=
  if q.source ≠ s.sysNum then s
  else match (s.core q.site).jobOf q.slot q.id with
    | none => s
    | some j => if j.busy && !contributing s q.site q.slot q.id then s.delivered q.site q.slot else s

/-- A contribution is rejected: its stream in this module hears of it. -/
def contributorReject (s : State) (q : Contribution) : State :=
  if q.source ≠ s.sysNum then s
  else match (s.core q.site).jobOf q.slot q.id with
    | none => s
    | some j => s.rejectTo q.site q.slot j q.va

/-- A contribution added to the merge of its target; none where it is rejected alone. -/
def mergeWith (m : Option Merge) (q : Contribution) : Option Merge :=
  let w := q.window
  let v := natOfBytes q.data
  if q.rop = 0 then
    some (match m with
      | none => { window := w, rop := 0, target := q.target, word := BitVec.ofNat 32 v, lanes := [], parts := [q] }
      | some m => { m with word := BitVec.ofNat 32 (addF32 m.word.toNat v), parts := m.parts ++ [q] })
  else (alignedLanes (accOfNat v) w.xw).map fun l =>
    match m with
    | none => { window := w, rop := q.rop, target := q.target, word := 0, lanes := l, parts := [q] }
    | some m => { m with lanes := m.lanes.zipWith laneAdd l, parts := m.parts ++ [q] }

/-- A contribution of another module that takes part in a window of this one: its window, module, place and bytes are free
(R379, log entry 31). -/
def foreignContribution (s : State) : Option Contribution :=
  let (n, m, off, bs) := Config.foreignPart s.freeCount
  let source := (s.sysNum + 1 + m % 63) % 64
  match s.windows[n % max s.windows.length 1]? with
  | none => none
  | some w =>
    let size := if w.rop = 0 then 4 else 104
    if !s.modules.contains source || source == w.home || off % (if w.rop = 0 then 4 else 8) != 0 || decide (w.size < off + size)
    then none
    else some { window := w, rop := w.rop, target := w.hbase + off, data := (bs ++ List.replicate size 0).take size
                source := source, link := 0, site := 0, slot := 0, id := 0, va := 0 }

/-- The switch takes a contribution: it is merged, or rejected alone; a merge of K contributions is forwarded (R379). -/
def switchTakes (s : State) (q : Contribution) : State :=
  let same (m : Merge) : Bool := m.window == q.window && m.rop == q.rop && m.target == q.target
  match mergeWith (s.merges.find? same) q with
  | none => contributorAck (contributorReject s q) q
  | some m =>
    let others := s.merges.filter fun m => !same m
    if q.rop ≠ 0 ∧ m.parts.length = q.window.k then { s with merges := others, merged := s.merged ++ [m] }
    else { s with merges := others ++ [m] }

/-- WINDOW_CONTRIBUTION: contribution `num` reaches the switch with all those of its granule, for a granule acts as a whole or not
at all (R377), unless its link retrains; with no such contribution one of another module does (R376, R379). -/
def execWindowContribution (s : State) : Host.Outcome State Fault Refusal :=
  .next (match takeAt s.contributions s.num with
    | none =>
      let t := { s with freeCount := s.freeCount + 1 }
      (match foreignContribution s with
        | none => t
        | some q => switchTakes t q)
    | some (q, _) =>
      let alike (g : Contribution) : Bool := g.site == q.site && g.slot == q.slot && g.id == q.id
      if (vget s.links q.link).state ≠ .up then s
      else (s.contributions.filter alike).foldl switchTakes { s with contributions := s.contributions.filter fun g => !alike g })

/-- HOLD_TIME_EXPIRY: the switch forwards merge `num` (R379). -/
def execHoldTimeExpiry (s : State) : Host.Outcome State Fault Refusal :=
  .next (match takeAt s.merges s.num with
    | none => s
    | some (m, rest) => { s with merges := rest, merged := s.merged ++ [m] })

/-- Performs a merged contribution in the edge memory of this module: the state, and whether it is rejected (R370, R379). An
error the memory reports leaves it alone, and ends the contributing streams failed (R360, R406). -/
def mergedAtHome (s : State) (m : Merge) : State × Bool :=
  if deviceBad s m.target (if m.rop = 0 then 4 else 104) then
    (m.parts.foldl (fun s q =>
      if q.source = s.sysNum ∧ ((s.core q.site).jobOf q.slot q.id).isSome then
        s.streamFails q.site q.slot STREAM 3 q.va (BitVec.ofNat 32 q.va)
      else s) (s.countError (homeSite m.target)), false)
  else if m.rop = 0 then
    (s.edgePut m.target (bytesOfNat 4 (addF32 (readNat s.edge m.target 4) m.word.toNat)), false)
  else
    let t := readNat s.edge m.target 104
    match (if storedX t = m.window.xw then reduceLanes t m.lanes else none) with
    | some bs => (s.edgePut m.target bs, false)
    | none => (s, true)

/-- MERGED_CONTRIBUTION: merged contribution `num` is performed or rejected at its home port, and its contributors are
acknowledged (R379). At a home port of another module the operand says which of the two it was. -/
def execMergedContribution (rejected : Bool) (s : State) : Host.Outcome State Fault Refusal :=
  .next (match takeAt s.merged s.num with
    | none => s
    | some (m, rest) =>
      let s := { s with merged := rest }
      let (s, no) := if m.window.home = s.sysNum then mergedAtHome s m else (s, rejected)
      let s := if no && m.rop != 0 then m.parts.foldl contributorReject s else s
      m.parts.foldl contributorAck s)

end Sys2Proof.Machine
end

