-- ==== Sys2Proof/Machine/HostPort.lean ====
section
/-!
DEFINITION. The host ports: BAR0 registers and the work queues (R385, R386, R403, R412), host memory, and the completion
areas (R399). The rows SUBMIT, QUEUE_ENABLE, QUEUE_DISABLE and REGISTER_WRITE name queue `num`.
-/
namespace Sys2Proof.Machine
open Sys2Proof

def State.onStation (s : State) (f : Station → Station) : State := { s with station := f s.station }
def State.queue (s : State) (q : Nat) : Queue := (assocGet s.station.queues q).getD Queue.blank
def State.onQueue (s : State) (q : Nat) (f : Queue → Queue) : State :=
  s.onStation fun t => { t with queues := assocSet t.queues q (f (s.queue q)) }

/-- The place of a host-port address in host memory (R389). -/
def hostAddr (port a : Nat) : Nat := port * 2 ^ 64 + a % 2 ^ 64
def State.hostRead (s : State) (port a n : Nat) : List Byte := readBytes s.host (hostAddr port a) n
def State.hostWrite (s : State) (port a : Nat) (bs : List Byte) : State :=
  { s with host := writeBytes s.host (hostAddr port a) bs }

/-- After a failed signature check the host ports serve MODSTAT and the upload window alone (R410, R412). -/
def uploadOnly (s : State) : Bool := s.station.state == .failed && s.station.sigBad
/-- The station serves its queues (R410, R411). -/
def serving (s : State) : Bool := s.station.state == .reduced || s.station.state == .full

/-! ## Queue registers -/

/-- SUBMIT: a host write of SUBMIT (R386). -/
def execSubmit (val : DWord) (s : State) : Host.Outcome State Fault Refusal :=
  let q := s.queue s.num
  .next (if uploadOnly s || decide (32768 ≤ s.num) || decide (val.toNat < q.submit.toNat) then s
    else if 2 ^ q.log2 < val.toNat - q.taken.toNat then s.onQueue s.num fun q => { q with err := true, en := false }
    else s.onQueue s.num fun q => { q with submit := val })

/-- QUEUE_ENABLE: a host port sets QCTL.EN (R385, R389). -/
def execQueueEnable (port : Fin 2) (s : State) : Host.Outcome State Fault Refusal :=
  .next (if uploadOnly s || decide (32768 ≤ s.num) then s
    else s.onQueue s.num fun q => { q with en := true, err := false, port := port.val })

/-- QUEUE_DISABLE: QCTL.EN is cleared (R385). -/
def execQueueDisable (s : State) : Host.Outcome State Fault Refusal :=
  .next (if uploadOnly s || decide (32768 ≤ s.num) then s else s.onQueue s.num fun q => { q with en := false })

/-- A write of QBASE or of QCTL but for EN: ignored while EN is set (R385). -/
def queueWrite (q : Queue) (r v : Nat) : Queue :=
  if q.en then q
  else if r = 0 then { q with base := BitVec.ofNat 64 (v / 8 * 8) }
  else if r = 8 then { q with log2 := bitsN v 19 16, prio := bitsN v 10 8, part := bitsN v 5 0 }
  else q

/-- REGISTER_WRITE: a write to a BAR0 offset whose effect is the value it leaves; every other one is ignored (R385, R403,
R412). FWLEN holds 0x8_0000 where more is written, the most R412 allows: the model's choice (log entry 36). -/
def execRegisterWrite (off : Nat) (val : DWord) (s : State) : Host.Outcome State Fault Refusal :=
  let v := val.toNat
  .next (
    if uploadOnly s then
      if off = 8 then s.onStation fun t => { t with fwLen := min (bitsN v 19 0) 0x80000 }
      else if 0x180000 ≤ off ∧ off + 8 ≤ 0x200000 then
        s.onStation fun t => { t with window := writeBytes t.window (off - 0x180000) (bytesOfNat 8 v) }
      else s
    else if 0x200000 ≤ off ∧ off < 0x400000 then
      let q := (off - 0x200000) / 64
      s.onQueue q fun t => queueWrite t ((off - 0x200000) % 64) v
    else s)

/-! ## Status (R403) -/

def ModState.code : ModState → Nat
  | .boot => 0 | .reduced => 1 | .full => 2 | .failed => 3
/-- MODSTAT. -/
def modstat (t : Station) : Nat :=
  let passed := (t.fields.toList.filter fun f => f.state == .service).length
  t.state.code * 2 ^ 30 + t.svn % 256 * 2 ^ 16 + passed * 2 ^ 8 + if t.sigOk then 2 ^ 7 else 0

def FieldState.code : FieldState → Nat
  | .absent => 0 | .testing => 1 | .service => 2 | .withdrawn => 3
/-- PEND: the cores of field f marked for retirement (R404). -/
def pend (s : State) (f : Nat) : Nat :=
  (s.cores.filter fun e => e.2.scratch.marked && fieldOf (BitVec.ofNat 18 e.1) == f).length
/-- The field record of field f, 16 words. -/
def fieldRecord (s : State) (f : Nat) : List Word :=
  let t := vget s.station.fields f
  let bit (o : Option Nat) (n : Nat) : Nat := if o.isSome then 2 ^ n else 0
  [BitVec.ofNat 32 (FieldState.code t.state * 2 ^ 30 + t.opp % 16 * 2 ^ 26 + bit t.west 25 + bit t.east 24 + pend s f % 2 ^ 16),
    BitVec.ofNat 32 t.corrected, BitVec.ofNat 32 t.uncorrected] ++ List.replicate 13 0
/-- QCTL and QFAULT (R385). -/
def Queue.ctl (q : Queue) : Nat :=
  (if q.en then 2 ^ 31 else 0) + (if q.err then 2 ^ 30 else 0) + q.log2 % 16 * 2 ^ 16 + q.prio % 8 * 2 ^ 8 + q.part % 64
def Queue.fault (q : Queue) : Nat := q.faultEntry % 2 ^ 24 * 2 ^ 8 + q.faultReason % 256
/-- The word a host port reads at an offset of BAR0 (R385, R403, R412): after a failed signature check the window serves its
registers, MODSTAT and nothing else; in every other state the window and its registers read zero. -/
def barWord (s : State) (off : Nat) : Word :=
  let up := uploadOnly s
  if off = 0 then BitVec.ofNat 32 (modstat s.station)
  else if off = 8 then (if up then BitVec.ofNat 32 s.station.fwLen else 0)
  else if off = 0xC then (if up ∧ s.station.fwBad then 2 else 0)
  else if 0x180000 ≤ off ∧ off < 0x200000 then (if up then readWord s.station.window (off - 0x180000) else 0)
  else if up then 0
  else if 0x100000 ≤ off ∧ off < 0x101000 then (fieldRecord s ((off - 0x100000) / 64)).getD ((off - 0x100000) % 64 / 4) 0
  else if 0x200000 ≤ off ∧ off < 0x400000 then
    let q := s.queue ((off - 0x200000) / 64)
    let half (v : DWord) (hi : Bool) : Word := if hi then v.extractLsb' 32 32 else v.extractLsb' 0 32
    let r := (off - 0x200000) % 64 / 4
    match r with
    | 0 => half q.base false
    | 1 => half q.base true
    | 2 => BitVec.ofNat 32 q.ctl
    | 4 => half q.submit false
    | 5 => half q.submit true
    | 6 => half q.taken false
    | 7 => half q.taken true
    | 8 => half q.done false
    | 9 => half q.done true
    | 10 => BitVec.ofNat 32 q.fault
    | _ => 0
  else 0

/-! ## Completion areas (R399) -/

/-- The header of a completion area. -/
def completionHeader (launch status reason written lost queue : Nat) : List Byte :=
  [0x4C, 0x57, 0x39, 0x43] ++ bytesOfNat 4 launch ++ bytesOfNat 4 (status + 256 * reason) ++ bytesOfNat 4 written
    ++ bytesOfNat 4 lost ++ bytesOfNat 4 queue ++ List.replicate 40 0

/-- Writes a completion area, and adds 1 to DONE of the queue. -/
def State.completion (s : State) (queue compl len launch status reason : Nat) (records : List (Vector Word 16)) : State :=
  let port := (s.queue queue).port
  let room := len / 64 - 1
  let out := records.take room
  let bytes := (out.map fun r => (r.toList.map fun w => bytesOfNat 4 w.toNat).flatten).flatten
  let s := s.hostWrite port (compl + 64) bytes
  let s := s.hostWrite port compl (completionHeader launch status reason out.length (records.length - room) queue)
  s.onQueue queue fun q => { q with done := q.done + 1 }

/-- The address of the oldest record of a queue that is not yet read (R386). -/
def nextRecord (s : State) (queue : Nat) : Option Nat :=
  let q := s.queue queue
  if q.en && decide (q.taken.toNat < q.submit.toNat) && serving s then
    some (natOfBytes (s.hostRead q.port (q.base.toNat + 8 * (q.taken.toNat % 2 ^ q.log2)) 8))
  else none
/-- The record is taken; its queue is the one of its priority that was served last (R386, R387). -/
def State.take (s : State) (queue : Nat) : State :=
  (s.onQueue queue fun q => { q with taken := q.taken + 1 }).onStation fun t =>
    { t with served := assocSet t.served (s.queue queue).prio queue }

/-- A record that cannot be answered in its own completion area (R390). -/
def State.unanswered (s : State) (queue : Nat) : State :=
  (s.take queue).onQueue queue fun q =>
    { q with faultEntry := (s.queue queue).taken.toNat % 2 ^ 24, faultReason := 1, done := q.done + 1 }

end Sys2Proof.Machine
end

