-- ==== Sys2Proof/Machine/Launch.lean ====
section
/-!
DEFINITION. Launches: the record and its checks (R104, R389, R390), admission and placement (R67, R387, R392, R396), start
(R57) and completion (R71, R399). The row LAUNCH_RECORD names queue `num`; the others name launch `num`.
-/
namespace Sys2Proof.Machine
open Sys2Proof

/-! ## The record as bytes (R389) -/

/-- The little-endian number of n bytes at an offset. -/
def fieldAt (r : List Byte) (off n : Nat) : Nat := natOfBytes ((r.drop off).take n)

/-- CRC-32 (IEEE 802.3 polynomial) of bytes, one bit a step. R104 gives the polynomial alone; that it starts from ones, takes the
low bit first and is inverted at the end, as Ethernet has it, is PRESUMED (log entry 41). -/
def crc32Bit (c : Nat) : Nat := if c % 2 = 1 then (c / 2) ^^^ 0xEDB88320 else c / 2
def crc32Byte (c : Nat) (b : Byte) : Nat := (List.range 8).foldl (fun c _ => crc32Bit c) (c ^^^ b.toNat)
def crc32 (bs : List Byte) : Nat := bs.foldl crc32Byte 0xFFFFFFFF ^^^ 0xFFFFFFFF

/-- The bytes of an image: as many as its header says, at least the header. R104 does not say whether a Total size below 16, or
below the end of the directory, is a ground to reject it: the model makes no check of it, its choice (log entry 41). -/
def imageBytes (s : State) (port a : Nat) : List Byte := s.hostRead port a (max 16 (natOfBytes (s.hostRead port (a + 8) 4)))
/-- A level word of a role (R389). -/
def levelOfWord (w : Nat) : Level :=
  { domain := bitsN w 2 0, scope := bitsN w 5 3, w := bitsN w 14 6 + 1, h := bitsN w 23 15 + 1 }
/-- The narrowest scope a level may take, wherever its role lies (R64). -/
def scopeFloor (domain : Nat) : Nat :=
  if domain ≤ 2 then domain else if domain = 3 then 2 else if domain ≤ 5 then 3 else 4
/-- A level has a domain, a scope at its floor or wider, and its place among the kinds; a rectangle that no field holds has device
scope at least, and one that another domain encloses divides it: a rectangle, a field, or whole fields side by side, eight of them
across a module (R11, R64). -/
def levelShapeBad (ls : List Level) (n : Nat) : Bool :=
  let l := ls.getD n default
  let splits (w h : Nat) : Bool := w % max l.w 1 == 0 && h % max l.h 1 == 0
  let fields : List Nat := (List.range 8).map fun k => 64 * (k + 1)
  let divides (o : Level) : Bool :=
    match o.domain with
    | 2 => splits o.w o.h
    | 3 => splits 64 64
    | 4 => fields.any fun w => fields.any (splits w)
    | _ => fields.any (splits 512)
  decide (6 < l.domain ∨ 4 < l.scope ∨ l.scope < scopeFloor l.domain) || (n == 0 && decide (1 < l.domain))
    || (l.domain == 2 && decide (64 < l.w ∨ 64 < l.h) && decide (l.scope < 3))
    || (match ls[n + 1]? with
      | some o => decide (o.domain < l.domain) || (o.domain == l.domain && l.domain != 2) || (l.domain == 2 && !divides o)
      | none => false)

/-- A region entry (R389). -/
def kindOf : Nat → RegionKind
  | 0 => .code | 1 => .stack | 2 => .data | _ => .ring
def regionOf (e : DWord) : Region :=
  { base := bitsN e.toNat 17 0, size := bitsN e.toNat 35 18, kind := kindOf (bitsN e.toNat 37 36) }

/-- A role of an image keeps the limits of R54, R64, R72 and R100: its ranks and orientations are of its edge-reversal contexts
and of crossings it declares, its content lies in its regions. It places nothing in .shadow (R22). -/
def ImageRole.ok (r : ImageRole) : Bool :=
  let kinds (k : RegionKind → Bool) : Nat := ((r.regions.map regionOf).filter fun g => k g.kind).length
  let levels := r.levels.map levelOfWord
  let fires (k : Nat) : Bool := decide (r.ord ≤ k ∧ k < r.ord + r.er)
  let inside (a n : Nat) : Bool := (r.regions.map regionOf).any fun g => decide (g.base ≤ a ∧ a + n ≤ g.base + g.size)
  decide (1 ≤ r.nctx ∧ r.nctx ≤ 8 ∧ 1 ≤ r.ord ∧ 1 ≤ r.hand ∧ r.ord + r.er + r.hand = r.nctx ∧ 1 ≤ r.tasks.length
      ∧ r.tasks.length ≤ r.ord ∧ r.erTasks.length = r.er)
    && [8, 16, 24, 32].contains r.xn && [4, 8, 12, 16].contains r.vn
    && decide (r.counters ≤ 63 ∧ r.rings ≤ 16 ∧ r.barriers ≤ 8 ∧ r.crossings ≤ 32 ∧ r.pipes.length ≤ 16)
    && decide (kinds (· == .code) ≤ 4 ∧ kinds (· == .stack) ≤ 1 ∧ kinds (fun k => k == .data || k == .ring) ≤ 8)
    && decide (1 ≤ levels.length ∧ levels.length ≤ 8) && !((List.range levels.length).any (levelShapeBad levels))
    && r.ranks.all (fun k => fires k.1) && r.orients.all (fun o => decide (o.crossing < r.crossings) && fires o.own)
    && r.content.all (fun c => c.2.isEmpty || inside c.1 c.2.length) && r.shadow.all fun c => c.2.isEmpty

/-- The checks of an image that its own bytes and limits allow (R104): reason 2. -/
def imageOk (b : List Byte) : Bool :=
  let roles := Config.imageRoles b
  let n := fieldAt b 4 2
  b.take 4 == [0x46, 0x58, 0x49, 0x01] && decide (1 ≤ n ∧ n ≤ 4) && fieldAt b 6 2 == 0 && fieldAt b 12 4 == crc32 (b.drop 16)
    && roles.length == n && roles.all ImageRole.ok

/-- A role of the record with its image's tables. -/
structure RoleRec where
  entry : List Byte
  image : List Byte
  tables : Option ImageRole
  deriving DecidableEq, Repr

def RoleRec.rect (r : RoleRec) : Rect :=
  let p : Site := BitVec.ofNat 18 (fieldAt r.entry 8 4)
  ⟨p.x, p.y, bitsN (fieldAt r.entry 12 4) 8 0 + 1, bitsN (fieldAt r.entry 12 4) 17 9 + 1⟩
def RoleRec.ctxWord (r : RoleRec) : Nat := fieldAt r.entry 0x14 4
def RoleRec.resWord (r : RoleRec) : Nat := fieldAt r.entry 0x18 4
def RoleRec.nctx (r : RoleRec) : Nat := bitsN r.ctxWord 3 0
def RoleRec.ord (r : RoleRec) : Nat := bitsN r.ctxWord 7 4
def RoleRec.er (r : RoleRec) : Nat := bitsN r.ctxWord 11 8
def RoleRec.hand (r : RoleRec) : Nat := bitsN r.ctxWord 15 12
def RoleRec.xn (r : RoleRec) : Nat := 8 * (bitsN r.ctxWord 17 16 + 1)
def RoleRec.vn (r : RoleRec) : Nat := 4 * (bitsN r.ctxWord 19 18 + 1)
def RoleRec.counters (r : RoleRec) : Nat := bitsN r.resWord 6 0
def RoleRec.rings (r : RoleRec) : Nat := bitsN r.resWord 11 7
def RoleRec.barriers (r : RoleRec) : Nat := bitsN r.resWord 15 12
def RoleRec.crossings (r : RoleRec) : Nat := bitsN r.resWord 21 16
def RoleRec.nlevels (r : RoleRec) : Nat := bitsN r.resWord 27 24
def RoleRec.levelWord (r : RoleRec) (n : Nat) : Nat := fieldAt r.entry (0x20 + 4 * n) 4
def RoleRec.levels (r : RoleRec) : List Level := (List.range (min r.nlevels 8)).map fun n => levelOfWord (r.levelWord n)
def RoleRec.regions (r : RoleRec) : List Region := (r.tables.elim [] (·.regions)).map regionOf
/-- A reserved bit of a role entry is set, or a field is beyond its range. -/
def RoleRec.reserved (r : RoleRec) : Bool :=
  bitsN (fieldAt r.entry 8 4) 31 18 != 0 || bitsN (fieldAt r.entry 12 4) 31 18 != 0 || bitsN r.ctxWord 31 20 != 0
    || bitsN r.resWord 31 28 != 0 || bitsN r.resWord 23 22 != 0 || bitsN (fieldAt r.entry 0x1C 4) 31 10 != 0
    || decide (63 < r.counters ∨ 16 < r.rings ∨ 8 < r.barriers ∨ 32 < r.crossings)
    || (List.range 8).any fun n =>
      let w := r.levelWord n
      bitsN w 31 24 != 0 || (bitsN w 2 0 != 2 && bitsN w 23 6 != 0) || (decide (r.nlevels ≤ n) && w != 0)

/-- The roles of a record at a port. Of two directory entries with one role number the first counts, for R104 does not say that such
an image is rejected: the model's choice (log entry 41). -/
def roleRecs (s : State) (port : Nat) (r : List Byte) : List RoleRec :=
  (List.range (bitsN (fieldAt r 8 4) 1 0 + 1)).map fun n =>
    let e := (r.drop (0x40 + 64 * n)).take 64
    let b := imageBytes s port (fieldAt e 0 8)
    { entry := e, image := b, tables := (Config.imageRoles b).find? fun t => t.role == n }

def pipeCount (r : List Byte) : Nat := bitsN (fieldAt r 0x30 4) 4 0
def counterCount (r : List Byte) : Nat := bitsN (fieldAt r 0x30 4) 15 8
def rankCount (r : List Byte) : Nat := bitsN (fieldAt r 0x30 4) 23 16
/-- The pipes of a record (R68, R389). -/
def recPipes (r : List Byte) : List Pipe :=
  (List.range (pipeCount r)).map fun n =>
    let w := fieldAt r (fieldAt r 0x34 4 + 8 * n) 4
    { tag := bitsN w 5 0, sender := bitsN w 7 6, receiver := bitsN w 9 8, handler := bitsN w 25 10 * 4
      landing := BitVec.ofNat 32 (fieldAt r (fieldAt r 0x34 4 + 8 * n + 4) 4) }
/-- Base, slot size and slot count of a pipe's landing. -/
def Pipe.slots (p : Pipe) : Nat × Nat × Nat :=
  let w := p.landing.toNat
  (bitsN w 13 0 * 16, (bitsN w 17 14 + 1) * 32, bitsN w 21 18 + 1)

/-! ## The checks of R390 -/

/-- Reason 1 past magic and SIZE. -/
def recMalformed (r : List Byte) (roles : List RoleRec) : Bool :=
  let w8 := fieldAt r 8 4
  let size := fieldAt r 4 4
  let dog := bitsN w8 15 8
  let table (off n : Nat) : Bool := decide (size < fieldAt r off 4 + n)
  bitsN w8 7 2 != 0 || bitsN w8 31 22 != 0 || (dog != 0 && decide (dog < 16 ∨ 40 < dog))
    || bitsN (fieldAt r 0xC 4) 31 13 != 0 || fieldAt r 0x10 8 % 4096 != 0
    || fieldAt r 0x20 4 % 64 != 0 || decide (fieldAt r 0x20 4 < 64) || bitsN (fieldAt r 0x24 4) 31 18 != 0
    || bitsN (fieldAt r 0x30 4) 7 5 != 0 || bitsN (fieldAt r 0x30 4) 31 24 != 0 || decide (16 < pipeCount r)
    || decide (size < 0x40 + 64 * roles.length) || table 0x34 (8 * pipeCount r) || table 0x38 (16 * counterCount r)
    || table 0x3C (4 * rankCount r) || roles.any RoleRec.reserved
    || (List.range (pipeCount r)).any (fun n =>
      let a := fieldAt r 0x34 4 + 8 * n
      bitsN (fieldAt r a 4) 31 26 != 0 || bitsN (fieldAt r (a + 4) 4) 31 22 != 0)
    || (List.range (counterCount r)).any (fun n =>
      let a := fieldAt r 0x38 4 + 16 * n
      bitsN (fieldAt r a 4) 31 8 != 0 || fieldAt r (a + 4) 4 != 0 || bitsN (fieldAt r a 4) 7 2 == 63)
    || (List.range (rankCount r)).any fun n => bitsN (fieldAt r (fieldAt r 0x3C 4 + 4 * n) 4) 15 5 != 0

/-- A pipe that role n of an image names is one the record declares (R68, R72). -/
def pipeCovered (pipes : List Pipe) (n : Nat) (p : ImagePipe) : Bool :=
  pipes.any fun q => q.tag == p.tag && match p.receives with
    | none => q.sender == n
    | some (handler, landing) => q.receiver == n && q.handler == handler && q.landing == landing

/-- Reason 3: role n's entry and its image's resources disagree, or the record declares fewer levels or pipes than the image
names (R72). -/
def roleDisagrees (pipes : List Pipe) (n : Nat) (r : RoleRec) : Bool :=
  match r.tables with
  | none => true
  | some t => t.nctx != r.nctx || t.ord != r.ord || t.er != r.er || t.hand != r.hand || t.xn != r.xn || t.vn != r.vn
      || t.counters != r.counters || t.rings != r.rings || t.barriers != r.barriers || t.crossings != r.crossings
      || decide (r.nlevels < t.levels.length) || t.levels.zipIdx.any (fun (w, k) => r.levelWord k != w)
      || t.pipes.any fun p => !pipeCovered pipes n p

/-- Reason 4: R54. -/
def contextsBad (r : RoleRec) : Bool :=
  let tasks := r.tables.elim 0 fun t => t.tasks.length
  let ers := r.tables.elim 0 fun t => t.erTasks.length
  !decide (1 ≤ r.nctx ∧ r.nctx ≤ 8 ∧ 1 ≤ r.ord ∧ 1 ≤ r.hand ∧ r.ord + r.er + r.hand = r.nctx ∧ 1 ≤ tasks ∧ tasks ≤ r.ord
    ∧ r.er = ers)

/-- Rectangles of a width and a height, one of them at the south-west corner of `at_`, tile a rectangle. -/
def tiles (at_ : Rect) (w h : Nat) (o : Rect) : Bool :=
  let rem (a n : Nat) : Bool := n != 0 && a % n == 0
  rem o.w w && rem o.h h && (at_.x0 + o.w - o.x0) % max w 1 == 0 && (at_.y0 + o.h - o.y0) % max h 1 == 0

/-- A level whose domains do not tile those of the next one, or whose scope does not hold its whole domain (R64). A partition
level tiles the module where the configured partitions cover it. -/
def levelBad (s : State) (part : Rect) (role : Rect) (ls : List Level) (n : Nat) : Bool :=
  let l := ls.getD n default
  let mesh : Rect := ⟨0, 0, 512, s.meshH⟩
  let inOne (a w len : Nat) : Bool := (List.range ((len + w - 1) / max w 1)).all fun k => (a + k * w) / 64 == (a + k * w + w - 1) / 64
  let inField := inOne role.x0 l.w role.w && inOne role.y0 l.h role.h
  let whole := role.x0 % 64 == 0 && role.y0 % 64 == 0 && role.w % 64 == 0 && role.h % 64 == 0
  let covered := s.station.partitions.foldl (fun n q => n + 64 * q.fw * (64 * q.fh)) 0 == 512 * s.meshH
  let tiled := match ls[n + 1]? with
    | none => l.domain != 2 || tiles role l.w l.h role
    | some o =>
      if l.domain = 2 then
        tiles role l.w l.h (if o.domain = 2 then ⟨role.x0, role.y0, o.w, o.h⟩
          else if o.domain = 3 then ⟨role.x0, role.y0, 64, 64⟩ else if o.domain = 4 then part else mesh)
      else if l.domain = 4 then covered
      else true
  levelShapeBad ls n || (l.domain == 2 && !inField && decide (l.scope < 3)) || !tiled || (l.domain == 3 && !whole)
/-- Reason 5: R64. -/
def levelsBad (s : State) (part : Rect) (r : RoleRec) : Bool :=
  !decide (1 ≤ r.nlevels ∧ r.nlevels ≤ 8) || (List.range r.nlevels).any fun n => levelBad s part r.rect r.levels n

/-- Reason 6: regions that are no 16-byte multiples, or pass 256 KiB (R100, R117). -/
def regionsBad (r : RoleRec) : Bool :=
  r.regions.any fun g => g.base % 16 != 0 || g.size % 16 != 0 || decide (2 ^ 18 < g.base + g.size)
    || (g.kind == .stack && g.size / max r.nctx 1 % 16 != 0)

/-- Reason 10: R68. -/
def pipesBad (roles : List RoleRec) (pipes : List Pipe) : Bool :=
  pipes.zipIdx.any fun (p, n) =>
    let (base, size, count) := p.slots
    decide (roles.length ≤ p.sender ∨ roles.length ≤ p.receiver)
      || (pipes.drop (n + 1)).any (fun q => q.tag == p.tag && q.receiver == p.receiver)
      || match roles[p.receiver]? with
        | none => true
        | some r =>
          let inside (kinds : List RegionKind) (a n : Nat) : Bool :=
            r.regions.any fun g => kinds.contains g.kind && decide (g.base ≤ a ∧ a + n ≤ g.base + g.size)
          !inside [.code] p.handler 4 || !inside [.data, .ring] base (size * count)

/-- The rank a record gives a context of a role; zero where it gives none (R232, R389). -/
def recRank (r : List Byte) (role k : Nat) : Nat :=
  (List.range (rankCount r)).foldl (fun n m =>
    let w := fieldAt r (fieldAt r 0x3C 4 + 4 * m) 4
    if bitsN w 1 0 = role ∧ bitsN w 4 2 = k then bitsN w 31 16 else n) 0
/-- An explicit orientation at core p of role n is not the one of the rank rule: the lower rank, then the lower site, then the
lower context (R108, R223). One whose other end lies in no role of the record has nothing to disagree with. -/
def orientBad (r : List Byte) (roles : List RoleRec) (n : Nat) (p : Site) (o : ImageOrient) : Bool :=
  let x := (p.x : Int) + o.dx
  let y := (p.y : Int) + o.dy
  if x < 0 ∨ 512 ≤ x ∨ y < 0 ∨ 512 ≤ y then false
  else
    let q : Site := Site.mk x.toNat y.toNat
    match roles.zipIdx.find? fun t => t.1.rect.has q with
    | none => false
    | some (_, m) => o.faces != keyLt (recRank r n o.own, p.toNat, o.own) (recRank r m o.other, q.toNat, o.other)
/-- Reason 9: R223. -/
def orientsBad (r : List Byte) (roles : List RoleRec) : Bool :=
  roles.zipIdx.any fun (t, n) => (t.tables.elim [] (·.orients)).any fun o => t.rect.sites.any fun p => orientBad r roles n p o

/-- The first reason of R390 a record fails for, past magic, SIZE and COMPL. -/
def recordReason (s : State) (queue : Nat) (r : List Byte) (roles : List RoleRec) : Option Nat :=
  let part := bitsN (fieldAt r 8 4) 21 16
  let cfg := s.station.partitions[part]?
  let pr := cfg.elim ⟨0, 0, 512, 512⟩ partRectOf
  let asid := bitsN (fieldAt r 0xC 4) 12 0
  let root := fieldAt r 0x10 8
  let step : Site := BitVec.ofNat 18 (fieldAt r 0x24 4)
  let overlap := roles.zipIdx.any fun (a, n) => (roles.drop (n + 1)).any fun b => a.rect.meets b.rect
  if recMalformed r roles then some 1
  else if roles.any fun t => !imageOk t.image then some 2
  else if roles.zipIdx.any (fun (t, n) => roleDisagrees (recPipes r) n t) then some 3
  else if roles.any contextsBad then some 4
  else if roles.any (levelsBad s pr) then some 5
  else if roles.any regionsBad then some 6
  else if cfg.isSome && (overlap || roles.any fun t => !t.rect.inside pr) then some 7
  else if (match s.station.asids.find? fun a => a.1 == asid with
      | some a => a.2 != root
      | none => decide (8192 ≤ s.station.asids.length)) then some 8
  else if orientsBad r roles then some 9
  else if pipesBad roles (recPipes r) then some 10
  else if !(roles.any fun t => t.rect.has step) then some 11
  else if cfg.isNone then some 12
  else if part ≠ (s.queue queue).part then some 14
  else none

/-! ## Admission (R387, R400) -/

/-- What a record fixes for a role. -/
def roleInfo (s : State) (r : List Byte) (roles : List RoleRec) (launch n : Nat) (t : RoleRec) : RoleInfo :=
  let part := bitsN (fieldAt r 8 4) 21 16
  { launch := launch, role := n, rect := t.rect, launchRects := roles.map RoleRec.rect
    partRect := (s.station.partitions[part]?).elim ⟨0, 0, 0, 0⟩ partRectOf, partition := part
    arg := BitVec.ofNat 32 (fieldAt t.entry 0x10 4), ord := t.ord, er := t.er, hand := t.hand
    starts := t.tables.elim 0 fun i => i.tasks.length, xn := t.xn, vn := t.vn
    counters := t.counters, rings := t.rings, barriers := t.barriers, crossings := t.crossings
    keySeed := bitsN (fieldAt t.entry 0x1C 4) 9 0, levels := t.levels, regions := t.regions
    tasks := t.tables.elim [] (·.tasks), erTasks := t.tables.elim [] (·.erTasks)
    stepSource := BitVec.ofNat 18 (fieldAt r 0x24 4), asid := bitsN (fieldAt r 0xC 4) 12 0, links := [] }

/-- A launch from its record, waiting to be placed. -/
def recordLaunch (s : State) (queue : Nat) (r : List Byte) (roles : List RoleRec) : Launch :=
  let id := s.station.nextLaunch
  let dog := bitsN (fieldAt r 8 4) 15 8
  { id := id, queue := queue, prio := (s.queue queue).prio, partition := bitsN (fieldAt r 8 4) 21 16
    asid := bitsN (fieldAt r 0xC 4) 12 0, compl := fieldAt r 0x18 8, complLen := fieldAt r 0x20 4
    watchdog := if dog = 0 then 24 else dog, step := BitVec.ofNat 64 (fieldAt r 0x28 8)
    roles := roles.zipIdx.map fun (t, n) => { info := roleInfo s r roles id n t, content := t.tables.elim [] (·.content) }
    pipes := recPipes r
    counters := (List.range (counterCount r)).map fun n =>
      let a := fieldAt r 0x38 4 + 16 * n
      (bitsN (fieldAt r a 4) 1 0, bitsN (fieldAt r a 4) 7 2, BitVec.ofNat 64 (fieldAt r (a + 8) 8))
    ranks := (List.range (rankCount r)).map fun n =>
      let w := fieldAt r (fieldAt r 0x3C 4 + 4 * n) 4
      (bitsN w 1 0, bitsN w 4 2, bitsN w 31 16)
    phase := .waiting, cancelled := none, incoming := 0, records := [], saved := [] }

/-- A record of queue q passed its checks and waits to be placed: later records wait behind it (R387). -/
def queueHeld (s : State) (q : Nat) : Bool := s.station.launches.any fun l => l.phase == .waiting && l.queue == q
/-- Queue n has a record to be read. -/
def queueDue (s : State) (n : Nat) : Bool := !queueHeld s n && (nextRecord s n).isSome
/-- Places after the queue of its priority that was served last. -/
def queueAfter (s : State) (n : Nat) : Nat :=
  (n + 32768 - 1 - ((assocGet s.station.served (s.queue n).prio).getD 0) % 32768) % 32768
/-- The station goes on with queue q: none of higher priority has a record to be read, and among those of its priority that have
it comes next after the one served last (R387). -/
def queueTurn (s : State) (q : Nat) : Bool :=
  !(s.station.queues.any fun (n, t) => queueDue s n && (decide ((s.queue q).prio < t.prio)
    || (t.prio == (s.queue q).prio && decide (queueAfter s n < queueAfter s q))))
def State.numberLaunch (s : State) : State :=
  s.onStation fun t => { t with nextLaunch := (t.nextLaunch + 1) % 2 ^ 32 }

/-- A launch waits to be placed, and its ASID is live with a root, with a key of its own if it is only now made so (R362, R387,
R397). -/
def Station.launchIn (t : Station) (l : Launch) (root : Nat) : Station :=
  { t with
    asids := if t.asids.any fun a => a.1 == l.asid then t.asids else (l.asid, root) :: t.asids
    keys := if t.asids.any fun a => a.1 == l.asid then t.keys
      else assocSet t.keys l.asid ((assocGet t.keys l.asid).getD 0 + 1)
    launches := t.launches ++ [l] }

/-- The magic and the SIZE of a record allow it to be answered. -/
def recordReadable (r : List Byte) : Bool :=
  let size := fieldAt r 4 4
  r.take 4 == [0x4C, 0x57, 0x39, 0x52] && size % 64 == 0 && decide (64 ≤ size ∧ size ≤ 16384) && fieldAt r 0x18 8 % 64 == 0

/-- A record of queue 0 has its magic and an aligned COMPL, and a command of those known (R388, R414). -/
def adminReadable (r : List Byte) : Bool := r.take 4 == [0x4C, 0x57, 0x39, 0x41] && fieldAt r 8 8 % 64 == 0
def adminKnown (r : List Byte) : Bool := decide (1 ≤ fieldAt r 4 4 ∧ fieldAt r 4 4 ≤ 7)

/-- LAUNCH_RECORD: the station reads the oldest record of queue `num` and rejects it or has it wait to be placed (R386,
R387, R390, R400). Of queue 0 it answers those that are no command. -/
def execLaunchRecord (s : State) : Host.Outcome State Fault Refusal :=
  let q := s.num
  let port := (s.queue q).port
  .next (match nextRecord s q with
    | none => s
    | some a =>
      if !queueTurn s q then s
      else if q = 0 then
        let r := s.hostRead port a 16
        if !adminReadable r then s.unanswered 0
        else if !adminKnown r then (s.take 0).completion 0 (fieldAt r 8 8) 64 0 1 16 []
        else s
      else if queueHeld s q then s
      else
        let r := s.hostRead port a (max 64 (min 16384 (natOfBytes (s.hostRead port (a + 4) 4))))
        if !recordReadable r then s.unanswered q
        else
          let roles := roleRecs s port r
          let id := s.station.nextLaunch
          match recordReason s q r roles with
          | some n => ((s.take q).numberLaunch).completion q (fieldAt r 0x18 8) (fieldAt r 0x20 4) id 1 n []
          | none =>
            ((s.take q).numberLaunch).onStation fun t => t.launchIn (recordLaunch s q r roles) (fieldAt r 0x10 8))

/-! ## Placement (R67, R392, R396) -/

def State.launch (s : State) (id : Nat) : Option Launch := s.station.launches.find? fun l => l.id == id
def State.onLaunch (s : State) (id : Nat) (f : Launch → Launch) : State :=
  s.onStation fun t => { t with launches := t.launches.map fun l => if l.id = id then f l else l }
def Launch.rects (l : Launch) : List Rect := l.roles.map fun r => r.info.rect
/-- The sites of a launch's cores. -/
def Launch.sites (l : Launch) : List Site := l.rects.flatMap Rect.sites
def Launch.resident (l : Launch) : Bool := l.phase == .placed || l.phase == .running || l.phase == .draining
def Launch.overlaps (l m : Launch) : Bool := l.rects.any fun a => m.rects.any fun b => a.meets b
/-- The pages a role's regions cover (R396). -/
def RoleInfo.pages (ro : RoleInfo) : List Nat :=
  (List.range 256).filter fun p => ro.regions.any fun g => decide (g.size ≠ 0 ∧ g.base < 1024 * (p + 1) ∧ 1024 * p < g.base + g.size)

/-- Another launch has to go first: one that waits or is saved, whose rectangles overlap, of higher priority; a saved one
of the same priority goes before one that waits (R387, R394). -/
def behind (s : State) (l : Launch) : Bool :=
  s.station.launches.any fun m => m.id != l.id && m.overlaps l
    && ((m.phase == .waiting && decide (l.prio < m.prio))
      || (m.phase == .saved && (decide (l.prio < m.prio) || (l.phase == .waiting && m.prio == l.prio))))
/-- The rectangle of field f, in cores (R11). -/
def fieldRect (f : Nat) : Rect := ⟨64 * (f % 8), 64 * (f / 8), 64, 64⟩
/-- Every field a launch touches is in service, and its partition is the rectangle its record was checked against. A launch that waits
while its partition is configured anew goes on waiting until the partition is that rectangle again or it is cancelled: R15 has no
packet reach a closed seam and R391 names only resident and saved launches, the model's choice (log entry 33). -/
def fieldsServe (s : State) (l : Launch) : Bool :=
  (l.rects.all fun r => (List.range 64).all fun f =>
    !(r.meets (fieldRect f)) || (vget s.station.fields f).state == .service)
    && l.roles.all fun r => (s.station.partitions[r.info.partition]?).map partRectOf == some r.info.partRect
/-- The other resident launches on cores of a launch. -/
def inTheWay (s : State) (l : Launch) : List Launch :=
  s.station.launches.filter fun m => m.id != l.id && m.resident && m.overlaps l
/-- The rectangles of a launch are free of resident launches, and every field they touch is in service. -/
def rectsFree (s : State) (l : Launch) : Bool := (inTheWay s l).isEmpty && fieldsServe s l
/-- No page the launch claims is owned by another one (R396). -/
def pagesFree (s : State) (l : Launch) : Bool :=
  l.roles.all fun r => r.info.rect.sites.all fun p => r.info.pages.all fun n =>
    ((assocGet (s.core p).scratch.pages n).bind fun g => g.owner).isNone

/-- Scratchpad with every byte of the regions written: the image's content, zero elsewhere (R67). No line is read ahead of it. -/
def loadScratch (p : Scratch) (l : RoleLoad) (launch : Nat) : Scratch :=
  let ro := l.info
  let inside (a : Nat) : Bool := ro.regions.any fun g => g.has a
  let zeroed := p.mem.filter fun c => !inside c.1
  let mem := l.content.foldl (fun m (a, bs) => writeBytes m a bs) zeroed
  let whole (w : Nat) : Bool := (List.range 8).all fun k => inside (w + k)
  { p with
    mem := mem, ahead := [], bad := p.bad.filter fun w => !whole w
    pages := ro.pages.foldl (fun g n => assocSet g n { owner := some launch, absent := false }) p.pages }

/-- What outlives a launch on a core: its scratchpad and shadow storage, its cycle count, the requests that wait there, and the
model's own numbering. -/
def Core.bare (c : Core) : Core :=
  { Core.blank with
    scratch := { c.scratch with ahead := [] }, cycles := c.cycles, nextCmd := c.nextCmd
    shadow := c.shadow, shadowBad := c.shadowBad, shadowSoft := c.shadowSoft, retries := c.retries
    msg := { Msg.blank with requests := c.msg.requests, nextSeq := c.msg.nextSeq } }

/-- A pipe's tag entry (R68). -/
def pipeEntry (p : Pipe) : TagEntry :=
  let (base, size, count) := p.slots
  { handler := p.handler, base := base, size := size, count := count, owner := 0, pipe := true, busy := [] }

/-- A core of a role after loading (R67, R179, R184, R232); its launch may take the bridges of the links given (R374). -/
def loadCore (c : Core) (l : Launch) (r : RoleLoad) (links : List Nat) : Core :=
  let ro := r.info
  let b := c.bare
  let kind (k : Nat) : CtxKind := if k < ro.ord then .ordinary else if k < ro.ord + ro.er then .edgeReversal else .handler
  let tags := (l.pipes.filter fun p => p.receiver == ro.role).foldl
    (fun t p => vset t p.tag (some (pipeEntry p))) b.msg.tags
  let counters := (l.counters.filter fun e => e.1 == ro.role).foldl
    (fun t e => vset t e.2.1 { value := e.2.2, broken := false }) b.sync.counters
  let ranks := (l.ranks.filter fun e => e.1 == ro.role && decide (ro.ord ≤ e.2.1 ∧ e.2.1 < ro.ord + ro.er)).foldl
    (fun t e => vset t e.2.1 (BitVec.ofNat 32 e.2.2)) b.errank
  { b with
    live := true, role := { ro with links := links }, scratch := loadScratch c.scratch r l.id
    ctxs := Vector.ofFn fun k => { Ctx.blank with kind := kind k.val }
    errank := ranks
    msg := { b.msg with tags := tags }
    sync := { b.sync with counters := vset counters 63 { value := l.step, broken := false } } }

/-- Places a launch that waits, if its cores and pages are free, and no request to a launch before it waits there. -/
def State.tryPlace (s : State) (id : Nat) : State :=
  match s.launch id with
  | none => s
  | some l =>
    if l.phase ≠ .waiting ∨ !serving s ∨ behind s l ∨ !rectsFree s l ∨ !pagesFree s l
        ∨ l.sites.any (fun p => !(s.core p).msg.requests.isEmpty) then s
    else
      let s := l.roles.foldl (fun s r => r.info.rect.sites.foldl (fun s p => s.onCore p fun c => loadCore c l r s.linksIn) s) s
      s.onLaunch l.id fun l => { l with phase := .placed }

/-- LAUNCH_PLACEMENT: a launch that waits is placed, all its cores at once, when its cores and pages are free (R67, R392,
R396). -/
def execLaunchPlacement (s : State) : Host.Outcome State Fault Refusal := .next (s.tryPlace s.num)

/-- LAUNCH_START: once every core is loaded the entry tasks start (R57, R67). -/
def execLaunchStart (s : State) : Host.Outcome State Fault Refusal :=
  .next (match s.launch s.num with
    | none => s
    | some l =>
      if l.phase ≠ .placed ∨ !serving s then s
      else
        let startOn (ro : RoleInfo) (s : State) (p : Site) : State :=
          (List.finRange 8).foldl (fun s k =>
            if k.val < ro.starts then
              s.start p k (ro.tasks.getD k.val 0) ro.arg (BitVec.ofNat 32 k.val) 0 0
            else s) s
        let s := l.roles.foldl (fun s r => r.info.rect.sites.foldl (startOn r.info) s) s
        s.onLaunch l.id fun l => { l with phase := .running })

/-! ## Completion (R71, R399) -/

/-- A core is quiescent (R71). R71 asks that no stream is active and does not say what a HELD or a FAULTED one counts as (R340):
each stream in a slot holds the launch open, the model's choice (log entry 30). -/
def quiescent (c : Core) : Bool :=
  (List.finRange 8).all (fun k => (c.ctx k).status == .dormant && !dueToFire c k)
    && c.msg.requests.isEmpty && c.msg.queue.isEmpty && c.msg.out.isEmpty && c.sync.queue.isEmpty
    && c.tensor.queue.isEmpty && c.tensor.run.isEmpty && c.vec.isEmpty && c.late.isEmpty
    && c.slots.toList.all (fun t => t.job.isNone) && c.msg.sums.toList.all (fun g => !g.busy) && c.msg.creams.toList.all fun g => !g.busy

/-- A packet of a launch: one of its cores sent it, or gets it. -/
def packetOf (l : Launch) (p : Packet) : Bool :=
  let mine (q : Site) : Bool := l.rects.any fun r => r.has q
  match p.body with
  | .req r => r.launch == some l.id || r.launch.isNone && mine p.dst
  | _ => mine p.src || mine p.dst

/-- Pages that no launch owns and none misses need no entry. -/
def Scratch.tidy (p : Scratch) : Scratch := { p with pages := p.pages.filter fun g => g.2.owner.isSome || g.2.absent }
/-- No page is missed any more: the launch on the core leaves it. -/
def Scratch.present (p : Scratch) : Scratch :=
  { p with pages := p.pages.map fun g => (g.1, { g.2 with absent := false }) }
/-- The pages a launch owns on a core are free. -/
def Scratch.disown (p : Scratch) (launch : Nat) : Scratch :=
  Scratch.tidy { p with pages := p.pages.map fun g => (g.1, if g.2.owner = some launch then { g.2 with owner := none } else g.2) }

/-- The core that a packet is for belongs to a launch. -/
def Launch.gets (l : Launch) (p : Packet) : Bool := l.rects.any fun r => r.has p.dst
/-- The arrivals that the bridges hold for the cores of a launch are injected, but for those that `keep` names by their place and
packet (R381, R394). -/
def State.release (s : State) (l : Launch) (keep : Nat → Packet → Bool) : State :=
  let (go, stay) := s.heldArrivals.zipIdx.partition fun (p, n) => l.gets p && !keep n p
  (go.map (·.1)).foldl State.send { s with heldArrivals := stay.map (·.1) }

/-- The arrivals that the bridges hold for a launch that ends halted or saved do not come to it any more: requests are refused, and
their senders hear of it (R401, R416). One that another halted or saved launch of its core may be for stays. -/
def State.refuseHeld (s : State) (l : Launch) : State :=
  let other (p : Packet) : Bool :=
    s.station.launches.any fun m => m.id != l.id && (m.phase == .saved || m.phase == .draining) && m.gets p
  let (mine, stay) := s.heldArrivals.partition fun p => l.gets p && !other p
  mine.foldl (fun s p => match p.body with
    | .req r => ((s.reply p.dst r kNACK [] 0).getD s).deliveryRecord p.dst r 7
    | _ => s) { s with heldArrivals := stay }

/-- A launch ends: its cores and pages are free, its completion record is written (R71, R396, R399). -/
def State.finish (s : State) (l : Launch) (status reason : Nat) : State :=
  let records := ((s.launch l.id).getD l).records
  let free (c : Core) : Core :=
    let c : Core := { c with shadow := if c.shadow = some l.id then none else c.shadow }
    if l.resident then { c.bare with scratch := (c.bare.scratch.present).disown l.id }
    else { c with scratch := c.scratch.disown l.id }
  let s := l.sites.foldl (fun s p => s.onCore p free) s
  let s := s.onStation fun t => { t with
    launches := t.launches.filter fun m => m.id != l.id
    evicted := t.evicted.filter fun e => e.launch != l.id }
  let s := s.release l fun _ p => s.station.launches.any fun m => (m.phase == .saved || m.phase == .draining) && m.gets p
  s.completion l.queue l.compl l.complLen l.id status reason records

/-- A resident launch has nothing left to do (R71). -/
def launchQuiescent (s : State) (l : Launch) : Bool :=
  l.sites.all (fun p => quiescent (s.core p)) && !(s.mesh.any (packetOf l))

/-- LAUNCH_COMPLETE: a quiescent launch completes, with status 2 if it was cancelled (R71, R388, R399). -/
def execLaunchComplete (s : State) : Host.Outcome State Fault Refusal :=
  .next (match s.launch s.num with
    | none => s
    | some l =>
      if !(l.phase == .running || l.phase == .draining) || !launchQuiescent s l then s
      else match l.cancelled with
        | none => s.finish l 0 0
        | some r => (s.refuseHeld l).finish l 2 r)

end Sys2Proof.Machine
end

