-- ==== Sys2Proof/Machine/Admin.lean ====
section
/-!
DEFINITION. The administration commands of queue 0 (R388, R414, R416): partitions and repair (R391, R405), translations
(R361), reduction windows (R378), cancels and the trust chain. Each row performs the oldest record of queue 0 if it is its
command.
-/
namespace Sys2Proof.Machine
open Sys2Proof

/-- Bytes of a queue-0 record that a command may read. -/
def adminBytes : Nat := 1312

/-- Performs the oldest record of queue 0 if it holds command `code`: `perform` gives the state after it and the reason of
a refusal, or nothing while the command has to wait. The header at COMPL ends it (R388, R399). -/
def adminRow (code : Nat) (perform : State → List Byte → Option (State × Option Nat)) (s : State) :
    Host.Outcome State Fault Refusal :=
  .next (match nextRecord s 0 with
    | none => s
    | some a =>
      let r := s.hostRead (s.queue 0).port a adminBytes
      if !queueTurn s 0 || !adminReadable r || fieldAt r 4 4 != code then s
      else match perform s r with
        | none => s
        | some (t, why) => (t.take 0).completion 0 (fieldAt r 8 8) 64 0 (if why.isSome then 1 else 0) (why.getD 0) [])

/-! ## Measurements (R414) -/

/-- The 48 bytes of a digest. -/
def digestBytes (d : BitVec 384) : List Byte := (bytesOfNat 48 d.toNat).reverse
/-- MRn := SHA-384(MRn ‖ value). -/
def Station.extend (t : Station) (n : Nat) (value : List Byte) : Station :=
  { t with mr := vmod t.mr n fun d => Config.sha384 (digestBytes d ++ value) }

/-! ## Command 1: configure partitions (R391, R405) -/

/-- The partitions a record names: none where it is malformed. -/
def recPartitions (r : List Byte) : Option (List Partition) :=
  let n := fieldAt r 16 4
  let pools := (20 + 4 * n + 7) / 8 * 8
  let one (k : Nat) : Option Partition :=
    let w := fieldAt r (20 + 4 * k) 4
    let q : Partition :=
      { fx := bitsN w 2 0, fy := bitsN w 5 3, fw := bitsN w 8 6 + 1, fh := bitsN w 11 9 + 1
        poolBase := fieldAt r (pools + 16 * k) 8, poolSize := fieldAt r (pools + 16 * k + 8) 8 }
    if bitsN w 31 12 = 0 ∧ q.fx + q.fw ≤ 8 ∧ q.fy + q.fh ≤ 8 ∧ q.poolBase % 1024 = 0 ∧ q.poolSize % 1024 = 0 then some q
    else none
  if 1 ≤ n ∧ n ≤ 64 then (List.range n).mapM one else none

/-- A partition holds field f. -/
def Partition.hasField (q : Partition) (f : Nat) : Bool := (fieldRect f).inside (partRectOf q)
/-- Two partitions share a field, or one has no outward field edge. -/
def partitionsBad (s : State) (ps : List Partition) : Bool :=
  ps.zipIdx.any (fun (a, n) => (ps.drop (n + 1)).any fun b => (partRectOf a).meets (partRectOf b))
    || ps.any fun q => !((List.range 32).any fun e => edgePresent s e && (partRectOf q).has (bridgeSite e))
/-- The partition of field f, with its number. -/
def partitionOf (ps : List Partition) (f : Nat) : Option (Partition × Nat) := ps.zipIdx.find? fun q => q.1.hasField f
/-- A launch is resident or saved on field f. -/
def fieldUsed (s : State) (f : Nat) : Bool :=
  s.station.launches.any fun l => (l.resident || l.phase == .saved) && l.rects.any fun r => r.meets (fieldRect f)

/-- The columns of the marked cores of a half of field f: the west one, or the east one. -/
def markedColumns (s : State) (f : Nat) (east : Bool) : List Nat :=
  (((fieldRect f).sites.filter fun p => (s.core p).scratch.marked && decide (32 ≤ p.x % 64) == east).map fun p => p.x % 64).eraseDups
/-- The spare column of a half after the repair of marked columns: none where repair fails, as it does where the spare column is
taken, be it by the column that is marked now (R12, R405). -/
def repairHalf (spare : Option Nat) (cols : List Nat) : Option (Option Nat) :=
  match spare, cols with
  | u, [] => some u
  | none, [x] => some (some x)
  | _, _ => none
/-- Field f repaired, or withdrawn where its spares do not suffice. -/
def repairField (s : State) (f : Nat) : Field :=
  let t := vget s.station.fields f
  match repairHalf t.west (markedColumns s f false), repairHalf t.east (markedColumns s f true) with
  | some w, some e => { t with west := w, east := e }
  | _, _ => { t with state := .withdrawn }
/-- Counts of corrected errors restart on the cores of field f (R404, R405). -/
def unmark (s : State) (f : Nat) : State :=
  (fieldRect f).sites.foldl (fun s p =>
    let c := s.core p
    if c.scratch.corrected = 0 ∧ !c.scratch.marked then s
    else s.setCore p { c with scratch := { c.scratch with corrected := 0, marked := false } }) s

/-- Configure partitions: reason 16, then reason 15, else the retirement of marked cores, of links taken down, and the new
partitions (R377, R391, R405). A field that retirement withdraws stays withdrawn though the command is refused. -/
def configure (s : State) (r : List Byte) : Option (State × Option Nat) :=
  match recPartitions r with
  | none => some (s, some 16)
  | some ps =>
    let fields := (List.range 64).filter fun f => (partitionOf ps f).isSome
    let changes (f : Nat) : Bool := partitionOf ps f != partitionOf s.station.partitions f
    if partitionsBad s ps then some (s, some 16)
    else if fields.any (fun f => (vget s.station.fields f).state != .service)
      || (List.range 64).any (fun f => changes f && fieldUsed s f) then some (s, some 15)
    else
      let due := fields.filter fun f => !fieldUsed s f
      let lost := due.filter fun f => (repairField s f).state == .withdrawn
      let setFields (s : State) (fs : List Nat) : State :=
        s.onStation fun t => { t with fields := fs.foldl (fun v f => vset v f (repairField s f)) t.fields }
      if !lost.isEmpty then some (setFields s lost, some 15)
      else
        let s := due.foldl unmark (setFields s due)
        let s := { s with links := s.links.map fun (l : Link) => { l with retired := l.retired || l.state == LinkState.down } }
        let set (t : Station) : Station := { t.extend 2 (Config.measure (r.drop 16)) with partitions := ps }
        some (s.onStation set, none)

/-- CONFIGURE_PARTITIONS. -/
def execConfigurePartitions (s : State) : Host.Outcome State Fault Refusal := adminRow 1 configure s

/-! ## Commands 2, 3 and 5 -/

/-- Granules of an ASID that a port has translated and not yet performed, at a home port or by a reduction window (R361). -/
def translatedFor (s : State) (asid : Nat) : Bool :=
  s.edgeReqs.any (fun q => (s.core q.site).role.asid == asid)
    || (s.contributions ++ (s.merges ++ s.merged).flatMap fun m => m.parts).any (fun q =>
      q.source == s.sysNum && (s.core q.site).role.asid == asid)
    || s.cores.any fun (_, c) => c.live && c.role.asid == asid && c.slots.toList.any fun t => t.job.any fun j => j.dest.isSome

/-- Invalidate translations: done once every granule translated with them is performed (R361). -/
def invalidate (s : State) (r : List Byte) : Option (State × Option Nat) :=
  let asid := fieldAt r 16 4
  let start := fieldAt r 24 8
  let len := fieldAt r 32 8
  if 8192 ≤ asid then some (s, some 16)
  else if translatedFor s asid then none
  else some ({ s with caches := s.caches.filter fun c =>
    !(c.asid == asid && (len == 0 || decide (c.page < start + len ∧ start < c.page + c.size))) }, none)

/-- INVALIDATE_TRANSLATIONS. -/
def execInvalidateTranslations (s : State) : Host.Outcome State Fault Refusal := adminRow 2 invalidate s

/-- Write reduction window (R378, R388): it takes the place of an earlier one of the same range. -/
def writeWindow (s : State) (r : List Byte) : Option (State × Option Nat) :=
  let v := fieldAt r 48 4
  let w : Window :=
    { base := fieldAt r 16 8, size := fieldAt r 24 8, home := fieldAt r 32 8, hbase := fieldAt r 40 8
      rop := bitsN v 1 0, xw := bitsN v 13 2, k := bitsN v 31 14 + 1 }
  if 1 < w.rop ∨ 2 ^ 17 < w.k ∨ !s.modules.contains w.home then some (s, some 16)
  else some ({ s with windows := w :: s.windows.filter fun u => !(u.base == w.base && u.size == w.size) }, none)

/-- WRITE_REDUCTION_WINDOW. -/
def execWriteReductionWindow (s : State) : Host.Outcome State Fault Refusal := adminRow 3 writeWindow s

/-- Retire ASID (R388): its translations go with it. -/
def retireAsid (s : State) (r : List Byte) : Option (State × Option Nat) :=
  let asid := fieldAt r 16 4
  if 8192 ≤ asid ∨ s.station.launches.any (fun l => l.asid == asid && (l.resident || l.phase == .saved)) then some (s, some 16)
  else
    let s := s.onStation fun t => { t with asids := t.asids.filter fun a => a.1 != asid }
    some ({ s with caches := s.caches.filter fun c => c.asid != asid }, none)

/-- RETIRE_ASID. -/
def execRetireAsid (s : State) : Host.Outcome State Fault Refusal := adminRow 5 retireAsid s

/-! ## Command 4: cancel a launch (R416) -/

/-- Vector instructions of context k leave the queue of a core that no longer works for it. -/
def Core.purgeVec (c : Core) (k : CtxNo) : Core :=
  { c with vec := c.vec.filter fun v => match v with
      | .op j _ _ _ => j != k
      | .mts j _ _ => j != k
      | .mem j => j != k }

/-- The station kills context k of core p, of which kind 2 (R144, R145) or kind 3 (R407) is recorded, with CODE 0x18. R145 gives
the slot of kind 2 its PC and its ECAUSE; its EVAL of 0 is the model's choice (log entry 16). -/
def State.stationKill (s : State) (p : Site) (k : CtxNo) (kind : Nat) : State :=
  let x := (s.core p).ctx k
  let s := s.onCore p fun c => c.purgeVec k
  if x.status = .dormant then s.onCore p fun c => c.onCtx k fun x => { x with retired := x.retired || x.kind == .edgeReversal }
  else s.kill p k kind x.pc (ecauseWord false { code := 0x18, sub := 0, aux := 0, val := 0 }) 0

/-- Kills every context of a core. -/
def State.killCore (s : State) (kind : Site → Nat) (p : Site) : State :=
  (List.finRange 8).foldl (fun s k => s.stationKill p k (kind p)) s

/-- Queued vector instructions of the contexts of a launch that runs finish before a kill (R56, R144). -/
def launchBusy (s : State) (l : Launch) : Bool :=
  l.phase == .running && l.sites.any fun p => (List.finRange 8).any fun k => vecPending (s.core p) k

/-- The requests of others that wait in the queue of a saved core are refused, and their senders hear of it (R401, R416). -/
def refuseSaved (l : Launch) (s : State) (q : Nat × Core) : State :=
  let p : Site := BitVec.ofNat 18 q.1
  (q.2.msg.requests.filter fun r => r.launch != some l.id).foldl (fun s r =>
    ((s.reply p r kNACK [] 0).getD s).deliveryRecord p r 7) s
/-- Ends a saved launch: `end_` kills its contexts as they were saved, and their records stand in its completion record; the
requests that wait on its cores or for them are refused (R150, R416). -/
def State.endSaved (s : State) (l : Launch) (status reason : Nat) (end_ : State → State) : State :=
  let t := end_ (s.unsaved l)
  ((l.saved.foldl (refuseSaved l) { s with station := t.station }).refuseHeld l).finish l status reason

/-- Cancel launch. -/
def cancel (s : State) (r : List Byte) : Option (State × Option Nat) :=
  match s.launch (fieldAt r 16 4) with
  | none => some (s, some 16)
  | some l =>
    let killAll (s : State) : State := l.sites.foldl (State.killCore · fun _ => 2) s
    match l.phase with
    | .waiting => some (s.finish l 2 0, none)
    | .saved => some (s.endSaved l 2 0 killAll, none)
    | _ =>
      if launchBusy s l then none
      else
        let mark (l : Launch) : Launch :=
          { l with cancelled := some (l.cancelled.getD 0), phase := if l.phase == .placed then .running else l.phase }
        some ((killAll s).onLaunch l.id mark, none)

/-- CANCEL_LAUNCH. -/
def execCancelLaunch (s : State) : Host.Outcome State Fault Refusal := adminRow 4 cancel s

/-! ## Commands 6 and 7: attest and extend (R414) -/

/-- The first 0x1C0 bytes of a report. -/
def attestBody (t : Station) (nonce : List Byte) : List Byte :=
  nonce ++ t.mr.toList.flatMap digestBytes ++ bytesOfNat 4 (modstat t) ++ bytesOfNat 4 (t.minSvn % 256) ++ List.replicate 24 0

/-- Attest: the 544-byte report, signed. -/
def attest (s : State) (r : List Byte) : Option (State × Option Nat) :=
  let a := fieldAt r 48 8
  let body := attestBody s.station ((r.drop 16).take 32)
  if a % 64 ≠ 0 then some (s, some 16)
  else some (s.hostWrite (s.queue 0).port a (body ++ (bytesOfNat 96 (Config.attestSignature body).toNat).reverse), none)

/-- ATTEST. -/
def execAttest (s : State) : Host.Outcome State Fault Refusal := adminRow 6 attest s

/-- Extend: registers 3 to 7. -/
def extendMr (s : State) (r : List Byte) : Option (State × Option Nat) :=
  let n := fieldAt r 16 4
  if n < 3 ∨ 7 < n then some (s, some 16) else some (s.onStation fun t => t.extend n ((r.drop 20).take 48), none)

/-- EXTEND. -/
def execExtend (s : State) : Host.Outcome State Fault Refusal := adminRow 7 extendMr s

end Sys2Proof.Machine
end

