-- ==== Sys2Proof/Machine/Alu.lean ====
section
/-!
DEFINITION. The ALU group, major 0x01 (R112 to R114).
-/
namespace Sys2Proof.Machine
open Sys2Proof

/-- The shift amount: bits [4:0] of operand b (R112). -/
def shamt (b : Word) : Nat := b.toNat % 32
/-- 1 if the condition holds, else 0. -/
def flag (p : Bool) : Word := if p then 1 else 0

/-- An instruction that writes a function of xa and operand b to xd. -/
def alu (i : Instr) (rd ra : XReg) (b : Src) (f : Word → Word → Word) (s : State) : Host.Outcome State Fault Refusal :=
  gate i s fun s => s.result i rd (f (s.me.rx ra) (s.me.src b))

/-- An instruction that writes a function of xa to xd. -/
def alu1 (i : Instr) (rd ra : XReg) (f : Word → Word) (s : State) : Host.Outcome State Fault Refusal :=
  gate i s fun s => s.result i rd (f (s.me.rx ra))

/-- A division: a zero divisor traps with DIVZERO, EVAL holding xa (R113). -/
def divide (i : Instr) (rd ra : XReg) (b : Src) (f : Word → Word → Word) (s : State) : Host.Outcome State Fault Refusal :=
  gate i s fun s =>
    if s.me.src b = 0 then s.trap DIVZERO (s.me.rx ra) else s.result i rd (f (s.me.rx ra) (s.me.src b))

/-- Zero bits above the highest set bit; 32 for zero (R112). -/
def clz32 (a : Word) : Word := if a = 0 then 32 else BitVec.ofNat 32 (31 - Nat.log2 a.toNat)
/-- Zero bits below the lowest set bit; 32 for zero (R112). -/
def ctz32 (a : Word) : Word := BitVec.ofNat 32 (((List.range 32).find? fun n => a.getLsbD n).getD 32)
/-- Set bits (R112). -/
def popc32 (a : Word) : Word := BitVec.ofNat 32 ((List.range 32).filter fun n => a.getLsbD n).length

/-- The position and width of a field descriptor (R114). -/
def fieldPos (b : Word) : Nat := bitsN b.toNat 4 0
def fieldLen (b : Word) : Nat := bitsN b.toNat 9 5 + 1
/-- BEXT (R114). -/
def bext32 (a b : Word) : Word := BitVec.ofNat 32 (a.toNat / 2 ^ fieldPos b % 2 ^ fieldLen b)
/-- BINS (R114). -/
def bins32 (d a b : Word) : Word :=
  let mask := BitVec.ofNat 32 ((2 ^ fieldLen b - 1) * 2 ^ fieldPos b)
  (d &&& ~~~mask) ||| (BitVec.ofNat 32 (a.toNat * 2 ^ fieldPos b) &&& mask)

/-- ADD (R112). -/
def execAdd (rd ra : XReg) (b : Src) (s : State) : Host.Outcome State Fault Refusal :=
  alu (.add rd ra b) rd ra b (fun a b => a + b) s

/-- SUB (R112). -/
def execSub (rd ra : XReg) (b : Src) (s : State) : Host.Outcome State Fault Refusal :=
  alu (.sub rd ra b) rd ra b (fun a b => a - b) s

/-- AND (R112). -/
def execAnd (rd ra : XReg) (b : Src) (s : State) : Host.Outcome State Fault Refusal :=
  alu (.and rd ra b) rd ra b (fun a b => a &&& b) s

/-- OR (R112). -/
def execOr (rd ra : XReg) (b : Src) (s : State) : Host.Outcome State Fault Refusal :=
  alu (.or rd ra b) rd ra b (fun a b => a ||| b) s

/-- XOR (R112). -/
def execXor (rd ra : XReg) (b : Src) (s : State) : Host.Outcome State Fault Refusal :=
  alu (.xor rd ra b) rd ra b (fun a b => a ^^^ b) s

/-- ANDN (R112). -/
def execAndn (rd ra : XReg) (b : Src) (s : State) : Host.Outcome State Fault Refusal :=
  alu (.andn rd ra b) rd ra b (fun a b => a &&& ~~~b) s

/-- SHL (R112). -/
def execShl (rd ra : XReg) (b : Src) (s : State) : Host.Outcome State Fault Refusal :=
  alu (.shl rd ra b) rd ra b (fun a b => a <<< shamt b) s

/-- SHR (R112). -/
def execShr (rd ra : XReg) (b : Src) (s : State) : Host.Outcome State Fault Refusal :=
  alu (.shr rd ra b) rd ra b (fun a b => a >>> shamt b) s

/-- SRA (R112). -/
def execSra (rd ra : XReg) (b : Src) (s : State) : Host.Outcome State Fault Refusal :=
  alu (.sra rd ra b) rd ra b (fun a b => a.sshiftRight (shamt b)) s

/-- ROTL (R112). -/
def execRotl (rd ra : XReg) (b : Src) (s : State) : Host.Outcome State Fault Refusal :=
  alu (.rotl rd ra b) rd ra b (fun a b => a.rotateLeft (shamt b)) s

/-- SLT (R112). -/
def execSlt (rd ra : XReg) (b : Src) (s : State) : Host.Outcome State Fault Refusal :=
  alu (.slt rd ra b) rd ra b (fun a b => flag (a.slt b)) s

/-- SLTN (R112). -/
def execSltn (rd ra : XReg) (b : Src) (s : State) : Host.Outcome State Fault Refusal :=
  alu (.sltn rd ra b) rd ra b (fun a b => flag (a.ult b)) s

/-- MIN (R112). -/
def execMin (rd ra : XReg) (b : Src) (s : State) : Host.Outcome State Fault Refusal :=
  alu (.min rd ra b) rd ra b (fun a b => if b.slt a then b else a) s

/-- MAX (R112). -/
def execMax (rd ra : XReg) (b : Src) (s : State) : Host.Outcome State Fault Refusal :=
  alu (.max rd ra b) rd ra b (fun a b => if a.slt b then b else a) s

/-- MINN (R112). -/
def execMinn (rd ra : XReg) (b : Src) (s : State) : Host.Outcome State Fault Refusal :=
  alu (.minn rd ra b) rd ra b (fun a b => if b.ult a then b else a) s

/-- MAXN (R112). -/
def execMaxn (rd ra : XReg) (b : Src) (s : State) : Host.Outcome State Fault Refusal :=
  alu (.maxn rd ra b) rd ra b (fun a b => if a.ult b then b else a) s

/-- MUL (R112). -/
def execMul (rd ra : XReg) (b : Src) (s : State) : Host.Outcome State Fault Refusal :=
  alu (.mul rd ra b) rd ra b (fun a b => a * b) s

/-- MULH (R112). -/
def execMulh (rd ra : XReg) (b : Src) (s : State) : Host.Outcome State Fault Refusal :=
  alu (.mulh rd ra b) rd ra b (fun a b => BitVec.ofInt 32 ((a.toInt * b.toInt) / 2 ^ 32)) s

/-- MULHN (R112). -/
def execMulhn (rd ra : XReg) (b : Src) (s : State) : Host.Outcome State Fault Refusal :=
  alu (.mulhn rd ra b) rd ra b (fun a b => BitVec.ofNat 32 (a.toNat * b.toNat / 2 ^ 32)) s

/-- DIV (R113). -/
def execDiv (rd ra : XReg) (b : Src) (s : State) : Host.Outcome State Fault Refusal :=
  divide (.div rd ra b) rd ra b (fun a b => BitVec.ofInt 32 (a.toInt.tdiv b.toInt)) s

/-- DIVN (R113). -/
def execDivn (rd ra : XReg) (b : Src) (s : State) : Host.Outcome State Fault Refusal :=
  divide (.divn rd ra b) rd ra b (fun a b => BitVec.ofNat 32 (a.toNat / b.toNat)) s

/-- REM (R113). -/
def execRem (rd ra : XReg) (b : Src) (s : State) : Host.Outcome State Fault Refusal :=
  divide (.rem rd ra b) rd ra b (fun a b => BitVec.ofInt 32 (a.toInt.tmod b.toInt)) s

/-- REMN (R113). -/
def execRemn (rd ra : XReg) (b : Src) (s : State) : Host.Outcome State Fault Refusal :=
  divide (.remn rd ra b) rd ra b (fun a b => BitVec.ofNat 32 (a.toNat % b.toNat)) s

/-- CLZ (R112). -/
def execClz (rd ra : XReg) (s : State) : Host.Outcome State Fault Refusal :=
  alu1 (.clz rd ra) rd ra clz32 s

/-- CTZ (R112). -/
def execCtz (rd ra : XReg) (s : State) : Host.Outcome State Fault Refusal :=
  alu1 (.ctz rd ra) rd ra ctz32 s

/-- POPC (R112). -/
def execPopc (rd ra : XReg) (s : State) : Host.Outcome State Fault Refusal :=
  alu1 (.popc rd ra) rd ra popc32 s

/-- BEXT (R114). -/
def execBext (rd ra : XReg) (b : Src) (s : State) : Host.Outcome State Fault Refusal :=
  alu (.bext rd ra b) rd ra b bext32 s

/-- BINS (R114): xd is its third source. -/
def execBins (rd ra : XReg) (b : Src) (s : State) : Host.Outcome State Fault Refusal :=
  gate (.bins rd ra b) s fun s => s.result (.bins rd ra b) rd (bins32 (s.me.rx rd) (s.me.rx ra) (s.me.src b))

end Sys2Proof.Machine
end

