-- ==== Sys2Proof/Machine/Branch.lean ====
section
/-!
DEFINITION. Branches and jumps, majors 0x20 to 0x22 (R129 to R131).
-/
namespace Sys2Proof.Machine
open Sys2Proof

/-- A branch: the target is checked only when the branch is taken (R78, R129). -/
def branch (i : Instr) (ra rb : XReg) (off : BitVec 13) (cond : Word → Word → Bool) (s : State) :
    Host.Outcome State Fault Refusal :=
  gate i s fun s =>
    if cond (s.me.rx ra) (s.me.rx rb) then
      let target := s.me.pc + off.signExtend 32 * 4
      jumpTo s target (s.setPc target)
    else s.advance i

/-- BEQ (R129). -/
def execBeq (ra rb : XReg) (off : BitVec 13) (s : State) : Host.Outcome State Fault Refusal :=
  branch (.beq ra rb off) ra rb off (fun a b => a == b) s

/-- BNE (R129). -/
def execBne (ra rb : XReg) (off : BitVec 13) (s : State) : Host.Outcome State Fault Refusal :=
  branch (.bne ra rb off) ra rb off (fun a b => a != b) s

/-- BLT (R129). -/
def execBlt (ra rb : XReg) (off : BitVec 13) (s : State) : Host.Outcome State Fault Refusal :=
  branch (.blt ra rb off) ra rb off (fun a b => a.slt b) s

/-- BGE (R129). -/
def execBge (ra rb : XReg) (off : BitVec 13) (s : State) : Host.Outcome State Fault Refusal :=
  branch (.bge ra rb off) ra rb off (fun a b => b.sle a) s

/-- BLTN (R129). -/
def execBltn (ra rb : XReg) (off : BitVec 13) (s : State) : Host.Outcome State Fault Refusal :=
  branch (.bltn ra rb off) ra rb off (fun a b => a.ult b) s

/-- BGEN (R129). -/
def execBgen (ra rb : XReg) (off : BitVec 13) (s : State) : Host.Outcome State Fault Refusal :=
  branch (.bgen ra rb off) ra rb off (fun a b => b.ule a) s

/-- JAL (R130): the link is written only when the target passes R78. -/
def execJal (rd : XReg) (off : BitVec 21) (s : State) : Host.Outcome State Fault Refusal :=
  gate (.jal rd off) s fun s =>
    let target := s.me.pc + off.signExtend 32 * 4
    jumpTo s target (s.onMe fun c => { c.wx rd (c.pc + 4) with pc := target })

/-- JALR (R131): xa is read before xd is written. -/
def execJalr (rd ra : XReg) (imm : BitVec 16) (s : State) : Host.Outcome State Fault Refusal :=
  gate (.jalr rd ra imm) s fun s =>
    let target := s.me.rx ra + imm.signExtend 32
    jumpTo s target (s.onMe fun c => { c.wx rd (c.pc + 4) with pc := target })

end Sys2Proof.Machine
end

