-- ==== Sys2Proof/Machine/Fetch.lean ====
section
/-!
DEFINITION. Fetching the words of an instruction (R69, R76, R78), and the two rows of the opcode table that stand for
words that are no instruction.
-/
namespace Sys2Proof.Machine
open Sys2Proof

/-- A fetch of the word at an address by the issuing context: BOUNDS outside every code region, RANGE in a range that is
write-locked (R69, R78). The result says whether it is the lock. -/
def fetchFault (s : State) (a : Nat) : Option Bool :=
  if oneRegion s.here.role s.cur.2 .fetch a 4 then
    (if (lockFault s.here a 4 false).isSome then some true else none)
  else some false

/-- The first fault among n words fetched from an address: its kind and its address (R76). -/
def fetchFaults (s : State) (a : Nat) : Nat → Option (Bool × Nat)
  | 0 => none
  | n + 1 =>
    match fetchFault s a with
    | some locked => some (locked, a)
    | none => fetchFaults s (a + 4) n

/-- What the issuing context finds at its PC: the row of the opcode table that runs. A word that is no instruction runs
ILLEGAL_ENCODING, a fetch that faults runs INSTRUCTION_FETCH_FAULT (R87, R88). -/
def fetch (s : State) : Instr :=
  let a := s.me.pc.toNat
  match fetchFault s a with
  | some locked => .instructionFetchFault locked s.me.pc
  | none =>
    let w := s.here.word a
    match fetchFaults s (a + 4) (litWords w) with
    | some (locked, b) => .instructionFetchFault locked (BitVec.ofNat 32 b)
    | none => (decodeWords w (s.here.word (a + 4)) (s.here.word (a + 8))).getD (.illegalEncoding w)

/-- The fetch meets an absent page, so the context stalls (R398). -/
def fetchStalls (s : State) : Bool :=
  let a := s.me.pc.toNat
  absent s.here a 4 || absent s.here (a + 4) (4 * litWords (s.here.word a))

/-- The lowest protected word with an uncorrectable error among the words the fetch reads, once those before it are fetched
without a fault (R120, R146). -/
def fetchBad (s : State) : Option Nat :=
  let a := s.me.pc.toNat
  if fetchFault s a = none then
    match badWord s.here a 4 with
    | some w => some w
    | none =>
      let n := litWords (s.here.word a)
      if fetchFaults s (a + 4) n = none then badWord s.here (a + 4) (4 * n) else none
  else none

/-- A fetch repairs the correctable errors of the words it reads (R120). -/
def State.fetched (s : State) : State :=
  let a := s.me.pc.toNat
  if fetchFault s a = none then s.scrub s.cur.1 a (4 + 4 * litWords (s.here.word a)) else s

/-- The two rows a fetch raises by itself. -/
def isFetchRow : Instr → Bool
  | .illegalEncoding _ => true
  | .instructionFetchFault _ _ => true
  | _ => false

/-- The rows that take place as events, not as instructions of a context. -/
def isEvent (i : Instr) : Bool := !i.encoded && !isFetchRow i

/-- The role a launched program of one core may have: every object declared, one region of each kind (log entry 3). -/
def placedRole : RoleInfo :=
  { RoleInfo.none with
    rect := ⟨0, 0, 1, 1⟩, launchRects := [⟨0, 0, 1, 1⟩], partRect := ⟨0, 0, 512, 448⟩
    ord := 4, er := 2, hand := 2, starts := 1, xn := 32, vn := 16
    counters := 63, rings := 16, barriers := 8, crossings := 32
    levels := [{ domain := 0, scope := 0, w := 0, h := 0 }]
    links := List.range 32
    regions := [⟨0x0000, 0x1000, .code⟩, ⟨0x1000, 0x1000, .stack⟩, ⟨0x2000, 0x1E000, .data⟩, ⟨0x20000, 0x20000, .ring⟩] }

/-- The 12 bytes of an instruction whose bits are w, zero from nbits on. -/
def fetchBytes (nbits w : Nat) : List Byte := bytesOfNat 12 (w % 2 ^ nbits)

/-- Context 0 of core (0, 0) as the one whose turn is next, under a launch, ready, its PC in a code region that no
command locks, on no absent page and free of errors; its other registers are left as they are (log entry 3). -/
def placeWord (s : State) (nbits w : Nat) : State :=
  let c := s.core 0
  let keep := c.live && oneRegion c.role 0 .fetch (c.ctx 0).pc.toNat 12
  let c := if keep then c else { c with live := true, role := placedRole }
  let x := c.ctx 0
  let x := { x with status := .ready, pending := [], pc := if keep then x.pc else 0 }
  let a := x.pc.toNat
  let c := { c.setCtx 0 x with
    halted := false
    late := []
    locks := c.locks.filter fun l => !l.meets a 12
    scratch := { c.scratch with
      ahead := []
      bad := c.scratch.bad.filter fun w => !decide (w < a + 12 ∧ a < w + 8)
      pages := c.scratch.pages.filter fun g => !decide (g.1 * 1024 < a + 12 ∧ a < g.1 * 1024 + 1024)
      mem := writeBytes c.scratch.mem a (fetchBytes nbits w) } }
  { s.setCore 0 c with agenda := .issue 0 0 :: s.agenda }

/-- ILLEGAL_ENCODING (R87): the trap is precise, EPC names the word and EVAL holds it. -/
def execIllegalEncoding (w : Word) (s : State) : Host.Outcome State Fault Refusal :=
  if s.issuing then .next (s.trap ILLEGAL w) else .fault .notIssuing

/-- INSTRUCTION_FETCH_FAULT (R76, R78): RANGE under a write lock, BOUNDS otherwise, EVAL holding the address. -/
def execInstructionFetchFault (locked : Bool) (addr : Word) (s : State) : Host.Outcome State Fault Refusal :=
  if s.issuing then .next (s.trap (if locked then RANGE else BOUNDS) addr) else .fault .notIssuing

end Sys2Proof.Machine
end

