-- ==== Sys2Proof/Machine/Preempt.lean ====
section
/-!
DEFINITION. Priority pre-emption, saving and resuming (R148, R149, R393 to R395), and the pages of a lazy save (R396 to
R398). The rows PREEMPT, DRAIN_DONE and RESUME name launch `num`; PAGE_EVICTION and PAGE_RESTORE name page `num` of the
core in `cur`.
-/
namespace Sys2Proof.Machine
open Sys2Proof

/-! ## Save pools (R395, R397) -/

/-- The save pool of a partition. -/
def poolOf (s : State) (part : Nat) : Nat × Nat := (s.station.partitions[part]?).elim (0, 0) fun q => (q.poolBase, q.poolSize)
/-- Slots of a pool, and the lowest one that is free. -/
def poolSlots (s : State) (part : Nat) : Nat := (poolOf s part).2 / 1024
def poolUsed (s : State) (part : Nat) : List Nat := (s.station.evicted.filter fun e => e.part == part).map fun e => e.slot
def freePoolSlot (s : State) (part : Nat) : Option Nat :=
  (List.range (poolSlots s part)).find? fun n => !(poolUsed s part).contains n
/-- The pages that a launch has to have evicted before it is placed. -/
def ownedPages (s : State) (l : Launch) : Nat :=
  (l.roles.map fun r => (r.info.rect.sites.map fun p => (r.info.pages.filter fun n =>
    ((assocGet (s.core p).scratch.pages n).bind fun g => g.owner).isSome).length).sum).sum
/-- The KiB that the saved state of a core of a launch takes; the shadow storage holds the first eight (R22, R395). -/
def savedPages (launch : Nat) (p : Site) : Nat := (Config.savedBytes (launch * 2 ^ 18 + p.toNat) + 1023) / 1024
/-- Slots that the save of a core of a launch takes: what does not fit its shadow storage, and the state of another launch that
the shadow storage holds already (R395). -/
def spillSlots (s : State) (launch : Nat) (p : Site) : Nat :=
  (s.core p).shadow.elim 0 (fun m => min 8 (savedPages m p)) + (savedPages launch p - 8)
def spillOf (s : State) (l : Launch) : Nat := (l.sites.map (spillSlots s l.id)).sum
/-- Slots that the launches of a partition that drain already will take, and the launches they make way for (R395). -/
def drainsOf (s : State) (part : Nat) : Nat :=
  let ms := s.station.launches.filter fun m => m.phase == .draining && m.partition == part
  (ms.map (spillOf s)).sum
    + (((ms.map (·.incoming)).eraseDups.filterMap fun n => s.station.launches.find? (·.id == n)).map (ownedPages s)).sum
/-- The pool of its partition takes the pages that a launch claims, and what the saves of the launches before it do not fit
elsewhere, those that run and those that drain (R395). -/
def poolHolds (s : State) (l : Launch) (before : List Launch) : Bool :=
  let stops := before.filter fun m => m.phase != .draining
  decide (ownedPages s l + (stops.map (spillOf s)).sum + drainsOf s l.partition + (poolUsed s l.partition).length
    ≤ poolSlots s l.partition)

/-- The key of an ASID: the count of how often it was made live (R397). -/
def keyOf (s : State) (asid : Nat) : Nat := (assocGet s.station.keys asid).getD 0
/-- A KiB of a launch goes to a slot of its pool, sealed; its digest is kept (R397). -/
def State.toPool (s : State) (l : Launch) (p : Site) (n slot : Nat) (plain : List Byte) (bad : List Nat) : State :=
  let cipher := bytesOfNat 1024 (Config.sealPage (keyOf s l.asid) l.asid slot plain).toNat
  let e : Evicted :=
    { launch := l.id, site := p.toNat, page := n, part := l.partition, slot := slot, plain := plain, cipher := cipher
      bad := bad, digest := Config.sha384 plain }
  (s.edgePut ((poolOf s l.partition).1 + 1024 * slot) cipher).onStation fun t => { t with evicted := e :: t.evicted }
/-- What a pool gives back is what was written, and no error is among it (R398). -/
def poolGood (s : State) (e : Evicted) : Bool :=
  let a := (poolOf s e.part).1 + 1024 * e.slot
  readBytes s.edge a 1024 == e.cipher && !deviceBad s a 1024 && e.bad.isEmpty
/-- An uncorrectable error in what a pool gives back is counted where it was found (R406). -/
def State.countPool (s : State) (p : Site) (e : Evicted) : State :=
  let a := (poolOf s e.part).1 + 1024 * e.slot
  if deviceBad s a 1024 then s.countError (homeSite a) else if e.bad.isEmpty then s else s.countError p

/-! ## Halt, drain and save (R394) -/

/-- Halts a launch (R148). -/
def State.halt (s : State) (incoming : Nat) (m : Launch) : State :=
  let s := m.sites.foldl (fun s p => s.onCore p fun c => { c with halted := true }) s
  s.onLaunch m.id fun m => { m with phase := .draining, incoming := incoming }

/-- An access of a core has issued that a halted core would not perform: a release whose order is not satisfied yet (R148, log
entry 4). -/
def lateStuck (c : Core) : Bool :=
  c.late.any fun e => match e.op with
    | .store _ (some sc) n | .amo _ _ _ _ (some sc) n => !releaseBefore c e.ctx n (wideScope sc)
    | _ => false
/-- PREEMPT: launch `num` waits, and every launch on its cores is of lower priority: those that run are halted and begin to
drain. None is while the pool could not take what the saves and the placement send there (R394, R395). -/
def execPreempt (s : State) : Host.Outcome State Fault Refusal :=
  .next (match s.launch s.num with
    | none => s
    | some l =>
      let vs := inTheWay s l
      if l.phase ≠ .waiting ∨ !serving s ∨ behind s l ∨ !fieldsServe s l
        ∨ vs.any (fun m => decide (l.prio ≤ m.prio) || m.phase == .placed
          || (m.phase == .running && m.sites.any fun p => lateStuck (s.core p))) ∨ !poolHolds s l vs then s
      else (vs.filter fun m => m.phase == .running).foldl (State.halt · l.id) s)

/-- A granule that has begun can go on: the ring it waits for has a slot for it or bytes (R371). -/
def granuleMoves (c : Core) (j : StreamJob) : Bool :=
  let r := c.ring j.ring
  granuleOpen j && match j.cmd with
    | .sfeed => r.pbound.head? == some j.id && decide (r.fill < r.ns)
    | .sdrain => r.cbound.head? == some j.id && (r.fill != 0 || r.fail)
    | _ => true
/-- A core has come to its boundaries: its vector instructions and accesses are done, and no granule or landing that has begun
goes on (R123, R148, R155, R284, R371). -/
def coreDrained (c : Core) : Bool :=
  c.vec.isEmpty && c.late.isEmpty
    && c.slots.toList.all (fun t => !(t.state == .active && t.job.any (granuleMoves c)))
    && c.msg.creams.toList.all fun g => g.toLand.isEmpty
/-- Nothing of a launch is under way outside its cores; what its cores sent to other modules is acknowledged by the link or
reported failed, and their replies are held with the other arrivals (R381, R394). -/
def drained (s : State) (l : Launch) : Bool :=
  let mine (p : Site) : Bool := l.rects.any fun r => r.has p
  let own (q : Contribution) : Bool := q.source == s.sysNum && mine q.site
  !(s.mesh.any (packetOf l)) && l.sites.all (fun p => coreDrained (s.core p))
    && s.links.toList.all (fun k => k.packets.all fun o => !mine o.site)
    && !(s.edgeReqs.any fun q => mine q.site) && !(s.contributions.any own)
    && !((s.merges ++ s.merged).any fun m => m.parts.any own)

/-- What is saved of a core: all but its scratchpad, and no translation (R149, R371, R396). -/
def Core.toSave (c : Core) : Core :=
  { c with
    scratch := Scratch.blank
    slots := c.slots.map fun (t : Slot) => { t with job := t.job.map fun j => { j with dest := none } } }
/-- What a saved launch leaves on a core: its pages, and its state in the shadow storage (R395). -/
def Core.leave (c : Core) (launch : Nat) : Core :=
  let b := c.bare
  { b with
    shadow := some launch, shadowBad := [], shadowSoft := []
    scratch := b.scratch.present.tidy, msg := { b.msg with requests := [] } }

/-- KiB of the saved state of a launch on core p that go to its pool, by number: piece n is page 256 + n (R395). -/
def State.spillPieces (s : State) (l : Launch) (p : Site) (pieces : List Nat) (bad : List Nat) : State :=
  let s' := pieces.foldl (fun t n =>
    match freePoolSlot t l.partition with
    | none => t
    | some slot => t.toPool l p (256 + n) slot (bytesOfNat 1024 (Config.savedPiece s.freeCount n).toNat)
        (bad.filter fun w => w / 1024 == n)) s
  { s' with freeCount := s.freeCount + 1 }
/-- The shadow storage of core p is wanted for another launch: the state it holds goes to the pool, with its uncorrectable
errors (R395). -/
def State.clearShadow (s : State) (p : Site) : State :=
  let c := s.core p
  match c.shadow.bind s.launch with
  | none => s
  | some m => (s.countCorrected p c.shadowSoft.length).spillPieces m p (List.range (min 8 (savedPages m.id p))) c.shadowBad
/-- What does not fit the shadow storage of a core goes to the pool. -/
def State.spill (s : State) (l : Launch) (p : Site) : State :=
  (s.clearShadow p).spillPieces l p ((List.range (savedPages l.id p)).drop 8) []

/-- Saves a drained launch. -/
def State.save (s : State) (l : Launch) : State :=
  let cores := l.sites.map fun p => (p.toNat, (s.core p).toSave)
  let s := l.sites.foldl (fun s p => s.spill l p) s
  let s := l.sites.foldl (fun s p => s.onCore p fun c => c.leave l.id) s
  s.onLaunch l.id fun m => { m with phase := .saved, saved := cores }

/-- DRAIN_DONE: launch `num` has drained. One that is complete, or was cancelled, ends; another is saved, once the pool has room
for what does not fit elsewhere, and the launch it made way for is placed if its cores and pages are free now. One that was
cancelled refuses the requests that wait on its cores first (R394, R395, R416). -/
def execDrainDone (s : State) : Host.Outcome State Fault Refusal :=
  .next (match s.launch s.num with
    | none => s
    | some l =>
      if l.phase ≠ .draining ∨ !drained s l then s
      else
        let room := spillOf s l + (poolUsed s l.partition).length ≤ poolSlots s l.partition
        match l.cancelled with
        | some r =>
          if l.sites.any fun p => !(s.core p).msg.requests.isEmpty then s else ((s.refuseHeld l).finish l 2 r).tryPlace l.incoming
        | none =>
          if launchQuiescent s l then (s.finish l 0 0).tryPlace l.incoming
          else if room then (s.save l).tryPlace l.incoming
          else s)

/-! ## Resume (R149, R394, R398) -/

/-- The pages of a role on a core it comes back to: those a later launch claimed are absent. -/
def Scratch.resumed (p : Scratch) (ro : RoleInfo) : Scratch :=
  let one (g : List (Nat × Page)) (n : Nat) : List (Nat × Page) :=
    let owner := (assocGet g n).bind fun e => e.owner
    assocSet g n { owner := owner, absent := owner != some ro.launch }
  { p with pages := ro.pages.foldl one p.pages }

/-- A saved core comes back: its cycle count has gone on, and its shadow storage is free if it was its own. -/
def Core.resumed (c now : Core) : Core :=
  let own := now.shadow == some c.role.launch
  { c with
    halted := false, cycles := now.cycles, nextCmd := max c.nextCmd now.nextCmd
    scratch := now.scratch.resumed c.role
    shadow := if own then none else now.shadow, shadowBad := if own then [] else now.shadowBad
    shadowSoft := if own then [] else now.shadowSoft, retries := now.retries
    msg := { c.msg with nextSeq := max c.msg.nextSeq now.msg.nextSeq } }

/-- A context is killed with kind 3, CODE 0x14 and an offset; one that is dormant never fires again (R147, R398). -/
def State.killLost (s : State) (p : Site) (k : CtxNo) (off : Nat) : State :=
  let x := (s.core p).ctx k
  if x.status = .dormant then s.onCore p fun c => c.onCtx k fun x => { x with retired := x.retired || x.kind == .edgeReversal }
  else s.kill p k 3 x.pc (ecauseWord false { code := MCHK, sub := 0, aux := 0, val := 0 }) (BitVec.ofNat 32 off)
/-- Every context of a core that loses a KiB at an offset is killed (R398). -/
def killForPage (s : State) (p : Site) (off : Nat) : State := (List.finRange 8).foldl (fun s k => s.killLost p k off) s

/-- The errors of the shadow storage of core p come to light as the state it held comes back: the correctable ones are counted,
an uncorrectable one is counted and kills the context it belongs to (R147, R404, R406). `was` is the core before. -/
def State.shadowErrors (s : State) (p : Site) (was : Core) (launch : Nat) : State :=
  if was.shadow ≠ some launch then s
  else
    let s := s.countCorrected p was.shadowSoft.length
    was.shadowBad.foldl (fun s off => (s.countError p).killLost p (Config.shadowOwner off) off) s
/-- The pieces of the saved state of core p come back from the pool; one that is not as it was written kills every context of
the core (R395, R397, R398). -/
def State.unspill (s : State) (p : Site) (launch : Nat) : State :=
  let mine (e : Evicted) : Bool := e.launch == launch && e.site == p.toNat && decide (256 ≤ e.page)
  let t := (s.station.evicted.filter mine).foldl (fun t e =>
    if poolGood s e then t else killForPage (t.countPool p e) p (1024 * (e.page - 256))) s
  t.onStation fun u => { u with evicted := u.evicted.filter fun e => !mine e }

/-- RESUME: saved launch `num` comes back when its rectangles are free, none that has to go first needs them and no request
waits on its cores; the arrivals held for it are released, those for other saved launches stay (R381, R394). -/
def execResume (s : State) : Host.Outcome State Fault Refusal :=
  .next (match s.launch s.num with
    | none => s
    | some l =>
      if l.phase ≠ .saved ∨ !serving s ∨ behind s l ∨ !rectsFree s l
        ∨ l.sites.any (fun p => !(s.core p).msg.requests.isEmpty) then s
      else
        let t := l.saved.foldl (fun t (n, c) =>
          let p : Site := BitVec.ofNat 18 n
          ((t.onCore p c.resumed).shadowErrors p (s.core p) l.id).unspill p l.id) s
        let t := t.onLaunch l.id fun m => { m with phase := .running, saved := [] }
        t.release l fun n q => (heldFor s n q).any (· != l.id))

/-! ## Pages (R396 to R398) -/

/-- Page n of core p is wanted: the launch on the core misses it, or one that waits claims it and could be placed but for its
pages (R396, R398). -/
def pageWanted (s : State) (p : Site) (n : Nat) (g : Page) : Bool :=
  g.absent || s.station.launches.any fun m => m.phase == .waiting && serving s && !behind s m && rectsFree s m
    && m.roles.any fun r => r.info.rect.has p && r.info.pages.contains n

/-- PAGE_EVICTION: a page of a saved launch that is wanted goes to the pool, sealed, with the errors in it; its write is
acknowledged, and the page is free (R397). -/
def execPageEviction (s : State) : Host.Outcome State Fault Refusal :=
  let p := s.cur.1
  let n := s.num
  let c := s.here
  .next (match assocGet c.scratch.pages n with
    | none => s
    | some g =>
      match g.owner.bind s.launch with
      | none => s
      | some l =>
        match freePoolSlot s l.partition with
        | none => s
        | some slot =>
          if l.phase ≠ .saved ∨ !pageWanted s p n g then s
          else
            let (bad, kept) := c.scratch.bad.partition fun w => decide (1024 * n ≤ w ∧ w < 1024 * n + 1024)
            let s := (s.scrub p (1024 * n) 1024).toPool l p n slot (c.bytes (1024 * n) 1024) bad
            s.onCore p fun c => { c with
              scratch := Scratch.tidy { c.scratch with bad := kept, pages := assocSet c.scratch.pages n { g with owner := none } } })

/-- PAGE_RESTORE: an absent page that no saved launch owns comes back from the pool. One whose bytes are not those that were
written, or that holds an uncorrectable error, is not installed (R398). -/
def execPageRestore (s : State) : Host.Outcome State Fault Refusal :=
  let p := s.cur.1
  let n := s.num
  let c := s.here
  let launch := c.role.launch
  .next (match assocGet c.scratch.pages n, s.station.evicted.find? fun e =>
        e.launch == launch && e.site == p.toNat && e.page == n with
    | some g, some e =>
      if !c.live || !g.absent || g.owner.isSome then s
      else
        if !poolGood s e then
          let s := s.onCore p Core.noMem
          (if (List.finRange 8).any (vecPending s.here) then s else killForPage (s.countPool p e) p (1024 * n))
        else
          let s := s.onStation fun t => { t with evicted := t.evicted.filter fun d => d != e }
          s.onCore p fun c =>
            let c := c.put (1024 * n) e.plain
            let back : Page := { owner := some launch, absent := false }
            { c with scratch := { c.scratch with pages := assocSet c.scratch.pages n back } }
    | _, _ => s)

end Sys2Proof.Machine
end

