-- ==== Sys2Proof/Machine/Health.lean ====
section
/-!
DEFINITION. The stations that keep the wafer fit: operating points (R17, R408), power and coolant (R409), the loss of a
field (R407), bring-up, self-test and firmware upload (R12, R410 to R413), and the progress watchdog (R202). The rows
GOVERNOR, FIELD_LOSS and FIELD_SELF_TEST name field `num`, PROGRESS_WATCHDOG partition `num`.
-/
namespace Sys2Proof.Machine
open Sys2Proof

def State.field (s : State) (f : Nat) : Field := vget s.station.fields f
def State.onField (s : State) (f : Nat) (g : Field → Field) : State :=
  s.onStation fun t => { t with fields := vmod t.fields f g }

/-! ## Operating points (R408, R409) -/

/-- One point up, to 1.1 GHz at most; one point down, to 0.6 GHz at least. -/
def Field.up (t : Field) : Field := { t with opp := min 10 (t.opp + 1) }
def Field.down (t : Field) : Field := { t with opp := if t.opp ≤ 10 then t.opp - 1 else t.opp }

/-- GOVERNOR: the mean occupancy of field `num`'s seam FIFOs over an interval, in units of 1/65,536 of their depth, moves
its point, in full service; a clamp lets none move up (R408, R409). -/
def execGovernor (occupancy : Nat) (s : State) : Host.Outcome State Fault Refusal :=
  .next (
    let t := s.field s.num
    if 64 ≤ s.num ∨ s.station.state ≠ .full ∨ t.state ≠ .service ∨ 10 < t.opp then s
    else if 49152 < occupancy then (if s.station.clamped then s else s.onField s.num Field.up)
    else if occupancy < 16384 then s.onField s.num Field.down
    else s)

/-- Full service: every field in service runs at 1.1 GHz (R410). One that starts under the clamp moves there when the clamp ends
(R409; the model's choice, log entry 36). -/
def Station.fullSpeed (t : Station) : Station :=
  { t with fields := t.fields.map fun f => if f.state = FieldState.service ∧ f.opp = 15 then { f with opp := 10 } else f }

/-- POWER_SAMPLE: over 8,000 W or 16,000 A every field in service moves one point down and none moves up again; 100 samples
in a row below 7,600 W, one every 10 µs, end that (R409). -/
def execPowerSample (watts amps : Nat) (s : State) : Host.Outcome State Fault Refusal :=
  .next (
    if 8000 < watts ∨ 16000 < amps then
      s.onStation fun t => { t with
        fields := t.fields.map fun f => if f.state = FieldState.service then f.down else f
        clamped := true, lowSamples := 0 }
    else if watts < 7600 then
      s.onStation fun t =>
        if t.clamped = false then { t with lowSamples := 0 }
        else if 100 ≤ t.lowSamples + 1 then
          let u := if t.state = .full then t.fullSpeed else t
          { u with clamped := false, lowSamples := 0 }
        else { t with lowSamples := t.lowSamples + 1 }
    else s.onStation fun t => { t with lowSamples := 0 })

/-- COOLANT_FAULT: STATE is failed, and every launch is halted as for a pre-emption after which it never resumes; one that has
not started never does (R409). -/
def execCoolantFault (s : State) : Host.Outcome State Fault Refusal :=
  let s := s.onStation fun t => { t with state := .failed }
  .next ((s.station.launches.filter Launch.resident).foldl (fun s m =>
    if m.phase = .placed then m.sites.foldl (fun s p => s.onCore p fun c => { c with halted := true }) s
    else s.halt m.id m) s)

/-! ## The loss of a field (R407) -/

/-- What a launch loses of a task of a context is recorded: a record of kind 4, whose ECAUSE and EVAL the spec does not state
(log entry 21). -/
def lostRecord (s : State) (p : Site) (k : CtxNo) (serial : Nat) : State :=
  let c := s.core p
  let x := c.ctx k
  let old := (x.ends.find? fun e => e.serial == serial).getD default
  let why := Config.lostStreamCause s.freeCount
  let val := Config.lostStreamCause (s.freeCount + 1)
  let r := if x.status != .dormant && x.serial == serial then killRecord s p k 4 1 [(x.pc, why, val)] x.tvec x.tsave (x.x.get 31)
    else killRecord s p k 4 1 [(old.epc, why, val)] 0 0 0
  { s with freeCount := s.freeCount + 2 }.addRecord c.role.launch r
/-- The stream of a slot is ended failed. -/
def lostStream (s : State) (p : Site) (slot : Nat) : State :=
  match (vget (s.core p).slots slot).job with
  | none => s
  | some j => (lostRecord s p j.ctx j.serial).onCore p fun c => c.endStream slot true
/-- The messages of a core that await their replies are ended failed; those of streams go with their streams. -/
def lostMessages (s : State) (p : Site) : State :=
  (((s.core p).msg.out.filter fun m => m.slot.isNone && (s.core p).injected m).foldl
    (fun s m => lostRecord s p m.ctx m.serial) s)

/-- A record of kind 6. -/
def collectiveRecord (s : State) (root : Site) (tag launch : Nat) (cream : Bool) : Vector Word 16 :=
  #v[6, s.siteValue root, BitVec.ofNat 32 (tag + if cream then 256 else 0), BitVec.ofNat 32 launch,
    0, 0, 0, 0, 0, 0, 0, 0, 0, 0, 0, 0]

/-- The root that a node of a fabric sum reaches by its parents. -/
def sumRoot (s : State) (t : Nat) : Nat → Site → Site
  | 0, p => p
  | fuel + 1, p =>
    match ((s.core p).sum t).cfg.bind fun g => g.parent with
    | none => p
    | some d => match neighbour s p d with
      | none => p
      | some q => sumRoot s t fuel q

/-- The sums of a launch that are pending, by root and tag, and its tiles that are not final, by source and tag. -/
def lostSums (s : State) (l : Launch) : List (Site × Nat) :=
  (l.sites.flatMap fun p => ((List.range 4).filter fun t => ((s.core p).sum t).busy).map fun t => (sumRoot s t 1024 p, t)).eraseDups
def lostTiles (s : State) (l : Launch) : List (Site × Nat) :=
  l.sites.flatMap fun p => (List.range 4).flatMap fun t =>
    let g := (s.core p).cream t
    if !g.busy || !g.joined then []
    else (g.tiles.zipIdx.filter fun q => !q.1.final).map fun q =>
      (if g.mode = .join then g.src else (g.rect.sites).getD q.2 g.src, t)

/-- Reports all a launch loses with field f. -/
def loseAll (l : Launch) (f : Nat) (s : State) : State :=
  let s := l.sites.foldl (fun s p => (List.range 8).foldl (fun s n => lostStream s p n) (lostMessages s p)) s
  let s := l.sites.foldl (State.killCore · fun p => if fieldOf p = f then 3 else 2) s
  let s := (lostSums s l).foldl (fun s (p, t) => s.addRecord l.id (collectiveRecord s p t l.id false)) s
  (lostTiles s l).foldl (fun s (p, t) => s.addRecord l.id (collectiveRecord s p t l.id true)) s

/-- What packets from one rectangle to another cross: the rows of the first as far as the columns of the second, then those
columns (R14). -/
def routes (a b : Rect) : List Rect :=
  let x0 := min a.x0 b.x0
  let y0 := min a.y0 b.y0
  [⟨x0, a.y0, max (a.x0 + a.w) (b.x0 + b.w) - x0, a.h⟩, ⟨b.x0, y0, b.w, max (a.y0 + a.h) (b.y0 + b.h) - y0⟩]
/-- The edge ports and the bridge that a core's streams and messages go to (R359, R374). -/
def outlets (s : State) (p : Site) : List Site :=
  let named := (s.core p).slots.toList.filterMap fun t => t.job.bind fun j => j.port
  ((portOf s p none).toList ++ named).map portSite ++ ((bridgeOf s p).toList).map bridgeSite
/-- What a launch routes through: the ways between its roles, and those from each core to its port and its bridge and back (R14,
log entry 21). -/
def Launch.reach (s : State) (l : Launch) : List Rect :=
  let one (p : Site) : Rect := ⟨p.x, p.y, 1, 1⟩
  l.rects.flatMap (fun a => l.rects.flatMap (routes a))
    ++ l.sites.flatMap fun p => (outlets s p).flatMap fun q => routes (one p) (one q) ++ routes (one q) (one p)

/-- A launch that is resident ends with its packets and granules; one that is saved ends as it was saved. -/
def State.lose (s : State) (f : Nat) (l : Launch) : State :=
  if l.phase = .saved then s.endSaved l 2 13 (loseAll l f)
  else
    let s := loseAll l f s
    let s := { s with
      mesh := s.mesh.filter fun p => !packetOf l p
      edgeReqs := s.edgeReqs.filter fun q => !(l.rects.any fun r => r.has q.site) }
    (s.refuseHeld l).finish l 2 13

/-- FIELD_LOSS: field `num` is withdrawn, and every launch that holds a core in it or routes through it is ended (R407). -/
def execFieldLoss (s : State) : Host.Outcome State Fault Refusal :=
  .next (
    let f := s.num
    if 64 ≤ f ∨ (s.field f).state ≠ .service then s
    else
      let r := fieldRect f
      let hit (l : Launch) : Bool :=
        (l.phase == .saved && (l.reach (s.unsaved l)).any fun q => q.meets r)
          || (l.resident && (l.reach s).any fun q => q.meets r)
      let s := s.onField f fun t => { t with state := .withdrawn }
      (s.station.launches.filter hit).foldl (State.lose · f) s)

/-! ## Bring-up (R410 to R413) -/

/-- A firmware image is accepted (R413). -/
def imageAccepted (t : Station) (img : List Byte) : Bool :=
  Config.ecdsaVerifies img && Config.lmsVerifies img && decide (t.minSvn ≤ Config.securityVersion img)

/-- The fields of the ordering code (R1, R410). -/
def presentField (v : Variant) (f : Nat) : Bool :=
  match v with
  | .ma => decide (f < 64)
  | .mb => decide (f < 56)

/-- Step 3 of R410, once an image is accepted: every field is under test. -/
def bringUp (v : Variant) (t : Station) (img : List Byte) : Station :=
  { t.extend 1 (Config.measure img) with
    state := .reduced, sigOk := true, sigBad := false, svn := Config.securityVersion img
    minSvn := max t.minSvn (Config.raisesMinimum img)
    fields := Vector.ofFn fun f => { Field.blank with state := if presentField v f.val then .testing else .absent }
    window := [], fwLen := 0, fwBad := false }

/-- POWER_ON_RESET (R410): everything is as after reset but what is outside the module's volatile state: host and edge
memory, the fuses, the firmware image, and the system's numbering. Then the loader verifies the firmware. -/
def execPowerOnReset (s : State) : Host.Outcome State Fault Refusal :=
  let t := Station.extend { Station.reset with minSvn := s.station.minSvn, firmware := s.station.firmware } 0 Config.loaderMeasure
  let t := if imageAccepted t t.firmware then bringUp s.variant t t.firmware else { t with state := .failed, sigBad := true }
  .next { State.reset with
    variant := s.variant, sysNum := s.sysNum, modules := s.modules, portSize := s.portSize, edge := s.edge
    edgeBad := s.edgeBad, host := s.host, station := t, cur := s.cur, num := s.num, agenda := s.agenda
    freeCount := s.freeCount }

/-- GO: a host port writes FWCTL.GO, in the state after a failed check alone: the uploaded image is verified, and bring-up
goes on or BAD is set (R412). -/
def execGo (s : State) : Host.Outcome State Fault Refusal :=
  .next (if !uploadOnly s then s
    else
      let img := readBytes s.station.window 0 s.station.fwLen
      s.onStation fun t => if imageAccepted t img then bringUp s.variant t img else { t with fwBad := true })

/-- The outcome of repair at bring-up for a half: nothing defective, one column on the spare, or failure (R12). -/
def spareFor : List Nat → Option (Option Nat)
  | [] => some none
  | [x] => some (some x)
  | _ => none

/-- FIELD_SELF_TEST: field `num` ends its test: repaired it enters service at 0.55 GHz, else it is withdrawn; when every
field of the ordering code is in service, STATE is full service and the fields run at 1.1 GHz (R12, R410, R411). -/
def execFieldSelfTest (result : SelfTest) (s : State) : Host.Outcome State Fault Refusal :=
  .next (
    let f := s.num
    if 64 ≤ f ∨ (s.field f).state ≠ .testing then s
    else
      let after (t : Field) : Field :=
        match spareFor result.west.eraseDups, spareFor result.east.eraseDups with
        | some w, some e => { t with state := .service, opp := 15, west := w, east := e }
        | _, _ => { t with state := .withdrawn }
      let s := s.onField f after
      if s.station.state = .reduced ∧
          (List.range 64).all (fun g => !presentField s.variant g || (s.field g).state == .service) then
        s.onStation fun t => { (if t.clamped then t else t.fullSpeed) with state := .full }
      else s)

/-! ## The progress watchdog (R202) -/

/-- The contexts of a core that wait. -/
def waitEntries (p : Nat) (c : Core) : List WatchEntry :=
  (List.finRange 8).filterMap fun k => match (c.ctx k).status with
    | .waiting w _ => some (.waits p k.val (c.ctx k).pc w)
    | _ => none
/-- The first request-class message of each context that is held at injection, and the head of the request queue. -/
def heldEntries (p : Nat) (c : Core) : List WatchEntry :=
  ((List.finRange 8).filterMap fun k => (c.msg.queue.find? fun m => m.ctx == k && decide (hdrKind m.hdr ≤ kAMO)).map
      fun m => WatchEntry.injecting p k.val (hdrKind m.hdr) (hdrTag m.hdr))
    ++ (c.msg.requests.take 1).map fun r => .queued p (hdrKind r.hdr) (hdrTag r.hdr)

/-- PROGRESS_WATCHDOG: an interval of partition `num` ends. With progress in it the next one begins; with none, while a
context waits or a request is held, and none is at TLEVEL 1 or 2, the station gets a report of at most 64 entries. -/
def execProgressWatchdog (s : State) : Host.Outcome State Fault Refusal :=
  .next (match s.station.partitions[s.num]? with
    | none => s
    | some q =>
      let cores := s.cores.filter fun e => e.2.live && (partRectOf q).has (BitVec.ofNat 18 e.1)
      let trapped := cores.any fun e => (List.finRange 8).any fun k => decide (1 ≤ (e.2.ctx k).tlevel)
      let waits := cores.flatMap fun e => waitEntries e.1 e.2
      let entries := waits ++ cores.flatMap fun e => heldEntries e.1 e.2
      if trapped || cores.any (fun e => e.2.progress) then
        cores.foldl (fun s e => s.onCore (BitVec.ofNat 18 e.1) fun c => { c with progress := false }) s
      else if entries.isEmpty then s
      else s.onStation fun t => { t with reports := (s.num, entries.take 64) :: t.reports })

end Sys2Proof.Machine
end

