-- ==== Sys2Proof/Machine/Imm.lean ====
section
/-!
DEFINITION. The immediates, majors 0x02 to 0x0B (R81, R115).
-/
namespace Sys2Proof.Machine
open Sys2Proof

/-- ADDI (R115). -/
def execAddi (rd ra : XReg) (imm : BitVec 16) (s : State) : Host.Outcome State Fault Refusal :=
  alu1 (.addi rd ra imm) rd ra (fun a => a + imm.signExtend 32) s

/-- ANDI (R115). -/
def execAndi (rd ra : XReg) (imm : BitVec 16) (s : State) : Host.Outcome State Fault Refusal :=
  alu1 (.andi rd ra imm) rd ra (fun a => a &&& imm.zeroExtend 32) s

/-- ORI (R115). -/
def execOri (rd ra : XReg) (imm : BitVec 16) (s : State) : Host.Outcome State Fault Refusal :=
  alu1 (.ori rd ra imm) rd ra (fun a => a ||| imm.zeroExtend 32) s

/-- XORI (R115). -/
def execXori (rd ra : XReg) (imm : BitVec 16) (s : State) : Host.Outcome State Fault Refusal :=
  alu1 (.xori rd ra imm) rd ra (fun a => a ^^^ imm.zeroExtend 32) s

/-- SLTI (R115). -/
def execSlti (rd ra : XReg) (imm : BitVec 16) (s : State) : Host.Outcome State Fault Refusal :=
  alu1 (.slti rd ra imm) rd ra (fun a => flag (a.slt (imm.signExtend 32))) s

/-- SLTNI (R115). -/
def execSltni (rd ra : XReg) (imm : BitVec 16) (s : State) : Host.Outcome State Fault Refusal :=
  alu1 (.sltni rd ra imm) rd ra (fun a => flag (a.ult (imm.signExtend 32))) s

/-- LUI (R115). -/
def execLui (rd : XReg) (imm : BitVec 16) (s : State) : Host.Outcome State Fault Refusal :=
  gate (.lui rd imm) s fun s => s.result (.lui rd imm) rd (imm ++ (0 : BitVec 16))

/-- SHLI (R115). -/
def execShli (rd ra : XReg) (sh : BitVec 5) (s : State) : Host.Outcome State Fault Refusal :=
  alu1 (.shli rd ra sh) rd ra (fun a => a <<< sh.toNat) s

/-- SHRI (R115). -/
def execShri (rd ra : XReg) (sh : BitVec 5) (s : State) : Host.Outcome State Fault Refusal :=
  alu1 (.shri rd ra sh) rd ra (fun a => a >>> sh.toNat) s

/-- SRAI (R115). -/
def execSrai (rd ra : XReg) (sh : BitVec 5) (s : State) : Host.Outcome State Fault Refusal :=
  alu1 (.srai rd ra sh) rd ra (fun a => a.sshiftRight sh.toNat) s

end Sys2Proof.Machine
end

