-- ==== Sys2Proof/Machine/Sys.lean ====
section
/-!
DEFINITION. The SYS group, major 0x24: tasks, traps and system registers (R132 to R137).
-/
namespace Sys2Proof.Machine
open Sys2Proof

/-- TDONE (R132): ends an ordinary or handler task; in an edge-reversal context it traps with ERMODE. -/
def execTdone (s : State) : Host.Outcome State Fault Refusal :=
  gate .tdone s fun s =>
    if s.me.kind = .edgeReversal then s.trap ERMODE (instrWord .tdone) else s.endTask .tdone false

/-- TYIELD (R133): gives up issue slots, which affects timing only. -/
def execTyield (s : State) : Host.Outcome State Fault Refusal :=
  gate .tyield s fun s => s.advance .tyield

/-- The lowest-numbered dormant ordinary context (R58, R134) whose accesses are all performed (R132). -/
def freeOrdinary (c : Core) : Option CtxNo :=
  (List.finRange 8).find? fun k => decide (k.val < c.role.ord) && (c.ctx k).status == .dormant && accessesDone c k

/-- What a task that the current issue slot spawns is to observe: the register writes of its spawner, and of those its spawner
observes, that the tensor queue still holds (R58). -/
def State.observed (s : State) : List (CtxNo × Nat) :=
  let c := s.here
  ((s.cur.2, c.nextCmd) :: s.me.spawned).filter fun g => c.tensor.queue.any fun q => match q with
    | .mts id j _ _ => j == g.1 && decide (id < g.2)
    | _ => false

/-- TSPAWN (R58, R134): the entry from xa, the argument from xd, the context's number or all ones to xd. -/
def execTspawn (rd ra : XReg) (s : State) : Host.Outcome State Fault Refusal :=
  let i := Instr.tspawn rd ra
  gate i s fun s =>
    let entry := s.me.rx ra
    jumpTo s entry <|
      match freeOrdinary s.here with
      | none => s.result i rd 0xFFFFFFFF
      | some c =>
        let t := s.start s.cur.1 c entry.toNat (s.me.rx rd) (BitVec.ofNat 32 s.cur.2.val) 0 0
        (t.onHere fun d => d.onCtx c fun x => { x with spawned := s.observed }).result i rd (BitVec.ofNat 32 c.val)

/-- TRAP (R135): the code is EVAL, and EPC names the next instruction. -/
def execTrap (code : BitVec 12) (s : State) : Host.Outcome State Fault Refusal :=
  gate (.trap code) s fun s => s.trapNext (.trap code) TRAPI (code.zeroExtend 32)

/-- BREAK (R135). -/
def execBreakpt (code : BitVec 12) (s : State) : Host.Outcome State Fault Refusal :=
  gate (.breakpt code) s fun s => s.trapNext (.breakpt code) BREAKPT (code.zeroExtend 32)

/-- TRET (R136, R141): to EPC of the current level, one level down. -/
def execTret (s : State) : Host.Outcome State Fault Refusal :=
  gate .tret s fun s =>
    if s.me.tlevel = 0 then s.trap ILLEGAL 0x90004000
    else
      let target := if s.me.tlevel = 1 then s.me.epc1 else s.me.epc2
      jumpTo s target (s.onMe fun c => { c with pc := target, tlevel := c.tlevel - 1 })

/-! ## System registers (R89 to R91) -/

/-- Half n of the 64-bit registers of a context: n = 0 is register 0, low word (R318, R342). -/
def half (v : Vector DWord 8) (n : Nat) : Word := (vget v (n / 2)).extractLsb' (n % 2 * 32) 32

/-- The SWEEP register: valid, in progress, pending from an earlier crossing (R320). -/
def sweepWord (t : Tensor) : Word :=
  BitVec.ofNat 32 ((List.range 4).foldl (fun a n =>
    let w := vget t.sweeps n
    a + ((if w.valid then 1 else 0) + (if w.pend.length ≥ 1 then 16 else 0) + (if w.pend.length ≥ 2 then 256 else 0))
      * 2 ^ n) 0)

/-- The value of a register as it stands (R66, R90, R91, R138, R232, R318 to R321, R342, R363). -/
def sysRead (s : State) (n : Nat) : Word :=
  let c := s.here
  let x := s.me
  if 0x010 ≤ n ∧ n ≤ 0x017 then vget x.lvl (n - 0x010)
  else if 0x018 ≤ n ∧ n ≤ 0x01F then vget x.lvlx (n - 0x018)
  else if 0x210 ≤ n ∧ n ≤ 0x21F then half (Vector.ofFn fun r => tgRead x.tg r.val) (n - 0x210)
  else if 0x220 ≤ n ∧ n ≤ 0x227 then vget c.tensor.df (n - 0x220)
  else if 0x240 ≤ n ∧ n ≤ 0x27F then vget c.tensor.sc (n - 0x240)
  else if 0x400 ≤ n ∧ n ≤ 0x407 then vget c.errank (n - 0x400)
  else if 0x510 ≤ n ∧ n ≤ 0x51F then half x.sg (n - 0x510)
  else match n with
    | 0x000 => s.siteValue s.cur.1
    | 0x001 => ctxValue c s.cur.2
    | 0x002 => c.cycles.extractLsb' 0 32
    | 0x003 => x.lcych
    | 0x020 => BitVec.ofNat 32 x.tlevel
    | 0x021 => x.tvec
    | 0x022 => x.tsave
    | 0x024 => x.epc1
    | 0x025 => x.epc2
    | 0x026 => x.ecause1
    | 0x027 => x.ecause2
    | 0x028 => x.eval1
    | 0x029 => x.eval2
    | 0x02A => x.bankKey
    | 0x100 => x.vstat
    | 0x200 => c.tensor.qstat
    | 0x201 => c.tensor.accovf
    | 0x202 => sweepWord c.tensor
    | 0x203 => c.tensor.pairErr
    | 0x500 => BitVec.ofNat 32 c.role.asid
    | _ => 0

/-- An MFS of an engine's register waits for the commands that engine's order puts before it (R89, R319). -/
def sysReadStalls (s : State) (n : Nat) : Bool :=
  let c := s.here
  if 0x100 ≤ n ∧ n ≤ 0x1FF then !c.vec.isEmpty
  else if n = 0x200 ∨ n = 0x201 ∨ n = 0x203 then
    !(c.tensor.queue.isEmpty && c.tensor.run.isEmpty) ||
      c.vec.any fun v => match v with
        | .op k n _ _ => k == s.cur.2 && n == s.me.serial
        | .mts _ _ _ => false
        | .mem _ => false
  else if 0x202 ≤ n ∧ n ≤ 0x2FF then !c.tensor.queue.isEmpty
  else if 0x400 ≤ n ∧ n ≤ 0x4FF then !c.sync.queue.isEmpty
  else false

/-- Cycles pass before a read of LCYC (R90); how many is free (log entry 5). -/
def State.tick (s : State) : State :=
  { s.onHere fun c => { c with cycles := c.cycles + Config.elapsed s.freeCount } with freeCount := s.freeCount + 1 }

/-- MFS (R89, R90, R137). A read of LCYC into a register other than x0 latches LCYCH. -/
def execMfs (rd : XReg) (num : BitVec 12) (s : State) : Host.Outcome State Fault Refusal :=
  let i := Instr.mfs rd num
  gate i s fun s =>
    if sysReadStalls s num.toNat then s
    else
      let s := if num = 0x002 then s.tick else s
      let s := if num = 0x002 ∧ rd.val ≠ 0 then s.onMe fun x => { x with lcych := s.here.cycles.extractLsb' 32 32 }
        else s
      s.result i rd (sysRead s num.toNat)

/-- MTS of a control-range register: its RW fields (R9, R138). -/
def Ctx.sysWrite (x : Ctx) (n : Nat) (v : Word) : Ctx :=
  match n with
  | 0x021 => { x with tvec := v &&& 0xFFFFFFFD }
  | 0x022 => { x with tsave := v &&& 0xFFFFFFF0 }
  | 0x024 => { x with epc1 := v }
  | 0x025 => { x with epc2 := v }
  | 0x026 => { x with ecause1 := v &&& 0x80FFFFFF }
  | 0x027 => { x with ecause2 := v &&& 0x80FFFFFF }
  | 0x028 => { x with eval1 := v }
  | 0x029 => { x with eval2 := v }
  | _ => x

/-- MTS (R89, R137): a control-range register at once, an engine's register as an entry of that engine's queue, where a
full queue stalls (R25). -/
def execMts (ra : XReg) (num : BitVec 12) (s : State) : Host.Outcome State Fault Refusal :=
  let i := Instr.mts ra num
  gate i s fun s =>
    let n := num.toNat
    let v := s.me.rx ra
    if n < 0x100 then (s.onMe fun x => x.sysWrite n v).advance i
    else if n < 0x200 then
      (if s.here.vec.length ≥ 8 then s
        else (s.onHere fun c => { c with vec := c.vec ++ [.mts s.cur.2 s.me.serial v] }).advance i)
    else if s.here.tensor.queue.length ≥ 8 then s
    else (s.onHere fun c => { c with
      tensor := { c.tensor with queue := c.tensor.queue ++ [.mts c.nextCmd s.cur.2 n v] }, nextCmd := c.nextCmd + 1 }).advance i

end Sys2Proof.Machine
end

