-- ==== Sys2Proof/Machine/Vop.lean ====
section
/-!
DEFINITION. Tokens and the lane operations, major 0x28 (R153 to R163). A meaning of format V places its instruction in
the vector queue (R155); what the vector engine then does with it is the function of the same name with `do`.
-/
namespace Sys2Proof.Machine
open Sys2Proof

/-! ## Tokens -/

/-- Sixteen elements by number. -/
def vec16 {α : Type} (f : Nat → α) : Vector α 16 :=
  #v[f 0, f 1, f 2, f 3, f 4, f 5, f 6, f 7, f 8, f 9, f 10, f 11, f 12, f 13, f 14, f 15]
def Token.lane (t : Token) (i : Nat) : Word := vget t.lanes i
def Token.ok (t : Token) (i : Nat) : Bool := t.valid.getLsbD i
/-- The bits of 16 Booleans by number. -/
def bits16 (f : Nat → Bool) : BitVec 16 :=
  BitVec.ofNat 16 ((List.range 16).foldl (fun a i => a + if f i then 2 ^ i else 0) 0)
/-- The token of the lanes that have a value, with the flags they set: a lane without one is zero and invalid (R154). -/
def mkToken (f : Nat → Option Flagged) : Token × Nat :=
  ({ lanes := vec16 fun i => ((f i).map Prod.fst).getD 0, valid := bits16 fun i => (f i).isSome },
    (List.range 16).foldl (fun a i => flagsOr a (((f i).map Prod.snd).getD 0)) 0)
/-- Writes a token and its flags. -/
def Ctx.wtok (x : Ctx) (vd : VReg) (r : Token × Nat) : Ctx := (x.wv vd r.1).raise r.2

/-- Lane by lane over one, two and three sources: a lane is valid where every source is (R154). -/
def lanes1 (x : Ctx) (vd va : VReg) (f : Word → Flagged) : Ctx :=
  let a := x.v.get va
  x.wtok vd (mkToken fun i => if a.ok i then some (f (a.lane i)) else none)
def lanes2 (x : Ctx) (vd va : VReg) (b : VSrc) (f : Word → Word → Flagged) : Ctx :=
  let a := x.v.get va
  let b := x.vsrc b
  x.wtok vd (mkToken fun i => if a.ok i && b.ok i then some (f (a.lane i) (b.lane i)) else none)
def lanes3 (x : Ctx) (vd va : VReg) (b : VSrc) (vc : VReg) (f : Word → Word → Word → Flagged) : Ctx :=
  let a := x.v.get va
  let b := x.vsrc b
  let c := x.v.get vc
  x.wtok vd (mkToken fun i =>
    if a.ok i && b.ok i && c.ok i then some (f (a.lane i) (b.lane i) (c.lane i)) else none)

/-- All ones for true, zero for false (R159, R160). -/
def ones (p : Bool) : Word := if p then 0xFFFFFFFF else 0

/-- A format-V instruction goes into the vector queue, and its context goes on; a full queue stalls it (R25, R155). -/
def enqueueV (i : Instr) (s : State) : Host.Outcome State Fault Refusal :=
  gate i s fun s =>
    if 8 ≤ s.here.vec.length then s
    else (s.onHere fun c => { c with vec := c.vec ++ [.op s.cur.2 s.me.serial i c.nextCmd] }).advance i

/-! ## Lane operations on two sources (R159, R160) -/

/-- What the vector engine does for VADD.F (R159). -/
def doVaddF (vd va : VReg) (b : VSrc) (x : Ctx) : Ctx := lanes2 x vd va b fun a b => fadd a b
/-- VADD.F (R159, R155). -/
def execVaddF (vd va : VReg) (b : VSrc) (s : State) : Host.Outcome State Fault Refusal := enqueueV (.vaddF vd va b) s

/-- What the vector engine does for VSUB.F (R159). -/
def doVsubF (vd va : VReg) (b : VSrc) (x : Ctx) : Ctx := lanes2 x vd va b fun a b => fsub a b
/-- VSUB.F (R159, R155). -/
def execVsubF (vd va : VReg) (b : VSrc) (s : State) : Host.Outcome State Fault Refusal := enqueueV (.vsubF vd va b) s

/-- What the vector engine does for VMUL.F (R159). -/
def doVmulF (vd va : VReg) (b : VSrc) (x : Ctx) : Ctx := lanes2 x vd va b fun a b => fmul a b
/-- VMUL.F (R159, R155). -/
def execVmulF (vd va : VReg) (b : VSrc) (s : State) : Host.Outcome State Fault Refusal := enqueueV (.vmulF vd va b) s

/-- What the vector engine does for VMIN.F (R159). -/
def doVminF (vd va : VReg) (b : VSrc) (x : Ctx) : Ctx := lanes2 x vd va b fun a b => (fminmax false a b, 0)
/-- VMIN.F (R159, R155). -/
def execVminF (vd va : VReg) (b : VSrc) (s : State) : Host.Outcome State Fault Refusal := enqueueV (.vminF vd va b) s

/-- What the vector engine does for VMAX.F (R159). -/
def doVmaxF (vd va : VReg) (b : VSrc) (x : Ctx) : Ctx := lanes2 x vd va b fun a b => (fminmax true a b, 0)
/-- VMAX.F (R159, R155). -/
def execVmaxF (vd va : VReg) (b : VSrc) (s : State) : Host.Outcome State Fault Refusal := enqueueV (.vmaxF vd va b) s

/-- What the vector engine does for VCLT.F (R159). -/
def doVcltF (vd va : VReg) (b : VSrc) (x : Ctx) : Ctx := lanes2 x vd va b fun a b => (ones (flt a b), 0)
/-- VCLT.F (R159, R155). -/
def execVcltF (vd va : VReg) (b : VSrc) (s : State) : Host.Outcome State Fault Refusal := enqueueV (.vcltF vd va b) s

/-- What the vector engine does for VCEQ.F (R159). -/
def doVceqF (vd va : VReg) (b : VSrc) (x : Ctx) : Ctx := lanes2 x vd va b fun a b => (ones (feq a b), 0)
/-- VCEQ.F (R159, R155). -/
def execVceqF (vd va : VReg) (b : VSrc) (s : State) : Host.Outcome State Fault Refusal := enqueueV (.vceqF vd va b) s

/-- What the vector engine does for VCLE.F (R159). -/
def doVcleF (vd va : VReg) (b : VSrc) (x : Ctx) : Ctx := lanes2 x vd va b fun a b => (ones (fle a b), 0)
/-- VCLE.F (R159, R155). -/
def execVcleF (vd va : VReg) (b : VSrc) (s : State) : Host.Outcome State Fault Refusal := enqueueV (.vcleF vd va b) s

/-- What the vector engine does for VADD.I (R160). -/
def doVaddI (vd va : VReg) (b : VSrc) (x : Ctx) : Ctx := lanes2 x vd va b fun a b => (a + b, 0)
/-- VADD.I (R160, R155). -/
def execVaddI (vd va : VReg) (b : VSrc) (s : State) : Host.Outcome State Fault Refusal := enqueueV (.vaddI vd va b) s

/-- What the vector engine does for VSUB.I (R160). -/
def doVsubI (vd va : VReg) (b : VSrc) (x : Ctx) : Ctx := lanes2 x vd va b fun a b => (a - b, 0)
/-- VSUB.I (R160, R155). -/
def execVsubI (vd va : VReg) (b : VSrc) (s : State) : Host.Outcome State Fault Refusal := enqueueV (.vsubI vd va b) s

/-- What the vector engine does for VMUL.I (R160). -/
def doVmulI (vd va : VReg) (b : VSrc) (x : Ctx) : Ctx := lanes2 x vd va b fun a b => (a * b, 0)
/-- VMUL.I (R160, R155). -/
def execVmulI (vd va : VReg) (b : VSrc) (s : State) : Host.Outcome State Fault Refusal := enqueueV (.vmulI vd va b) s

/-- What the vector engine does for VMIN.I (R160). -/
def doVminI (vd va : VReg) (b : VSrc) (x : Ctx) : Ctx := lanes2 x vd va b fun a b => (if b.slt a then b else a, 0)
/-- VMIN.I (R160, R155). -/
def execVminI (vd va : VReg) (b : VSrc) (s : State) : Host.Outcome State Fault Refusal := enqueueV (.vminI vd va b) s

/-- What the vector engine does for VMAX.I (R160). -/
def doVmaxI (vd va : VReg) (b : VSrc) (x : Ctx) : Ctx := lanes2 x vd va b fun a b => (if a.slt b then b else a, 0)
/-- VMAX.I (R160, R155). -/
def execVmaxI (vd va : VReg) (b : VSrc) (s : State) : Host.Outcome State Fault Refusal := enqueueV (.vmaxI vd va b) s

/-- What the vector engine does for VAND (R160). -/
def doVand (vd va : VReg) (b : VSrc) (x : Ctx) : Ctx := lanes2 x vd va b fun a b => (a &&& b, 0)
/-- VAND (R160, R155). -/
def execVand (vd va : VReg) (b : VSrc) (s : State) : Host.Outcome State Fault Refusal := enqueueV (.vand vd va b) s

/-- What the vector engine does for VOR (R160). -/
def doVor (vd va : VReg) (b : VSrc) (x : Ctx) : Ctx := lanes2 x vd va b fun a b => (a ||| b, 0)
/-- VOR (R160, R155). -/
def execVor (vd va : VReg) (b : VSrc) (s : State) : Host.Outcome State Fault Refusal := enqueueV (.vor vd va b) s

/-- What the vector engine does for VXOR (R160). -/
def doVxor (vd va : VReg) (b : VSrc) (x : Ctx) : Ctx := lanes2 x vd va b fun a b => (a ^^^ b, 0)
/-- VXOR (R160, R155). -/
def execVxor (vd va : VReg) (b : VSrc) (s : State) : Host.Outcome State Fault Refusal := enqueueV (.vxor vd va b) s

/-- What the vector engine does for VSHL (R160). -/
def doVshl (vd va : VReg) (b : VSrc) (x : Ctx) : Ctx := lanes2 x vd va b fun a b => (a <<< (b.toNat % 32), 0)
/-- VSHL (R160, R155). -/
def execVshl (vd va : VReg) (b : VSrc) (s : State) : Host.Outcome State Fault Refusal := enqueueV (.vshl vd va b) s

/-- What the vector engine does for VSHR (R160). -/
def doVshr (vd va : VReg) (b : VSrc) (x : Ctx) : Ctx := lanes2 x vd va b fun a b => (a >>> (b.toNat % 32), 0)
/-- VSHR (R160, R155). -/
def execVshr (vd va : VReg) (b : VSrc) (s : State) : Host.Outcome State Fault Refusal := enqueueV (.vshr vd va b) s

/-- What the vector engine does for VSRA (R160). -/
def doVsra (vd va : VReg) (b : VSrc) (x : Ctx) : Ctx := lanes2 x vd va b fun a b => (a.sshiftRight (b.toNat % 32), 0)
/-- VSRA (R160, R155). -/
def execVsra (vd va : VReg) (b : VSrc) (s : State) : Host.Outcome State Fault Refusal := enqueueV (.vsra vd va b) s

/-- What the vector engine does for VCLT.I (R160). -/
def doVcltI (vd va : VReg) (b : VSrc) (x : Ctx) : Ctx := lanes2 x vd va b fun a b => (ones (a.slt b), 0)
/-- VCLT.I (R160, R155). -/
def execVcltI (vd va : VReg) (b : VSrc) (s : State) : Host.Outcome State Fault Refusal := enqueueV (.vcltI vd va b) s

/-- What the vector engine does for VCEQ.I (R160). -/
def doVceqI (vd va : VReg) (b : VSrc) (x : Ctx) : Ctx := lanes2 x vd va b fun a b => (ones (a == b), 0)
/-- VCEQ.I (R160, R155). -/
def execVceqI (vd va : VReg) (b : VSrc) (s : State) : Host.Outcome State Fault Refusal := enqueueV (.vceqI vd va b) s

/-! ## Fused operations, absolute value and choice (R159, R161) -/

/-- What the vector engine does for VFMA.F (R159). -/
def doVfmaF (vd va : VReg) (b : VSrc) (vc : VReg) (x : Ctx) : Ctx := lanes3 x vd va b vc ffma
/-- VFMA.F (R159, R155). -/
def execVfmaF (vd va : VReg) (b : VSrc) (vc : VReg) (s : State) : Host.Outcome State Fault Refusal :=
  enqueueV (.vfmaF vd va b vc) s

/-- What the vector engine does for VFMS.F (R159). -/
def doVfmsF (vd va : VReg) (b : VSrc) (vc : VReg) (x : Ctx) : Ctx :=
  lanes3 x vd va b vc fun a b c => ffma a b (fnegate c)
/-- VFMS.F (R159, R155). -/
def execVfmsF (vd va : VReg) (b : VSrc) (vc : VReg) (s : State) : Host.Outcome State Fault Refusal :=
  enqueueV (.vfmsF vd va b vc) s

/-- What the vector engine does for VABS.F (R159). -/
def doVabsF (vd va : VReg) (x : Ctx) : Ctx := lanes1 x vd va fun a => (if isNan a then QNAN else a &&& 0x7FFFFFFF, 0)
/-- VABS.F (R159, R155). -/
def execVabsF (vd va : VReg) (s : State) : Host.Outcome State Fault Refusal := enqueueV (.vabsF vd va) s

/-- What the vector engine does for VSEL (R161). -/
def doVsel (vd va : VReg) (b : VSrc) (vc : VReg) (x : Ctx) : Ctx :=
  lanes3 x vd va b vc fun a b c => (if c = 0 then b else a, 0)
/-- VSEL (R161, R155). -/
def execVsel (vd va : VReg) (b : VSrc) (vc : VReg) (s : State) : Host.Outcome State Fault Refusal :=
  enqueueV (.vsel vd va b vc) s

/-- What the vector engine does for VMASK (R161). -/
def doVmask (vd va : VReg) (b : VSrc) (x : Ctx) : Ctx :=
  let a := x.v.get va
  let b := x.vsrc b
  x.wtok vd (mkToken fun i => if b.lane i ≠ 0 then some (a.lane i, 0) else none)
/-- VMASK (R161, R155). -/
def execVmask (vd va : VReg) (b : VSrc) (s : State) : Host.Outcome State Fault Refusal := enqueueV (.vmask vd va b) s

/-! ## Moves between lanes (R162) -/

/-- What the vector engine does for VSHUF (R162). -/
def doVshuf (vd va : VReg) (b : VSrc) (x : Ctx) : Ctx :=
  let a := x.v.get va
  let b := x.vsrc b
  x.wtok vd (mkToken fun i =>
    let j := (b.lane i).toNat % 16
    if a.ok j && b.ok i then some (a.lane j, 0) else none)
/-- VSHUF (R162, R155). -/
def execVshuf (vd va : VReg) (b : VSrc) (s : State) : Host.Outcome State Fault Refusal := enqueueV (.vshuf vd va b) s

/-- What the vector engine does for VBCAST (R162). -/
def doVbcast (vd va : VReg) (lane : Fin 16) (x : Ctx) : Ctx :=
  let a := x.v.get va
  x.wtok vd (mkToken fun _ => if a.ok lane.val then some (a.lane lane.val, 0) else none)
/-- VBCAST (R162, R155). -/
def execVbcast (vd va : VReg) (lane : Fin 16) (s : State) : Host.Outcome State Fault Refusal :=
  enqueueV (.vbcast vd va lane) s

/-- What the vector engine does for VEXT (R162). -/
def doVext (vd va : VReg) (b : VSrc) (n : Fin 16) (x : Ctx) : Ctx :=
  let a := x.v.get va
  let b := x.vsrc b
  x.wtok vd (mkToken fun i =>
    let t := i + n.val
    let (src, j) := if t < 16 then (a, t) else (b, t - 16)
    if src.ok j then some (src.lane j, 0) else none)
/-- VEXT (R162, R155). -/
def execVext (vd va : VReg) (b : VSrc) (n : Fin 16) (s : State) : Host.Outcome State Fault Refusal :=
  enqueueV (.vext vd va b n) s

/-! ## Reductions (R163) -/

/-- Joins two elements of the tree, an absent one giving way to the other. -/
def treeJoin (g : Word → Word → Flagged) (p q : Option Flagged) : Option Flagged :=
  match p, q with
  | none, q => q
  | p, none => p
  | some p, some q => let r := g p.1 q.1; some (r.1, flagsOr (flagsOr p.2 q.2) r.2)
/-- One level: element i with element i + w. -/
def treeLevel (g : Word → Word → Flagged) (w : Nat) (l : List (Option Flagged)) : List (Option Flagged) :=
  (l.take w).zipWith (treeJoin g) (l.drop w)
/-- The fixed tree over the valid lanes (R163). -/
def reduceTree (g : Word → Word → Flagged) (a : Token) : Option Flagged :=
  ([8, 4, 2, 1].foldl (fun l w => treeLevel g w l)
    ((List.range 16).map fun i => if a.ok i then some (a.lane i, 0) else none)).headD none
def reduceV (x : Ctx) (vd va : VReg) (g : Word → Word → Flagged) : Ctx :=
  let r := reduceTree g (x.v.get va)
  x.wtok vd (mkToken fun _ => r)

/-- What the vector engine does for VRADD.F (R163). -/
def doVraddF (vd va : VReg) (x : Ctx) : Ctx := reduceV x vd va fadd
/-- VRADD.F (R163, R155). -/
def execVraddF (vd va : VReg) (s : State) : Host.Outcome State Fault Refusal := enqueueV (.vraddF vd va) s

/-- What the vector engine does for VRMAX.F (R163). -/
def doVrmaxF (vd va : VReg) (x : Ctx) : Ctx := reduceV x vd va fun a b => (fminmax true a b, 0)
/-- VRMAX.F (R163, R155). -/
def execVrmaxF (vd va : VReg) (s : State) : Host.Outcome State Fault Refusal := enqueueV (.vrmaxF vd va) s

/-- What the vector engine does for VRADD.I (R163). -/
def doVraddI (vd va : VReg) (x : Ctx) : Ctx := reduceV x vd va fun a b => (a + b, 0)
/-- VRADD.I (R163, R155). -/
def execVraddI (vd va : VReg) (s : State) : Host.Outcome State Fault Refusal := enqueueV (.vraddI vd va) s

end Sys2Proof.Machine
end

