-- ==== Sys2Proof/Machine/Vcvt.lean ====
section
/-!
DEFINITION. The conversions, major 0x2A (R171 to R175).
-/
namespace Sys2Proof.Machine
open Sys2Proof

/-- What the vector engine does for VCVTFI (R172). -/
def doVcvtfi (vd va : VReg) (x : Ctx) : Ctx := lanes1 x vd va f32ToI32
/-- VCVTFI (R172, R155). -/
def execVcvtfi (vd va : VReg) (s : State) : Host.Outcome State Fault Refusal := enqueueV (.vcvtfi vd va) s

/-- What the vector engine does for VCVTIF (R172). -/
def doVcvtif (vd va : VReg) (x : Ctx) : Ctx := lanes1 x vd va fun a => roundDy ⟨a.toInt, 0⟩
/-- VCVTIF (R172, R155). -/
def execVcvtif (vd va : VReg) (s : State) : Host.Outcome State Fault Refusal := enqueueV (.vcvtif vd va) s

/-- The discarded part of a lane on the BF16 grid; none for a NaN or an infinity (R45). -/
def laneDiscard (a : Word) : Nat × Nat :=
  if (fexact a).isNone then (0, 0) else bfDiscard (bitsN a.toNat 30 0)
/-- F32 to BF16 by churn for lane i of a token (R45, R173). -/
def bfChurn (t : Token) (i step : Nat) : BitVec 16 × Nat :=
  let a := t.lane i
  if (fexact a).isNone then f32ToBf16 a
  else
    let mag := bitsN a.toNat 30 0
    let (d, n) := laneDiscard a
    let r := mag / 2 ^ 16 + if churnUp d n (laneDiscard (t.lane ((i + 1) % 16))).1 i step then 1 else 0
    let sign := if a.getLsbD 31 then 2 ^ 15 else 0
    (BitVec.ofNat 16 (sign + r),
      if 0x7F80 ≤ r then fOF + fNX else if d = 0 then 0 else if r < 0x0080 then fNX + fUF else fNX)
/-- What the vector engine does for VPKBF, with STEP[15:0] as it stands (R173). -/
def doVpkbf (vd va vb : VReg) (churn : Bool) (step : Nat) (x : Ctx) : Ctx :=
  let a := x.v.get va
  let b := x.v.get vb
  let bf (t : Token) (i : Nat) : BitVec 16 × Nat := if churn then bfChurn t i step else f32ToBf16 (t.lane i)
  x.wtok vd (mkToken fun i =>
    if a.ok i && b.ok i then some ((bf b i).1 ++ (bf a i).1, flagsOr (bf a i).2 (bf b i).2) else none)
/-- VPKBF (R173, R155). -/
def execVpkbf (vd va vb : VReg) (churn : Bool) (s : State) : Host.Outcome State Fault Refusal :=
  enqueueV (.vpkbf vd va vb churn) s

/-- What the vector engine does for VUPBF (R173). -/
def doVupbf (vd va : VReg) (half : Bool) (x : Ctx) : Ctx :=
  lanes1 x vd va fun a => ((if half then a else a <<< 16) &&& 0xFFFF0000, 0)
/-- VUPBF (R173, R155). -/
def execVupbf (vd va : VReg) (half : Bool) (s : State) : Host.Outcome State Fault Refusal :=
  enqueueV (.vupbf vd va half) s

/-- An element value as an F32 lane with its flags (R174). -/
def elemLane (v : Option Dy) : Flagged :=
  match v with
  | none => (QNAN, 0)
  | some v => roundDy v
/-- Halfword r of a token (R174). -/
def Token.half (t : Token) (r : Nat) : Nat := (t.lane (r / 2)).toNat / 2 ^ (16 * (r % 2)) % 2 ^ 16
/-- Register n of the file; the group checks keep n below 16. -/
def Ctx.vn (x : Ctx) (n : Nat) : Token := vget x.v n

/-- What the vector engine does for VDEC8 (R174). -/
def doVdec8 (vd va vb : VReg) (e : Fin 16) (x : Ctx) : Ctx :=
  let w := x.vn (va.val + e.val / 4)
  let h := x.v.get vb
  x.wtok vd (mkToken fun r =>
    let code := (w.lane r).toNat / 2 ^ (8 * (e.val % 4)) % 2 ^ 8
    if w.ok r && h.ok (r / 2) then some (elemLane (elemValue code (h.half r) e.val true)) else none)
/-- VDEC8 (R174, R155). -/
def execVdec8 (vd va vb : VReg) (e : Fin 16) (s : State) : Host.Outcome State Fault Refusal :=
  enqueueV (.vdec8 vd va vb e) s

/-- What the vector engine does for VDEC6 (R174). -/
def doVdec6 (vd va vb : VReg) (e : Fin 16) (x : Ctx) : Ctx :=
  let w (c : Nat) : Token := x.vn (va.val + c)
  let h := x.v.get vb
  let lo := 6 * e.val / 32
  let hi := (6 * e.val + 5) / 32
  x.wtok vd (mkToken fun r =>
    let f := ((w 0).lane r).toNat + 2 ^ 32 * ((w 1).lane r).toNat + 2 ^ 64 * ((w 2).lane r).toNat
    let code := f / 2 ^ (6 * e.val) % 2 ^ 6
    if (w lo).ok r && (w hi).ok r && h.ok (r / 2) then some (elemLane (elemValue code (h.half r) e.val false)) else none)
/-- VDEC6 (R174, R155). -/
def execVdec6 (vd va vb : VReg) (e : Fin 16) (s : State) : Host.Outcome State Fault Refusal :=
  enqueueV (.vdec6 vd va vb e) s

/-- The quantised block of a token in the layout of R34, and the QSTAT counts (R175). -/
def encodeToken (a : Token) (sc : Word) (held eight : Bool) : Token × QCount :=
  let (codes, hdr, q) := qblock ((List.range 16).map fun i => if a.ok i then a.lane i else 0) sc held eight
  let packed := packCodes codes eight
  let n := if eight then 4 else 3
  ((mkToken fun i =>
    if i < n then some (BitVec.ofNat 32 (packed / 2 ^ (32 * i)), 0)
    else if i = n then some (BitVec.ofNat 32 hdr, 0) else none).1, q)
/-- What the vector engine does for VENC8, with SCn as it stands (R175). -/
def doVenc8 (vd va : VReg) (held : Bool) (sc : Word) (x : Ctx) : Ctx × QCount :=
  let (t, q) := encodeToken (x.v.get va) sc held true
  (x.wv vd t, q)
/-- VENC8 (R175, R155). -/
def execVenc8 (vd va : VReg) (held : Bool) (sc : Fin 64) (s : State) : Host.Outcome State Fault Refusal :=
  enqueueV (.venc8 vd va held sc) s

/-- What the vector engine does for VENC6, with SCn as it stands (R175). -/
def doVenc6 (vd va : VReg) (held : Bool) (sc : Word) (x : Ctx) : Ctx × QCount :=
  let (t, q) := encodeToken (x.v.get va) sc held false
  (x.wv vd t, q)
/-- VENC6 (R175, R155). -/
def execVenc6 (vd va : VReg) (held : Bool) (sc : Fin 64) (s : State) : Host.Outcome State Fault Refusal :=
  enqueueV (.venc6 vd va held sc) s

end Sys2Proof.Machine
end

