-- ==== Sys2Proof/Machine/Vspc.lean ====
section
/-!
DEFINITION. The special functions, major 0x2B (R176 to R178), and VECTOR_ENGINE_PERFORM, the vector engine's performing
of the oldest entry of its queue (R155).
-/
namespace Sys2Proof.Machine
open Sys2Proof

/-- What the vector engine does for VEXP2 (R176). -/
def doVexp2 (vd va : VReg) (x : Ctx) : Ctx := lanes1 x vd va fexp2
/-- VEXP2 (R176, R155). -/
def execVexp2 (vd va : VReg) (s : State) : Host.Outcome State Fault Refusal := enqueueV (.vexp2 vd va) s

/-- What the vector engine does for VLOG2 (R176). -/
def doVlog2 (vd va : VReg) (x : Ctx) : Ctx := lanes1 x vd va flog2
/-- VLOG2 (R176, R155). -/
def execVlog2 (vd va : VReg) (s : State) : Host.Outcome State Fault Refusal := enqueueV (.vlog2 vd va) s

/-- What the vector engine does for VRCP (R176). -/
def doVrcp (vd va : VReg) (x : Ctx) : Ctx := lanes1 x vd va frcp
/-- VRCP (R176, R155). -/
def execVrcp (vd va : VReg) (s : State) : Host.Outcome State Fault Refusal := enqueueV (.vrcp vd va) s

/-- What the vector engine does for VRSQ (R176). -/
def doVrsq (vd va : VReg) (x : Ctx) : Ctx := lanes1 x vd va frsq
/-- VRSQ (R176, R155). -/
def execVrsq (vd va : VReg) (s : State) : Host.Outcome State Fault Refusal := enqueueV (.vrsq vd va) s

/-- What the vector engine does for VTANH (R176). -/
def doVtanh (vd va : VReg) (x : Ctx) : Ctx := lanes1 x vd va ftanh
/-- VTANH (R176, R155). -/
def execVtanh (vd va : VReg) (s : State) : Host.Outcome State Fault Refusal := enqueueV (.vtanh vd va) s

/-- What the vector engine does for VSMX (R177): a lane that is invalid in va leaves both state lanes unchanged. -/
def doVsmx (vd va : VReg) (x : Ctx) : Ctx :=
  let a := x.v.get va
  let m := x.v.get vd
  let s := x.vn (vd.val + 1)
  let r (i : Nat) : Word × Word × Nat := smx (m.lane i) (s.lane i) (a.lane i)
  let m' : Token := { lanes := vec16 fun i => if a.ok i then (r i).1 else m.lane i, valid := m.valid ||| a.valid }
  let s' : Token := { lanes := vec16 fun i => if a.ok i then (r i).2.1 else s.lane i, valid := s.valid ||| a.valid }
  { x with v := vset (x.v.set vd m') (vd.val + 1) s' }.raise
    ((List.range 16).foldl (fun f i => if a.ok i then flagsOr f (r i).2.2 else f) 0)
/-- VSMX (R177, R155). -/
def execVsmx (vd va : VReg) (s : State) : Host.Outcome State Fault Refusal := enqueueV (.vsmx vd va) s

/-- What the vector engine does for VSMXAP (R178). -/
def doVsmxap (vd va vb : VReg) (x : Ctx) : Ctx :=
  let a := x.v.get va
  let m := x.v.get vb
  let s := x.vn (vb.val + 1)
  x.wtok vd (mkToken fun i =>
    if a.ok i && m.ok i && s.ok i then some (smxap (a.lane i) (m.lane i) (s.lane i)) else none)
/-- VSMXAP (R178, R155). -/
def execVsmxap (vd va vb : VReg) (s : State) : Host.Outcome State Fault Refusal := enqueueV (.vsmxap vd va vb) s

/-! ## The vector engine performs (R155) -/

/-- What the vector engine does for an instruction of format V with STEP[15:0] and the channel scales as they stand. -/
def doVector (i : Instr) (step : Nat) (sc : Vector Word 64) (x : Ctx) : Ctx × QCount :=
  match i with
  | .vaddF vd va b => (doVaddF vd va b x, qzero)
  | .vsubF vd va b => (doVsubF vd va b x, qzero)
  | .vmulF vd va b => (doVmulF vd va b x, qzero)
  | .vfmaF vd va b vc => (doVfmaF vd va b vc x, qzero)
  | .vfmsF vd va b vc => (doVfmsF vd va b vc x, qzero)
  | .vminF vd va b => (doVminF vd va b x, qzero)
  | .vmaxF vd va b => (doVmaxF vd va b x, qzero)
  | .vabsF vd va => (doVabsF vd va x, qzero)
  | .vcltF vd va b => (doVcltF vd va b x, qzero)
  | .vceqF vd va b => (doVceqF vd va b x, qzero)
  | .vcleF vd va b => (doVcleF vd va b x, qzero)
  | .vaddI vd va b => (doVaddI vd va b x, qzero)
  | .vsubI vd va b => (doVsubI vd va b x, qzero)
  | .vmulI vd va b => (doVmulI vd va b x, qzero)
  | .vminI vd va b => (doVminI vd va b x, qzero)
  | .vmaxI vd va b => (doVmaxI vd va b x, qzero)
  | .vand vd va b => (doVand vd va b x, qzero)
  | .vor vd va b => (doVor vd va b x, qzero)
  | .vxor vd va b => (doVxor vd va b x, qzero)
  | .vshl vd va b => (doVshl vd va b x, qzero)
  | .vshr vd va b => (doVshr vd va b x, qzero)
  | .vsra vd va b => (doVsra vd va b x, qzero)
  | .vcltI vd va b => (doVcltI vd va b x, qzero)
  | .vceqI vd va b => (doVceqI vd va b x, qzero)
  | .vsel vd va b vc => (doVsel vd va b vc x, qzero)
  | .vmask vd va b => (doVmask vd va b x, qzero)
  | .vshuf vd va b => (doVshuf vd va b x, qzero)
  | .vbcast vd va n => (doVbcast vd va n x, qzero)
  | .vext vd va b n => (doVext vd va b n x, qzero)
  | .vraddF vd va => (doVraddF vd va x, qzero)
  | .vrmaxF vd va => (doVrmaxF vd va x, qzero)
  | .vraddI vd va => (doVraddI vd va x, qzero)
  | .vcvtfi vd va => (doVcvtfi vd va x, qzero)
  | .vcvtif vd va => (doVcvtif vd va x, qzero)
  | .vpkbf vd va vb churn => (doVpkbf vd va vb churn step x, qzero)
  | .vupbf vd va h => (doVupbf vd va h x, qzero)
  | .vdec8 vd va vb e => (doVdec8 vd va vb e x, qzero)
  | .vdec6 vd va vb e => (doVdec6 vd va vb e x, qzero)
  | .venc8 vd va held n => doVenc8 vd va held (sc.get n) x
  | .venc6 vd va held n => doVenc6 vd va held (sc.get n) x
  | .vexp2 vd va => (doVexp2 vd va x, qzero)
  | .vlog2 vd va => (doVlog2 vd va x, qzero)
  | .vrcp vd va => (doVrcp vd va x, qzero)
  | .vrsq vd va => (doVrsq vd va x, qzero)
  | .vtanh vd va => (doVtanh vd va x, qzero)
  | .vsmx vd va => (doVsmx vd va x, qzero)
  | .vsmxap vd va vb => (doVsmxap vd va vb x, qzero)
  | _ => (x, qzero)

/-- Whether a tensor command writes SCn (R322), or is a TFACT. -/
def TensorFn.writesSc (f : TensorFn) (n : Nat) : Bool :=
  match f with
  | .scl first m _ => decide (first ≤ n ∧ n < first + m)
  | _ => false
def TensorFn.isFact (f : TensorFn) : Bool :=
  match f with
  | .fact _ _ => true
  | _ => false
/-- A write of register `num` that context k issued before engine command number `before` is still to be performed:
an MTS, or a TSCL or TFACT that `writes` picks out (R169, R175). -/
def factorPending (t : Tensor) (k : CtxNo) (num before : Nat) (writes : TensorFn → Bool) : Bool :=
  t.queue.any (fun q => match q with
    | .cmd c => c.ctx == k && decide (c.id < before) && writes c.fn
    | .mts id j m _ => j == k && decide (id < before) && m == num)
    || t.run.any fun r => r.cmd.ctx == k && decide (r.cmd.id < before) && writes r.cmd.fn

/-- What context k waits for before it uses register `num`: the writes it issued before, and those its spawners did (R58). -/
def factorWaits (c : Core) (k : CtxNo) (num before : Nat) (writes : TensorFn → Bool) : Bool :=
  factorPending c.tensor k num before writes
    || (c.ctx k).spawned.any fun g => factorPending c.tensor g.1 num g.2 fun _ => false

/-- VENC8 and VENC6 wait for earlier writes of SCn (R58, R175). -/
def vectorWaits (c : Core) (k : CtxNo) (before : Nat) (i : Instr) : Bool :=
  match i with
  | .venc8 _ _ _ n => factorWaits c k (0x240 + n.val) before fun f => f.writesSc n.val
  | .venc6 _ _ _ n => factorWaits c k (0x240 + n.val) before fun f => f.writesSc n.val
  | _ => false

/-- The core after its vector engine has performed the oldest entry of its queue (R89, R155); a VMEM instruction is performed in
the turn of its context. -/
def vectorPerform (c : Core) : Core :=
  match c.vec with
  | [] => c
  | .mts k _ v :: rest => { c.onCtx k fun x => { x with vstat := v &&& 0x3F } with vec := rest }
  | .mem _ :: _ => c
  | .op k _ i before :: rest =>
    if vectorWaits c k before i then c
    else
      let r := doVector i c.step16 c.tensor.sc (c.ctx k)
      ({ c.setCtx k r.1 with vec := rest }).count r.2

/-- VECTOR_ENGINE_PERFORM (R155): the oldest entry of the vector queue of the core in `cur`. -/
def execVectorEnginePerform (s : State) : Host.Outcome State Fault Refusal := .next (s.onHere vectorPerform)

end Sys2Proof.Machine
end

