-- ==== Sys2Proof/Machine/Tensor.lean ====
section
/-!
DEFINITION. The commands of the tensor engine, major 0x30 (R309 to R336): TSHAPE and TGEOM at issue; the others are
checked and queued at issue, started in issue order (TENSOR_START), and carried out by MMA_ROW and TENSOR_COMPLETE.
-/
namespace Sys2Proof.Machine
open Sys2Proof

/-! ## Issue -/

/-- The completion counter an esel names: 0x80 names none (R310). -/
def counterOf (e : BitVec 8) : Option Nat := if e = 0x80 then none else some e.toNat

/-- Takes the trap of a failed shape check. -/
def State.shapeTrap (s : State) (f : ShapeFault) : State := s.trap f.1 (BitVec.ofNat 32 f.2.1) f.2.2.1 f.2.2.2

/-- Queues a command that passed its checks: it takes its locks and its rings; a full queue or a full lock table stalls
the context (R25, R193, R296, R310). -/
def State.tensorIssue (s : State) (i : Instr) (fn : TensorFn) (counter : Option Nat) (spans : List (Nat × Nat × Bool))
    (rings : List Nat) : State :=
  let c := s.here
  let id := c.nextCmd
  let locks := (spans.map fun g => lockOf id g.1 g.2.1 g.2.2).flatten
  if 8 ≤ c.tensor.queue.length ∨ lockRoom c locks = false then s
  else
    let cmd : TensorCmd := { id := id, ctx := s.cur.2, serial := s.me.serial, fn := fn, tg := s.me.tg, counter := counter }
    let bind (c : Core) : Core := rings.foldl (fun c q => c.onRing q fun r => { r with cbound := r.cbound ++ [id] }) c
    (s.onHere fun c => { (bind c).lock locks with
      tensor := { (bind c).tensor with queue := c.tensor.queue ++ [.cmd cmd] }
      nextCmd := id + 1 }).advance i

def spansOf (g : TG) (fn : Nat) : List (Nat × Nat × Bool) := (tgSpans g fn).map fun a => (a.base, a.len, a.write)

/-- A block command: the checks of R315, then the queue. -/
def blockCommand (i : Instr) (esel : BitVec 8) (fn target : Nat) (f : TensorFn) (s : State) :
    Host.Outcome State Fault Refusal :=
  gate i s fun s =>
    match shapeFault s.here.role s.me.tg fn target with
    | some e => s.shapeTrap e
    | none => s.tensorIssue i f (counterOf esel) (spansOf s.me.tg fn) []

/-- Eight 64-bit registers from 64 bytes of scratchpad (R311, R344). -/
def words8 (c : Core) (a : Nat) : Vector DWord 8 :=
  let w (n : Nat) : DWord := BitVec.ofNat 64 (c.nat (a + 8 * n) 8)
  #v[w 0, w 1, w 2, w 3, w 4, w 5, w 6, w 7]

/-- TSHAPE (R316). -/
def execTshape (rb : XReg) (esel : BitVec 8) (s : State) : Host.Outcome State Fault Refusal :=
  let i := Instr.tshape rb esel
  gate i s fun s =>
    let a := s.me.rx rb
    record s a 8 64 fun s =>
      let g : TG := words8 s.here a.toNat
      match shapeFault s.here.role g esel.toNat 0 with
      | some e => s.shapeTrap e
      | none => (s.onMe fun x => { x with tg := g }).advance i

/-- TGEOM (R317). -/
def execTgeom (rb : XReg) (esel : BitVec 8) (s : State) : Host.Outcome State Fault Refusal :=
  gate (.tgeom rb esel) s fun s =>
    (s.onMe fun x => { x with tg := vset x.tg esel.toNat (x.rpair rb) }).advance (.tgeom rb esel)

/-- Code bytes a block of a matrix operand takes (R323). -/
def csOf (fmt : Nat) : Nat := if fmt = 1 then 16 else 12
def rowBytes (g : TG) : Nat := tgKb g * (csOf (tgAfmt g) + 2)
def panelBytes (g : TG) : Nat := 16 * tgExt g 0 * tgKb g * (csOf (tgBfmt g) + 2)
/-- PSL, the slots the panel fills (R323). -/
def panelSlots (g : TG) (sz : Nat) : Nat := (panelBytes g + sz - 1) / max sz 1

/-- MMA and MMAW at issue (R303, R323). MMAW at x = 511 has no east site to name in EVAL: the model names (0, y) (log entry 32). -/
def matrixCommand (i : Instr) (qa qb : RingNo) (esel : BitVec 8) (east : Bool) (s : State) :
    Host.Outcome State Fault Refusal :=
  let fn := if east then fnMMAW else fnMMA
  gate i s fun s =>
    let ra := s.here.ring qa.val
    let rb := s.here.ring qb.val
    let g := s.me.tg
    let p := s.cur.1
    if ra.ns = 0 then s.trap RING 0 0 qa.val
    else if rb.ns = 0 then s.trap RING 0 0 qb.val
    else match shapeFault s.here.role g fn 0 with
      | some e => s.shapeTrap e
      | none =>
        if ra.sz < rowBytes g then s.shapeTrap (shapeFail 7 (rowBytes g) 6)
        else if rb.ns < panelSlots g rb.sz then s.shapeTrap (shapeFail 7 (panelBytes g) 6)
        else if east && (launchNeighbour s p .east).isNone then
          s.trap MSG (siteWord (Site.mk (p.x + 1) p.y)) 0 qa.val
        else s.tensorIssue i (.mma qa qb east) (counterOf esel) (spansOf g fn) [qa.val, qb.val]

/-- MMA (R323, R324). -/
def execMma (qa qb : RingNo) (esel : BitVec 8) (s : State) : Host.Outcome State Fault Refusal :=
  matrixCommand (.mma qa qb esel) qa qb esel false s
/-- MMAW (R303, R323). -/
def execMmaw (qa qb : RingNo) (esel : BitVec 8) (s : State) : Host.Outcome State Fault Refusal :=
  matrixCommand (.mmaw qa qb esel) qa qb esel true s
/-- TQNT (R325). -/
def execTqnt (esel : BitVec 8) (s : State) : Host.Outcome State Fault Refusal :=
  blockCommand (.tqnt esel) esel fnTQNT 0 .qnt s
/-- TDQNT (R326). -/
def execTdqnt (esel : BitVec 8) (s : State) : Host.Outcome State Fault Refusal :=
  blockCommand (.tdqnt esel) esel fnTDQNT 0 .dqnt s
/-- TSTPAIR (R327). -/
def execTstpair (esel : BitVec 8) (s : State) : Host.Outcome State Fault Refusal :=
  blockCommand (.tstpair esel) esel fnTSTPAIR 0 .stpair s
/-- TDECAY op 00 (R329). -/
def execTdecay (slot : Fin 4) (esel : BitVec 8) (s : State) : Host.Outcome State Fault Refusal :=
  blockCommand (.tdecay slot esel) esel fnTDECAY 0 (.decay none) s
/-- TDECAY op 01: decay and register (R329). -/
def execTdecaySweep (slot : Fin 4) (esel : BitVec 8) (s : State) : Host.Outcome State Fault Refusal :=
  blockCommand (.tdecaySweep slot esel) esel fnTDECAY 0 (.decay (some slot.val)) s
/-- TDECAY op 10: drop, with none of the shape checks (R329). -/
def execTdecayDrop (slot : Fin 4) (esel : BitVec 8) (s : State) : Host.Outcome State Fault Refusal :=
  gate (.tdecayDrop slot esel) s fun s =>
    s.tensorIssue (.tdecayDrop slot esel) (.drop slot.val) (counterOf esel) [] []
/-- TSADD (R332). -/
def execTsadd (esel : BitVec 8) (s : State) : Host.Outcome State Fault Refusal :=
  blockCommand (.tsadd esel) esel fnTSADD 0 .sadd s
/-- TNORM (R334): the target is the value of xb. -/
def execTnorm (rb : XReg) (esel : BitVec 8) (s : State) : Host.Outcome State Fault Refusal :=
  blockCommand (.tnorm rb esel) esel fnTNORM (s.me.rx rb).toNat (.norm (s.me.rx rb).toNat) s

/-- The checks of TSCL and TFACT at issue, then the queue (R322). -/
def loadFactors (i : Instr) (a : Word) (len : Nat) (fn : TensorFn) (s : State) : State :=
  if a.toNat % 4 ≠ 0 then s.trap ALIGN a
  else if len ≠ 0 ∧ inKind s.here.role [.data, .code] a.toNat len = false then s.trap BOUNDS a
  else s.tensorIssue i fn none [(a.toNat, len, false)] []

/-- TSCL (R322). -/
def execTscl (n : BitVec 5) (rb : XReg) (esel : BitVec 8) (s : State) : Host.Outcome State Fault Refusal :=
  gate (.tscl n rb esel) s fun s =>
    let a := s.me.rx rb
    let m := n.toNat + 1
    loadFactors (.tscl n rb esel) a (4 * m) (.scl esel.toNat m a.toNat) s

/-- The bytes TFACT reads: up to the word of the highest set bit (R322). -/
def factLen (mask : BitVec 8) : Nat := if mask = 0 then 0 else 4 * (Nat.log2 mask.toNat + 1)

/-- TFACT (R322). -/
def execTfact (rb : XReg) (esel : BitVec 8) (s : State) : Host.Outcome State Fault Refusal :=
  gate (.tfact rb esel) s fun s =>
    let a := s.me.rx rb
    loadFactors (.tfact rb esel) a (factLen esel) (.fact esel a.toNat) s

/-! ## What a command does to one block -/

/-- A started command with the values it read once (R310). -/
structure TArgs where
  k : CtxNo
  serial : Nat
  g : TG
  step : Nat
  sc : Vector Word 64
  df : Vector Word 8
  deriving DecidableEq, Repr

def TArgs.rd (t : TArgs) (w : TWork) (a n : Nat) : TWork := w.read t.k t.serial a n
def TArgs.wr (t : TArgs) (w : TWork) (a : Nat) (bs : List Byte) : TWork := w.write t.k t.serial a bs
def TArgs.factor (t : TArgs) : Nat := (vget t.df (tgDfn t.g)).toNat

/-- Writes a packed block with its header (R34, R325). -/
def writePacked (t : TArgs) (w : TWork) (a h : Nat) (x : List Word) (sc : Word) (eight : Bool) : TWork :=
  let (codes, hdr, q) := qblock x sc (tgHeld t.g) eight
  let w := t.wr w a (bytesOfNat (codeBytes eight) (packCodes codes eight))
  let w := t.wr w h (bytesOfNat 2 hdr)
  { w with q := qadd w.q q }

/-- TQNT on block n (R325). -/
def qntBlock (t : TArgs) (w : TWork) (n : Nat) : TWork :=
  let a := tgWide t.g n
  let x := readTokens w.c a
  let sc := vget t.sc (tgChannel t.g n)
  let w := t.rd w a 64
  if tgPfmt t.g = 3 then
    let p := x.map fun v => fexact (fmul v sc).1
    let (b, o) := accOfValues p
    let w := t.wr w (tgPacked t.g n) (accBytes b)
    { w with q := qadd w.q ⟨0, 0, (p.filter Option.isNone).length⟩, ovf := w.ovf || o }
  else writePacked t w (tgPacked t.g n) (tgHeader t.g n) x sc (tgPfmt t.g == 1)

/-- rne_f32 of a value times a channel scale, one rounding (R326, R44). -/
def scaledWord (v : Option Dy) (sc : Word) : Word :=
  match v with
  | none => QNAN
  | some v =>
    match fval sc with
    | .nan => QNAN
    | .inf s => if v.m = 0 then QNAN else infWord (s != decide (v.m < 0))
    | .fin s m e => (roundDy (dyMul v ⟨if s then -(m : Int) else m, e⟩)).1

/-- TDQNT on block n (R326). -/
def dqntBlock (t : TArgs) (w : TWork) (n : Nat) : TWork :=
  let a := tgPacked t.g n
  let (v, w) : List (Option Dy) × TWork :=
    if tgPfmt t.g = 3 then
      let b := readAcc w.c a
      (b.lanes.map (laneVal b), t.rd w a 104)
    else
      let h := tgHeader t.g n
      let eight := tgPfmt t.g == 1
      (elemsOf (optBytes w.c a (codeBytes eight)) (optBytes w.c h 2) eight, t.rd (t.rd w a (codeBytes eight)) h 2)
  let sc := vget t.sc (tgChannel t.g n)
  t.wr w (tgWide t.g n) (tokenBytes (v.map fun v => if tgScl t.g then scaledWord v sc else rneF32 v))

/-- TSTPAIR (R327): the plain copy, then the transposed copy; an error writes PAIRERR before it is recorded (R335). -/
def stpairAll (t : TArgs) (w : TWork) : TWork :=
  let eight := tgPfmt t.g == 1
  let cs := packSize (tgPfmt t.g)
  let sc := vget t.sc (tgScb t.g)
  let rows := (List.range 16).map fun r => readTokens w.c (tgWide t.g r)
  let w := (List.range 16).foldl (fun w r => t.rd w (tgWide t.g r) 64) w
  let w := (List.range 16).foldl (fun w r =>
    writePacked t w (tgPbase t.g + cs * r) (tgHbase t.g + 2 * r) (rows.getD r []) sc eight) w
  let w := (List.range 16).foldl (fun w m =>
    writePacked t w (tgX2base t.g + cs * m) (tgH2base t.g + 2 * m) (rows.map fun r => r.getD m 0) sc eight) w
  if w.faults.isEmpty then w
  else { w with c := { w.c with tensor := { w.c.tensor with
    pairErr := BitVec.ofNat 32 (tgX2base t.g / 4 * 2 ^ 16 + tgPbase t.g / 4) } } }

/-- A stamped read of a token: its words and the elapsed steps; from 2^15 on it reads as zero and counts (R328). A stamp
an error covers makes every lane NaN (R335). -/
def stampedToken (t : TArgs) (w : TWork) (n : Nat) : List Word × Nat × TWork :=
  let a := tgWide t.g n
  let h := tgHeader t.g n
  let w := onDemand w t.step a
  let x := readTokens w.c a
  match natOpt (optBytes w.c h 2) with
  | none => (List.replicate 16 QNAN, 0, t.rd (t.rd w a 64) h 2)
  | some stamp =>
    let e := elapsedSteps t.step stamp
    let w := t.rd (t.rd w a 64) h 2
    if 2 ^ 15 ≤ e then (List.replicate 16 0, e, { w with q := qadd w.q ⟨0, 16, 0⟩ }) else (x, e, w)

/-- A stamped read of a Phocy-A block (R328). -/
def stampedAcc (t : TArgs) (w : TWork) (n : Nat) : Acc × Nat × TWork :=
  let a := tgWide t.g n
  let w := onDemand w t.step a
  let b := readAcc w.c a
  let e := if b.stamped then elapsedSteps t.step b.stamp else 0
  let w := t.rd w a 104
  if 2 ^ 15 ≤ e then (Acc.fresh0, e, { w with q := qadd w.q ⟨0, 16, 0⟩ }) else (b, e, w)

/-- The header of a FRESH block with STAMPED and STAMP set and the rest as it is (R38, R329). -/
def stampHdr (hdr step : Nat) : Nat := 2 ^ 29 + step % 2 ^ 16 * 2 ^ 13 + hdr % 2 ^ 13
/-- TDECAY on block n (R329). -/
def decayOne (t : TArgs) (w : TWork) (n : Nat) : TWork :=
  let a := tgWide t.g n
  if tgWfmt t.g = 1 then
    let (x, e, w) := stampedToken t w n
    let y := if 2 ^ 15 ≤ e then x else x.map fun v => decayWord v e t.factor
    t.wr (t.wr w a (tokenBytes y)) (tgHeader t.g n) (bytesOfNat 2 t.step)
  else
    let (b, e, w) := stampedAcc t w n
    if 2 ^ 15 ≤ e then t.wr w a (accBytes { b with stamped := true, stamp := t.step })
    else if b.fresh then t.wr w (a + 96) (bytesOfNat 8 (stampHdr (w.c.nat (a + 96) 8) t.step))
    else if b.stamped then t.wr w a (accBytes { decayBlock b e t.factor with stamp := t.step })
    else w

/-- TSADD on block n: an element that reads as zero takes g as it stands, as R332 writes it; the sum of R48 would round a
NaN and -0.0 and grow a block of g (log entry 32). -/
def saddOne (t : TArgs) (w : TWork) (n : Nat) : TWork :=
  let a := tgWide t.g n
  let ga := a - tgWbase t.g + tgX2base t.g
  if tgWfmt t.g = 1 then
    let (x, e, w) := stampedToken t w n
    let g := readTokens w.c ga
    let w := t.rd w ga 64
    let r := if 2 ^ 15 ≤ e then g else (x.zip g).map fun (v, y) => rneSum (decayWord v e t.factor) y
    t.wr (t.wr w a (tokenBytes r)) (tgHeader t.g n) (bytesOfNat 2 t.step)
  else
    let (b, e, w) := stampedAcc t w n
    let g := readAcc w.c ga
    let w := t.rd w ga 104
    let (r, o) := if 2 ^ 15 ≤ e then (g, false) else accAdd (decayBlock b e t.factor) g
    t.wr { w with ovf := w.ovf || o } a (accBytes { r with stamped := true, stamp := t.step })

/-- The exponent steps TNORM takes: the most up to d that keep m × 2^d below 2^46 (R334). -/
def normSteps (m : Nat) : Nat → Nat
  | 0 => 0
  | d + 1 => if m * 2 ^ (d + 1) < 2 ^ 46 then d + 1 else normSteps m d

/-- TNORM on block n (R334): a block that R39 makes NaR is written with a valid header. -/
def normOne (t : TArgs) (w : TWork) (target n : Nat) : TWork :=
  let a := tgWide t.g n
  let b := readAcc w.c a
  let hdr := w.c.nat (a + 96) 8
  let invalid := bitsN hdr 63 30 != 0 || bitsN hdr 11 0 == 4095 || (badWord w.c (a + 96) 8).isSome
  let w := t.rd w a 104
  if b.fresh || decide (b.x ≤ target) then (if invalid then t.wr w a (accBytes b) else w)
  else
    let m := (b.lanes.filterMap id).foldl (fun m v => max m v.natAbs) 0
    if b.lanes.all Option.isNone then t.wr w a (accBytes { b with x := target })
    else
      let d := normSteps m (b.x - target)
      t.wr w a (accBytes { b with lanes := b.lanes.map fun l => l.map fun v => v * 2 ^ d, x := b.x - d })

/-! ## Matrix rows (R301, R302, R323, R324) -/

/-- The blocks of an A row or a column of the panel: n blocks of codes, then headers, in a list of bytes. -/
def blocksOf (bs : List (Option Byte)) (first n cs hdrs : Nat) : List (List (Option Dy)) :=
  (List.range n).map fun j =>
    elemsOf ((bs.drop (cs * (first + j))).take cs) ((bs.drop (hdrs + 2 * (first + j))).take 2) (cs == 16)

/-- The exact sum of 16 products; NaR in any factor makes it NaR (R42). -/
def dotDy (x y : List (Option Dy)) : Option Dy :=
  (x.zip y).foldl (fun a p =>
    match a, p.1, p.2 with
    | some a, some u, some v => some (dyAdd a (dyMul u v))
    | _, _, _ => none) (some ⟨0, 0⟩)

/-- The bytes of n slots from the head of a ring. -/
def headSlots (c : Core) (r : Ring) (n : Nat) : List (Option Byte) :=
  ((List.range n).map fun k => optBytes c (r.slot ((r.head + k) % max r.ns 1)) r.sz).flatten

/-- C block n under a row and a panel, K-blocks in ascending order (R42, R324). -/
def macBlock (t : TArgs) (row panel : List (Option Byte)) (w : TWork) (cb n : Nat) : TWork :=
  let g := t.g
  let kb := tgKb g
  let a := tgWide g n
  let arow := blocksOf row 0 kb (csOf (tgAfmt g)) (kb * csOf (tgAfmt g))
  let cols := (List.range 16).map fun i =>
    blocksOf panel ((16 * cb + i) * kb) kb (csOf (tgBfmt g)) (16 * tgExt g 0 * kb * csOf (tgBfmt g))
  let b := if tgFresh g then Acc.fresh0 else readAcc w.c a
  let w := if tgFresh g then w else t.rd w a 104
  let (r, o) := (List.range kb).foldl (fun (p : Acc × Bool) j =>
    let q := accMac p.1 (cols.map fun col => dotDy (arow.getD j []) (col.getD j []))
    (q.1, p.2 || q.2)) (b, false)
  t.wr { w with ovf := w.ovf || o } a (accBytes { r with stamped := false, stamp := 0 })

/-! ## Start, rows, completion -/

def TensorRun.args (r : TensorRun) : TArgs :=
  { k := r.cmd.ctx, serial := r.cmd.serial, g := r.cmd.tg, step := r.step.toNat, sc := r.sc, df := r.df }
/-- The function of R309 a command belongs to, for its spans. -/
def TensorFn.number : TensorFn → Nat
  | .mma _ _ _ => fnMMA
  | .qnt => fnTQNT
  | .dqnt => fnTDQNT
  | .stpair => fnTSTPAIR
  | .decay _ => fnTDECAY
  | .sadd => fnTSADD
  | .norm _ => fnTNORM
  | .drop _ => 0
  | .scl _ _ _ => 0
  | .fact _ _ => 0
/-- A command reads stamped blocks (R328). -/
def TensorFn.stamped : TensorFn → Bool
  | .decay _ | .sadd => true
  | _ => false
/-- Some line a command accesses is under an earlier conflicting lock, or on an absent page, or a rewrite that its next block
demands is: it waits (R194, R398). -/
def tensorWaits (c : Core) (r : TensorRun) : Bool :=
  (tgSpans r.cmd.tg r.cmd.fn.number).any (fun a => held c r.cmd.id a.base a.len a.write || absent c a.base a.len)
    || (r.cmd.fn.stamped && demandAbsent c r.step.toNat (tgWide r.cmd.tg r.row))

/-- The C blocks that the next row of a matrix command reads and writes. -/
def rowBlocks (r : TensorRun) : List Nat :=
  (List.range (tgExt r.cmd.tg 0)).map fun cb => tgWide r.cmd.tg (cb + tgExt r.cmd.tg 0 * r.row)
/-- Some line of the next row's C blocks is under an earlier lock, or on an absent page: the row waits (R194, R398). -/
def rowWaits (c : Core) (r : TensorRun) : Bool :=
  (rowBlocks r).any fun a => held c r.cmd.id a 104 true || absent c a 104

/-- An MTS of a tensor-range register, performed in command order (R89, R319 to R321). -/
def Tensor.setReg (t : Tensor) (n : Nat) (v : Word) : Tensor :=
  if n = 0x200 then { t with qstat := v }
  else if n = 0x201 then { t with accovf := v &&& 1 }
  else if 0x220 ≤ n ∧ n ≤ 0x227 then { t with df := vset t.df (n - 0x220) v }
  else if 0x240 ≤ n ∧ n ≤ 0x27F then { t with sc := vset t.sc (n - 0x240) v }
  else t

def Core.dequeue (c : Core) : Core := { c with tensor := { c.tensor with queue := c.tensor.queue.drop 1 } }

/-- TSCL and TFACT at their start: a word with an error leaves its register (R322). -/
def loadWords (w : TWork) (k : CtxNo) (serial : Nat) (words : List (Nat × Nat)) (set : Tensor → Nat → Word → Tensor) :
    TWork :=
  words.foldl (fun w (n, a) =>
    let bad := !(badWord w.c a 4).isNone
    let w := w.read k serial a 4
    if bad then w else { w with c := { w.c with tensor := set w.c.tensor n (w.c.word a) } }) w

/-- TENSOR_START: the oldest entry of the tensor queue starts (R310). A TDECAY op 10 discards the sweeps still pending in its slot:
R330 has only a registration wait for them, the model's choice (log entry 32). -/
def tensorStartStep (s : State) : State :=
  let p := s.cur.1
  let c := s.here
  if !c.live || (c.halted && c.vec.isEmpty) then s
  else match c.tensor.queue with
    | [] => s
    | .mts _ _ n v :: _ => s.onHere fun c => { c.dequeue with tensor := c.dequeue.tensor.setReg n v }
    | .cmd m :: _ =>
      let load (a len : Nat) (words : List (Nat × Nat)) (set : Tensor → Nat → Word → Tensor) : State :=
        if held c m.id a len false || absent c a len then s
        else
          let w := loadWords ⟨c.dequeue, [], qzero, false⟩ m.ctx m.serial words set
          (s.commit p w).onHere fun c => c.unlock m.id
      match m.fn with
      | .scl first n a => load a (4 * n) ((List.range n).map fun j => (first + j, a + 4 * j))
          fun t n v => { t with sc := vset t.sc n v }
      | .fact mask a => load a (factLen mask) (((List.range 8).filter fun j => mask.getLsbD j).map fun j => (j, a + 4 * j))
          fun t n v => { t with df := vset t.df n v }
      | .drop n =>
        (s.onHere fun c => { c.dequeue with tensor := { c.dequeue.tensor with
          sweeps := vset c.tensor.sweeps n Sweep.blank } }).addTo p m.counter
      | _ => s.onHere fun c =>
        let run : TensorRun :=
          { cmd := m, step := BitVec.ofNat 16 c.step16, sc := c.tensor.sc, df := c.tensor.df, row := 0 }
        { c.dequeue with tensor := { c.dequeue.tensor with run := c.tensor.run ++ [run] } }

/-- TENSOR_START at the core in `cur` (R310). -/
def execTensorStart (s : State) : Host.Outcome State Fault Refusal := .next (tensorStartStep s)

/-- The command leaves: its locks and its rings go (R118, R296). -/
def Core.retire (c : Core) (r : TensorRun) : Core :=
  let c := (c.unlock r.cmd.id).unbind r.cmd.id
  { c with tensor := { c.tensor with run := c.tensor.run.filter fun t => t.cmd.id != r.cmd.id } }

/-- An MMA or MMAW ends failed (R306). -/
def matrixFails (s : State) (r : TensorRun) (qa : RingNo) (east : Bool) : State :=
  let s := s.onHere fun c => c.retire r
  let s := match r.cmd.counter with
    | none => s
    | some n => s.onHere fun c => c.breakCounter n
  if east then s.linkFrame s.cur.1 .east .sum (.failFrame qa.val) else s

/-- A started command has done a unit more (R336). -/
def Core.unitDone (c : Core) (r : TensorRun) : Core :=
  { c with tensor := { c.tensor with run := c.tensor.run.map fun t => if t.cmd.id = r.cmd.id then { t with row := t.row + 1 } else t } }

/-- Row `row` of a matrix command: the multiply, the forward and the pop (R301). -/
def matrixRow (s : State) (r : TensorRun) (qa qb : RingNo) (east : Bool) : State :=
  let p := s.cur.1
  let c := s.here
  let g := r.cmd.tg
  let t := r.args
  let ra := c.ring qa.val
  let rb := c.ring qb.val
  let row := optBytes c (ra.slot ra.head) ra.sz
  let panel := headSlots c rb (panelSlots g rb.sz)
  let w : TWork := t.rd ⟨c, [], qzero, false⟩ (ra.slot ra.head) (if east then ra.sz else rowBytes g)
  let w := (List.range (panelSlots g rb.sz)).foldl (fun w k => w.repair (rb.slot ((rb.head + k) % max rb.ns 1)) rb.sz) w
  let w := if r.row = 0 then (List.range (panelSlots g rb.sz)).foldl (fun w k =>
    t.rd w (rb.slot ((rb.head + k) % max rb.ns 1)) (min rb.sz (panelBytes g - k * rb.sz))) w else w
  let w := (List.range (tgExt g 0)).foldl (fun w cb => macBlock t row panel w cb (cb + tgExt g 0 * r.row)) w
  let s := s.commit p w
  let spend (v : Vector Nat 16) : Vector Nat 16 := if east then vmod v qa.val (fun v => v - 1) else v
  let s := s.onHere fun c => { c.unitDone r with tensor := { (c.unitDone r).tensor with credits := spend c.tensor.credits } }
  let s := if east then s.linkFrame p .east .sum (.frame qa.val (c.bytes (ra.slot ra.head) ra.sz)) else s
  s.popRing p qa.val 1

/-- MMA_ROW: the started command of number `num` at the core in `cur` fires its next row, or ends failed (R301, R306). -/
def mmaRowStep (s : State) : State :=
  let c := s.here
  if !c.live || (c.halted && c.vec.isEmpty) then s
  else match c.tensor.run[s.num]? with
    | none => s
    | some r =>
      match r.cmd.fn with
      | .mma qa qb east =>
        let ra := c.ring qa.val
        let rb := c.ring qb.val
        let need := panelSlots r.cmd.tg rb.sz
        if tgExt r.cmd.tg 1 ≤ r.row then s
        else if ra.cbound.head? ≠ some r.cmd.id ∨ rb.cbound.head? ≠ some r.cmd.id then s
        else if ra.fill = 0 ∧ ra.fail then matrixFails s r qa east
        else if rb.fill = 0 ∧ rb.fail then matrixFails s r qa east
        else if ra.fill = 0 ∨ rb.fill < need then s
        else if east ∧ vget c.tensor.credits qa.val = 0 then s
        else if rowWaits c r || absent c ra.base (ra.ns * ra.sz) || absent c rb.base (rb.ns * rb.sz) then s
        else matrixRow s r qa qb east
      | _ => s

/-- MMA_ROW (R301). -/
def execMmaRow (s : State) : Host.Outcome State Fault Refusal := .next (mmaRowStep s)

/-- The units of a block command (R336): its blocks, or the whole of a TSTPAIR. -/
def TensorRun.units (r : TensorRun) : Nat := if r.cmd.fn = .stpair then 1 else tgBlocks r.cmd.tg
/-- What unit n of a block command does (R313, R336). -/
def unitWork (r : TensorRun) (w : TWork) (n : Nat) : TWork :=
  let t := r.args
  match r.cmd.fn with
  | .qnt => qntBlock t w n
  | .dqnt => dqntBlock t w n
  | .stpair => stpairAll t w
  | .decay _ => decayOne t w n
  | .sadd => saddOne t w n
  | .norm target => normOne t w target n
  | _ => w

/-- Registers the region of a TDECAY op 01 (R330). -/
def Core.register (c : Core) (r : TensorRun) (n : Nat) : Core :=
  let df := vget r.df (tgDfn r.cmd.tg)
  let p : Sweep :=
    { Sweep.blank with
      valid := true, ctx := r.cmd.ctx, serial := r.cmd.serial, tg := r.cmd.tg, df := df
      key := (c.ctx r.cmd.ctx).bankKey }
  { c with tensor := { c.tensor with sweeps := vset c.tensor.sweeps n p } }

/-- TENSOR_COMPLETE: the started command of number `num` does its next unit (a matrix command has done its rows); with the last
its locks go and its counter receives its add (R310, R336). A TDECAY op 01 whose slot still has a sweep pending has only its
locks go, so that the sweep can go on; the registration and the add follow once the sweep is finished (R330). -/
def tensorCompleteStep (s : State) : State :=
  let p := s.cur.1
  let c := s.here
  if !c.live || (c.halted && c.vec.isEmpty) then s
  else match c.tensor.run[s.num]? with
    | none => s
    | some r =>
      match r.cmd.fn with
      | .mma _ qb _ =>
        if r.row < tgExt r.cmd.tg 1 then s
        else
          let s := if tgPop r.cmd.tg then s.popRing p qb.val (panelSlots r.cmd.tg (c.ring qb.val).sz) else s
          (s.onHere fun c => c.retire r).addTo p r.cmd.counter
      | fn =>
        let slot : Option Nat := match fn with
          | .decay n => n
          | _ => none
        let pending := slot.any fun n => !(vget c.tensor.sweeps n).pend.isEmpty
        let finish (s : State) : State :=
          let s := match slot with
            | none => s
            | some n => s.onHere fun c => c.register r n
          (s.onHere fun c => c.retire r).addTo p r.cmd.counter
        if r.row < r.units then
          if tensorWaits c r then s
          else
            let s := (s.commit p (unitWork r ⟨c, [], qzero, false⟩ r.row)).onHere fun c => c.unitDone r
            if r.row + 1 < r.units then s
            else if pending then s.onHere fun c => c.unlock r.cmd.id
            else finish s
        else if pending then s
        else finish s

/-- TENSOR_COMPLETE (R310). -/
def execTensorComplete (s : State) : Host.Outcome State Fault Refusal := .next (tensorCompleteStep s)

/-- One step of the background sweep of slot n: its next block, unless an in-flight command holds a lock on it (R331). Its writes
follow line by line, before any tensor command or VLDS accesses a token (R119). -/
def sweepStep (s : State) (n : Nat) : State :=
  let p := s.cur.1
  let c := s.here
  let w := vget c.tensor.sweeps n
  let a := tgWide w.tg w.next
  let h := tgHeader w.tg w.next
  let stampLen := if tgWfmt w.tg = 1 then 2 else 0
  if !c.live || c.halted || !w.valid then s
  else match w.pend with
    | [] => s
    | cross :: later =>
      if c.locks.any (fun l => l.meets a (tgWB w.tg) || l.meets h stampLen)
        || absent c a (tgWB w.tg) || absent c h stampLen then s
      else
        let (t, l) := sweepWrites ⟨c, [], qzero, false⟩ w cross.toNat w.next
        let s := s.commit p t
        let w' : Sweep := if w.next + 1 < tgBlocks w.tg then { w with next := w.next + 1 }
          else { w with pend := later, next := 0 }
        s.onHere fun c => { c with
          late := c.late ++ sweepLines w l
          tensor := { c.tensor with sweeps := vset c.tensor.sweeps n w' } }

/-- DECAY_SWEEP: sweep slot `num` at the core in `cur` (R331). -/
def execDecaySweep (s : State) : Host.Outcome State Fault Refusal :=
  .next (if s.num < 4 then sweepStep s s.num else s)

end Sys2Proof.Machine
end

