-- ==== Sys2Proof/Machine/Vmem.lean ====
section
/-!
DEFINITION. Vector memory, major 0x29 (R156, R164 to R170). A VMEM instruction is an access of its context: it takes its turn
in the vector queue (R25, R155), makes every check, and is then performed.
-/
namespace Sys2Proof.Machine
open Sys2Proof

/-- The least of some numbers. -/
def leastOf (l : List (Option Nat)) : Option Nat :=
  l.foldl (fun m a => match m, a with
    | none, a => a
    | m, none => m
    | some m, some a => some (min m a)) none

/-- The lowest protected word with an uncorrectable error that an access meets: of a load, any word it reads; of a store, one
that its writes do not replace whole (R120, R164). A word on an absent page holds none (R398). -/
def badAmong (c : Core) (store : Bool) (spans : List (Nat × Nat)) : Option Nat :=
  leastOf ((c.scratch.bad.filter fun w => spans.any (fun g => decide (g.2 ≠ 0 ∧ w < g.1 + g.2 ∧ g.1 < w + 8))
    && !(store && wordIn w spans) && !absent c w 8).map some)

/-- The first BOUNDS, RANGE or MCHK fault of an access to several spans (R164): each kind over every span before the
next, EVAL the lowest address. For a store, `spans` are checked for BOUNDS and RANGE and `writes` for words written in
part. -/
def spansFault (c : Core) (k : CtxNo) (store : Bool) (spans writes : List (Nat × Nat)) : Option (Nat × Nat) :=
  match leastOf (spans.map fun g => firstOutside c.role k (if store then .store else .load) g.1 g.2) with
  | some a => some (BOUNDS, a)
  | none =>
    match leastOf (spans.map fun g => lockFault c g.1 g.2 store) with
    | some a => some (RANGE, a)
    | none => (badAmong c store writes).map fun a => (MCHK, a)

/-- A VMEM instruction at the head of the vector queue: every check, then a stall on an absent page or on what else it has to
follow, then the access, which repairs correctable errors. A stalled one gives its place up where its core is halted, so that
the launch can be saved before it. -/
def vmemTurn (s t : State) (store : Bool) (stalls : State → Bool) (pre : State → Option (State → State))
    (spans writes : State → List (Nat × Nat)) (go : State → State) : State :=
  match pre t with
  | some f => f t
  | none =>
    match spansFault t.here t.cur.2 store (spans t) (writes t) with
    | some f => t.accessTrap f
    | none =>
      if (spans t).any (fun g => absent t.here g.1 g.2) || stalls t then (if t.here.halted then t else s)
      else go ((spans t).foldl (fun t g => t.scrub t.cur.1 g.1 g.2) t)

/-- Runs a VMEM access (R155, R156): with instructions before it in the vector queue it takes its place there, once there is
room, and its context waits; at the head it is performed. An order it is to keep is waited for first (R125, R198). -/
def vmem (s : State) (store : Bool) (ord : MemOrd) (scope : Scope) (stalls : State → Bool) (pre : State → Option (State → State))
    (spans writes : State → List (Nat × Nat)) (go : State → State) : State :=
  let c := s.here
  let first (t : State) : State :=
    vmemTurn s t store (fun t => releaseStalls t ord scope || acquireStalls t ord || stalls t) pre spans writes go
  match c.vec with
  | [] => first s
  | v :: rest =>
    if v = .mem s.cur.2 then first (s.onHere fun c => { c with vec := rest })
    else if memQueued c s.cur.2 || releaseStalls s ord scope || acquireStalls s ord || decide (8 ≤ c.vec.length) then s
    else s.onHere fun c => { c with vec := c.vec ++ [.mem s.cur.2] }
/-- No VMEM access but VLDS waits for anything more. -/
def noStall (_ : State) : Bool := false

/-- ALIGN with EVAL the address, unless it is a multiple of n. -/
def alignPre (a : Word) (n : Nat) : Option (State → State) :=
  if a.toNat % n = 0 then none else some fun s => s.trap ALIGN a

/-- A token from 64 bytes, with its valid bits (R153). -/
def tokenOf (bytes : List Byte) (valid : BitVec 16) : Token :=
  { lanes := vec16 fun i => BitVec.ofNat 32 (natOfBytes ((bytes.drop (4 * i)).take 4)), valid := valid }
def Token.bytes (t : Token) : List Byte := (t.lanes.toList.map fun w => bytesOfNat 4 w.toNat).flatten
/-- The byte count of VLD and VST: 2 × xb[5:1], 0 meaning 64 (R165). -/
def vmemLen (b : Word) : Nat := let n := 2 * bitsN b.toNat 5 1; if n = 0 then 64 else n

/-- VLD (R165). -/
def execVld (v : VReg) (ra rb : XReg) (ord : MemOrd) (scope : Scope) (s : State) : Host.Outcome State Fault Refusal :=
  let i := Instr.vld v ra rb ord scope
  gate i s fun s =>
    let ea := s.me.rx ra
    let n := vmemLen (s.me.rx rb)
    let spans (_ : State) : List (Nat × Nat) := [(ea.toNat, n)]
    vmem s false ord scope noStall (fun _ => alignPre ea 2) spans spans fun s =>
      (s.onMe fun x => x.wv v (tokenOf (s.here.bytes ea.toNat n) (bits16 fun i => decide (4 * i < n)))).advance i

/-- The bytes VST writes: from a, those of valid lanes, as one span a lane (R165). -/
def vstSpans (t : Token) (a n : Nat) : List (Nat × Nat) :=
  ((List.range 16).filter fun i => t.ok i && decide (4 * i < n)).map fun i => (a + 4 * i, min 4 (n - 4 * i))
/-- Joins spans that follow one another. -/
def joinSpans : List (Nat × Nat) → List (Nat × Nat)
  | [] => []
  | g :: l =>
    match joinSpans l with
    | [] => [g]
    | h :: r => if g.1 + g.2 = h.1 then (g.1, g.2 + h.2) :: r else g :: h :: r
/-- The bytes of a token that lie in the spans, its first byte at a. -/
def tokenParts (t : Token) (a : Nat) (spans : List (Nat × Nat)) : List (Nat × List Byte) :=
  spans.map fun g => (g.1, (t.bytes.drop (g.1 - a)).take g.2)

/-- VST (R165). -/
def execVst (v : VReg) (ra rb : XReg) (ord : MemOrd) (scope : Scope) (s : State) : Host.Outcome State Fault Refusal :=
  let i := Instr.vst v ra rb ord scope
  gate i s fun s =>
    let ea := s.me.rx ra
    let n := vmemLen (s.me.rx rb)
    let t := s.me.v.get v
    let writes := joinSpans (vstSpans t ea.toNat n)
    vmem s true ord scope noStall (fun _ => alignPre ea 2) (fun _ => [(ea.toNat, n)]) (fun _ => writes) fun s =>
      (s.onHere fun c => c.putAll (tokenParts t ea.toNat writes)).advance i

/-- The address of row r of a tile (R166). -/
def rowAddr (a stride : Word) (r : Nat) : Word := a + BitVec.ofNat 32 r * stride

/-- VLDT (R166). -/
def execVldt (v : VReg) (ra rb : XReg) (s : State) : Host.Outcome State Fault Refusal :=
  let i := Instr.vldt v ra rb
  gate i s fun s =>
    let row (r : Nat) : Word := rowAddr (s.me.rx ra) (s.me.rx rb) r
    let spans (_ : State) : List (Nat × Nat) := (List.range 16).map fun r => ((row r).toNat, 16)
    let pre (_ : State) : Option (State → State) := (List.range 16).findSome? fun r => alignPre (row r) 4
    vmem s false .plain .task noStall pre spans spans fun s =>
      let col (c : Nat) : Token := { lanes := vec16 fun r => s.here.word ((row r).toNat + 4 * c), valid := 0xFFFF }
      (s.onMe fun x => { x with v := (List.range 4).foldl (fun f c => vset f (v.val + c) (col c)) x.v }).advance i

/-- The checks of VLDQ and VSTQ: the offset, then the count (R167). -/
def ringPre (s : State) (q : RingNo) (off : Word) (store : Bool) : Option (State → State) :=
  let r := s.here.ring q.val
  if off.toNat % 64 ≠ 0 ∨ r.sz ≤ off.toNat then some fun s => s.trap RING off 0 q.val
  else if (if store then r.free else r.fill) = 0 then some fun s => s.trap RING 0 0 q.val
  else none

/-- VLDQ (R167). Performed at once it reads its 64 bytes whole; performed late it reads them line by line, and may then mix the
lines of two fills of a slot that an engine pops meanwhile: the model's choice (log entry 4). -/
def execVldq (v : VReg) (q : RingNo) (rb : XReg) (s : State) : Host.Outcome State Fault Refusal :=
  let i := Instr.vldq v q rb
  gate i s fun s =>
    let off := s.me.rx rb
    let a (s : State) : Nat := let r := s.here.ring q.val; r.slot r.head + off.toNat
    vmem s false .plain .task noStall (fun s => ringPre s q off false) (fun s => [(a s, 64)]) (fun s => [(a s, 64)]) fun s =>
      (s.onMe fun x => x.wv v (tokenOf (s.here.bytes (a s) 64) 0xFFFF)).advance i

/-- VSTQ (R167). -/
def execVstq (v : VReg) (q : RingNo) (rb : XReg) (s : State) : Host.Outcome State Fault Refusal :=
  let i := Instr.vstq v q rb
  gate i s fun s =>
    let off := s.me.rx rb
    let a (s : State) : Nat := let r := s.here.ring q.val; r.slot r.tail + off.toNat
    vmem s true .plain .task noStall (fun s => ringPre s q off true) (fun s => [(a s, 64)]) (fun s => [(a s, 64)]) fun s =>
      (s.onHere fun c => c.put (a s) (s.me.v.get v).bytes).advance i

/-- The address a lane of VGATH or VSCAT names, if it is in bound (R168); field xb = 0 is no bound. -/
def laneAddr (x : Ctx) (ra rb : XReg) (idx : Word) : Option Nat :=
  if rb.val ≠ 0 ∧ (x.rx rb).toNat ≤ idx.toNat then none else some (x.rx ra + idx * 4).toNat

/-- The address lane n of VGATH reads: of a valid lane in bound. -/
def gathAddr (x : Ctx) (v : VReg) (ra rb : XReg) (n : Nat) : Option Nat :=
  let t := x.v.get v
  if t.ok n then laneAddr x ra rb (t.lane n) else none
/-- The words VSCAT writes, in ascending order of the lanes: of those valid in both tokens and in bound. -/
def scatStores (x : Ctx) (v : VReg) (ra rb : XReg) : List (Nat × Word) :=
  let t := x.v.get v
  let d := x.vn (v.val + 1)
  (List.range 16).filterMap fun n =>
    if t.ok n && d.ok n then (laneAddr x ra rb (t.lane n)).map fun a => (a, d.lane n) else none

/-- VGATH (R168). -/
def execVgath (v : VReg) (ra rb : XReg) (ord : MemOrd) (scope : Scope) (s : State) : Host.Outcome State Fault Refusal :=
  let i := Instr.vgath v ra rb ord scope
  gate i s fun s =>
    let addr := gathAddr s.me v ra rb
    let spans (_ : State) : List (Nat × Nat) := (List.range 16).filterMap fun n => (addr n).map fun a => (a, 4)
    vmem s false ord scope noStall (fun _ => alignPre (s.me.rx ra) 4) spans spans fun s =>
      (s.onMe fun x => x.wv v (mkToken fun n => (addr n).map fun a => (s.here.word a, 0)).1).advance i

/-- VSCAT (R168): lanes in ascending order. -/
def execVscat (v : VReg) (ra rb : XReg) (ord : MemOrd) (scope : Scope) (s : State) : Host.Outcome State Fault Refusal :=
  let i := Instr.vscat v ra rb ord scope
  gate i s fun s =>
    let stores := scatStores s.me v ra rb
    let spans (_ : State) : List (Nat × Nat) := stores.map fun g => (g.1, 4)
    vmem s true ord scope noStall (fun _ => alignPre (s.me.rx ra) 4) spans spans fun s =>
      (s.onHere fun c => c.putAll (stores.map fun g => (g.1, bytesOfNat 4 g.2.toNat))).advance i

/-- VLDS (R169): it waits for every earlier TFACT of the context and for its and its spawners' earlier writes of DFn (R58); a
pending sweep of the token comes first (R331), and stalls it where it meets an absent page (R398). Of two misaligned addresses
EVAL holds ea (log entry 38). -/
def execVlds (v : VReg) (ra rb : XReg) (df : Fin 8) (s : State) : Host.Outcome State Fault Refusal :=
  let i := Instr.vlds v ra rb df
  gate i s fun s =>
    let ea := s.me.rx ra
    let sa := s.me.rx rb
    let pre (_ : State) : Option (State → State) := (alignPre ea 16).orElse fun _ => alignPre sa 2
    let spans (_ : State) : List (Nat × Nat) := [(ea.toNat, 64), (sa.toNat, 2)]
    let facts (t : State) : Bool := factorWaits t.here s.cur.2 (0x220 + df.val) t.here.nextCmd TensorFn.isFact
      || demandAbsent t.here t.here.step16 ea.toNat
    vmem s false .plain .task facts pre spans spans fun t =>
      let t := t.commit s.cur.1 (onDemand ⟨t.here, [], qzero, false⟩ t.here.step16 ea.toNat)
      let c := t.here
      let n := elapsedSteps c.step16 (c.nat sa.toNat 2)
      let old := tokenOf (c.bytes ea.toNat 64) 0xFFFF
      let factor := (c.tensor.df.get df).toNat
      let dead := decide (2 ^ 15 ≤ n)
      let new : Token := { old with lanes := if dead then Vector.replicate 16 0 else old.lanes.map fun w => decayWord w n factor }
      ((t.onHere fun c => if dead then c.count ⟨0, 16, 0⟩ else c).onMe fun x => x.wv v new).advance i

end Sys2Proof.Machine
end

