-- ==== Sys2Proof/Machine/Dispatch.lean ====
section
/-!
DEFINITION. The dispatch: each row of the opcode table to its meaning.
-/
namespace Sys2Proof.Machine
open Sys2Proof

def exec (i : Instr) (s : State) : Host.Outcome State Fault Refusal :=
  match i with
  | .add rd ra b => Sys2Proof.Machine.execAdd rd ra b s
  | .sub rd ra b => Sys2Proof.Machine.execSub rd ra b s
  | .and rd ra b => Sys2Proof.Machine.execAnd rd ra b s
  | .or rd ra b => Sys2Proof.Machine.execOr rd ra b s
  | .xor rd ra b => Sys2Proof.Machine.execXor rd ra b s
  | .andn rd ra b => Sys2Proof.Machine.execAndn rd ra b s
  | .shl rd ra b => Sys2Proof.Machine.execShl rd ra b s
  | .shr rd ra b => Sys2Proof.Machine.execShr rd ra b s
  | .sra rd ra b => Sys2Proof.Machine.execSra rd ra b s
  | .rotl rd ra b => Sys2Proof.Machine.execRotl rd ra b s
  | .slt rd ra b => Sys2Proof.Machine.execSlt rd ra b s
  | .sltn rd ra b => Sys2Proof.Machine.execSltn rd ra b s
  | .min rd ra b => Sys2Proof.Machine.execMin rd ra b s
  | .max rd ra b => Sys2Proof.Machine.execMax rd ra b s
  | .minn rd ra b => Sys2Proof.Machine.execMinn rd ra b s
  | .maxn rd ra b => Sys2Proof.Machine.execMaxn rd ra b s
  | .mul rd ra b => Sys2Proof.Machine.execMul rd ra b s
  | .mulh rd ra b => Sys2Proof.Machine.execMulh rd ra b s
  | .mulhn rd ra b => Sys2Proof.Machine.execMulhn rd ra b s
  | .div rd ra b => Sys2Proof.Machine.execDiv rd ra b s
  | .divn rd ra b => Sys2Proof.Machine.execDivn rd ra b s
  | .rem rd ra b => Sys2Proof.Machine.execRem rd ra b s
  | .remn rd ra b => Sys2Proof.Machine.execRemn rd ra b s
  | .clz rd ra => Sys2Proof.Machine.execClz rd ra s
  | .ctz rd ra => Sys2Proof.Machine.execCtz rd ra s
  | .popc rd ra => Sys2Proof.Machine.execPopc rd ra s
  | .bext rd ra b => Sys2Proof.Machine.execBext rd ra b s
  | .bins rd ra b => Sys2Proof.Machine.execBins rd ra b s
  | .addi rd ra imm => Sys2Proof.Machine.execAddi rd ra imm s
  | .andi rd ra imm => Sys2Proof.Machine.execAndi rd ra imm s
  | .ori rd ra imm => Sys2Proof.Machine.execOri rd ra imm s
  | .xori rd ra imm => Sys2Proof.Machine.execXori rd ra imm s
  | .slti rd ra imm => Sys2Proof.Machine.execSlti rd ra imm s
  | .sltni rd ra imm => Sys2Proof.Machine.execSltni rd ra imm s
  | .lui rd imm => Sys2Proof.Machine.execLui rd imm s
  | .shli rd ra sh => Sys2Proof.Machine.execShli rd ra sh s
  | .shri rd ra sh => Sys2Proof.Machine.execShri rd ra sh s
  | .srai rd ra sh => Sys2Proof.Machine.execSrai rd ra sh s
  | .lb rd ra ord scope off => Sys2Proof.Machine.execLb rd ra ord scope off s
  | .lbn rd ra ord scope off => Sys2Proof.Machine.execLbn rd ra ord scope off s
  | .lh rd ra ord scope off => Sys2Proof.Machine.execLh rd ra ord scope off s
  | .lhn rd ra ord scope off => Sys2Proof.Machine.execLhn rd ra ord scope off s
  | .lw rd ra ord scope off => Sys2Proof.Machine.execLw rd ra ord scope off s
  | .ld rd ra ord scope off => Sys2Proof.Machine.execLd rd ra ord scope off s
  | .sb rs ra ord scope off => Sys2Proof.Machine.execSb rs ra ord scope off s
  | .sh rs ra ord scope off => Sys2Proof.Machine.execSh rs ra ord scope off s
  | .sw rs ra ord scope off => Sys2Proof.Machine.execSw rs ra ord scope off s
  | .sd rs ra ord scope off => Sys2Proof.Machine.execSd rs ra ord scope off s
  | .amoadd rd ra b ord scope => Sys2Proof.Machine.execAmoadd rd ra b ord scope s
  | .amoand rd ra b ord scope => Sys2Proof.Machine.execAmoand rd ra b ord scope s
  | .amoor rd ra b ord scope => Sys2Proof.Machine.execAmoor rd ra b ord scope s
  | .amoxor rd ra b ord scope => Sys2Proof.Machine.execAmoxor rd ra b ord scope s
  | .amomin rd ra b ord scope => Sys2Proof.Machine.execAmomin rd ra b ord scope s
  | .amomax rd ra b ord scope => Sys2Proof.Machine.execAmomax rd ra b ord scope s
  | .amominn rd ra b ord scope => Sys2Proof.Machine.execAmominn rd ra b ord scope s
  | .amomaxn rd ra b ord scope => Sys2Proof.Machine.execAmomaxn rd ra b ord scope s
  | .amoswp rd ra b ord scope => Sys2Proof.Machine.execAmoswp rd ra b ord scope s
  | .amocas rd ra b ord scope => Sys2Proof.Machine.execAmocas rd ra b ord scope s
  | .beq ra rb off => Sys2Proof.Machine.execBeq ra rb off s
  | .bne ra rb off => Sys2Proof.Machine.execBne ra rb off s
  | .blt ra rb off => Sys2Proof.Machine.execBlt ra rb off s
  | .bge ra rb off => Sys2Proof.Machine.execBge ra rb off s
  | .bltn ra rb off => Sys2Proof.Machine.execBltn ra rb off s
  | .bgen ra rb off => Sys2Proof.Machine.execBgen ra rb off s
  | .jal rd off => Sys2Proof.Machine.execJal rd off s
  | .jalr rd ra imm => Sys2Proof.Machine.execJalr rd ra imm s
  | .tdone => Sys2Proof.Machine.execTdone s
  | .tyield => Sys2Proof.Machine.execTyield s
  | .tspawn rd ra => Sys2Proof.Machine.execTspawn rd ra s
  | .trap code => Sys2Proof.Machine.execTrap code s
  | .tret => Sys2Proof.Machine.execTret s
  | .mfs rd num => Sys2Proof.Machine.execMfs rd num s
  | .mts ra num => Sys2Proof.Machine.execMts ra num s
  | .breakpt code => Sys2Proof.Machine.execBreakpt code s
  | .vaddF vd va b => Sys2Proof.Machine.execVaddF vd va b s
  | .vsubF vd va b => Sys2Proof.Machine.execVsubF vd va b s
  | .vmulF vd va b => Sys2Proof.Machine.execVmulF vd va b s
  | .vfmaF vd va b vc => Sys2Proof.Machine.execVfmaF vd va b vc s
  | .vfmsF vd va b vc => Sys2Proof.Machine.execVfmsF vd va b vc s
  | .vminF vd va b => Sys2Proof.Machine.execVminF vd va b s
  | .vmaxF vd va b => Sys2Proof.Machine.execVmaxF vd va b s
  | .vabsF vd va => Sys2Proof.Machine.execVabsF vd va s
  | .vcltF vd va b => Sys2Proof.Machine.execVcltF vd va b s
  | .vceqF vd va b => Sys2Proof.Machine.execVceqF vd va b s
  | .vcleF vd va b => Sys2Proof.Machine.execVcleF vd va b s
  | .vaddI vd va b => Sys2Proof.Machine.execVaddI vd va b s
  | .vsubI vd va b => Sys2Proof.Machine.execVsubI vd va b s
  | .vmulI vd va b => Sys2Proof.Machine.execVmulI vd va b s
  | .vminI vd va b => Sys2Proof.Machine.execVminI vd va b s
  | .vmaxI vd va b => Sys2Proof.Machine.execVmaxI vd va b s
  | .vand vd va b => Sys2Proof.Machine.execVand vd va b s
  | .vor vd va b => Sys2Proof.Machine.execVor vd va b s
  | .vxor vd va b => Sys2Proof.Machine.execVxor vd va b s
  | .vshl vd va b => Sys2Proof.Machine.execVshl vd va b s
  | .vshr vd va b => Sys2Proof.Machine.execVshr vd va b s
  | .vsra vd va b => Sys2Proof.Machine.execVsra vd va b s
  | .vcltI vd va b => Sys2Proof.Machine.execVcltI vd va b s
  | .vceqI vd va b => Sys2Proof.Machine.execVceqI vd va b s
  | .vsel vd va b vc => Sys2Proof.Machine.execVsel vd va b vc s
  | .vmask vd va b => Sys2Proof.Machine.execVmask vd va b s
  | .vshuf vd va b => Sys2Proof.Machine.execVshuf vd va b s
  | .vbcast vd va lane => Sys2Proof.Machine.execVbcast vd va lane s
  | .vext vd va b n => Sys2Proof.Machine.execVext vd va b n s
  | .vraddF vd va => Sys2Proof.Machine.execVraddF vd va s
  | .vrmaxF vd va => Sys2Proof.Machine.execVrmaxF vd va s
  | .vraddI vd va => Sys2Proof.Machine.execVraddI vd va s
  | .vld v ra rb ord scope => Sys2Proof.Machine.execVld v ra rb ord scope s
  | .vst v ra rb ord scope => Sys2Proof.Machine.execVst v ra rb ord scope s
  | .vldt v ra rb => Sys2Proof.Machine.execVldt v ra rb s
  | .vldq v q rb => Sys2Proof.Machine.execVldq v q rb s
  | .vstq v q rb => Sys2Proof.Machine.execVstq v q rb s
  | .vgath v ra rb ord scope => Sys2Proof.Machine.execVgath v ra rb ord scope s
  | .vscat v ra rb ord scope => Sys2Proof.Machine.execVscat v ra rb ord scope s
  | .vlds v ra rb df => Sys2Proof.Machine.execVlds v ra rb df s
  | .vcvtfi vd va => Sys2Proof.Machine.execVcvtfi vd va s
  | .vcvtif vd va => Sys2Proof.Machine.execVcvtif vd va s
  | .vpkbf vd va vb churn => Sys2Proof.Machine.execVpkbf vd va vb churn s
  | .vupbf vd va half => Sys2Proof.Machine.execVupbf vd va half s
  | .vdec8 vd va vb e => Sys2Proof.Machine.execVdec8 vd va vb e s
  | .vdec6 vd va vb e => Sys2Proof.Machine.execVdec6 vd va vb e s
  | .venc8 vd va held sc => Sys2Proof.Machine.execVenc8 vd va held sc s
  | .venc6 vd va held sc => Sys2Proof.Machine.execVenc6 vd va held sc s
  | .vexp2 vd va => Sys2Proof.Machine.execVexp2 vd va s
  | .vlog2 vd va => Sys2Proof.Machine.execVlog2 vd va s
  | .vrcp vd va => Sys2Proof.Machine.execVrcp vd va s
  | .vrsq vd va => Sys2Proof.Machine.execVrsq vd va s
  | .vtanh vd va => Sys2Proof.Machine.execVtanh vd va s
  | .vsmx vd va => Sys2Proof.Machine.execVsmx vd va s
  | .vsmxap vd va vb => Sys2Proof.Machine.execVsmxap vd va vb s
  | .tshape rb esel => Sys2Proof.Machine.execTshape rb esel s
  | .tgeom rb esel => Sys2Proof.Machine.execTgeom rb esel s
  | .mma qa qb esel => Sys2Proof.Machine.execMma qa qb esel s
  | .mmaw qa qb esel => Sys2Proof.Machine.execMmaw qa qb esel s
  | .tqnt esel => Sys2Proof.Machine.execTqnt esel s
  | .tdqnt esel => Sys2Proof.Machine.execTdqnt esel s
  | .tstpair esel => Sys2Proof.Machine.execTstpair esel s
  | .tdecay slot esel => Sys2Proof.Machine.execTdecay slot esel s
  | .tdecaySweep slot esel => Sys2Proof.Machine.execTdecaySweep slot esel s
  | .tdecayDrop slot esel => Sys2Proof.Machine.execTdecayDrop slot esel s
  | .tsadd esel => Sys2Proof.Machine.execTsadd esel s
  | .tnorm rb esel => Sys2Proof.Machine.execTnorm rb esel s
  | .tscl n rb esel => Sys2Proof.Machine.execTscl n rb esel s
  | .tfact rb esel => Sys2Proof.Machine.execTfact rb esel s
  | .qcfg q rp => Sys2Proof.Machine.execQcfg q rp s
  | .qwaitf q n ra => Sys2Proof.Machine.execQwaitf q n ra s
  | .qwaite q n ra => Sys2Proof.Machine.execQwaite q n ra s
  | .qadvh q n ra => Sys2Proof.Machine.execQadvh q n ra s
  | .qadvt q n ra => Sys2Proof.Machine.execQadvt q n ra s
  | .qstat q rd => Sys2Proof.Machine.execQstat q rd s
  | .qreset q => Sys2Proof.Machine.execQreset q s
  | .msend rb scope esel => Sys2Proof.Machine.execMsend rb scope esel s
  | .mput rb scope => Sys2Proof.Machine.execMput rb scope s
  | .mget rb scope => Sys2Proof.Machine.execMget rb scope s
  | .mamo ra rb scope esel => Sys2Proof.Machine.execMamo ra rb scope esel s
  | .mbind rb esel => Sys2Proof.Machine.execMbind rb esel s
  | .mrecv rd esel => Sys2Proof.Machine.execMrecv rd esel s
  | .fscfg rb esel => Sys2Proof.Machine.execFscfg rb esel s
  | .fsum rb esel => Sys2Proof.Machine.execFsum rb esel s
  | .fsraise rb esel => Sys2Proof.Machine.execFsraise rb esel s
  | .fsres rd rb esel => Sys2Proof.Machine.execFsres rd rb esel s
  | .cbcast rb esel => Sys2Proof.Machine.execCbcast rb esel s
  | .cjoin rb esel => Sys2Proof.Machine.execCjoin rb esel s
  | .cskim vd rd rb tag => Sys2Proof.Machine.execCskim vd rd rb tag s
  | .ccut rb esel => Sys2Proof.Machine.execCcut rb esel s
  | .cgath rb esel => Sys2Proof.Machine.execCgath rb esel s
  | .cprec rd rb esel => Sys2Proof.Machine.execCprec rd rb esel s
  | .cadd rb scope esel => Sys2Proof.Machine.execCadd rb scope esel s
  | .cwait ra rb scope esel => Sys2Proof.Machine.execCwait ra rb scope esel s
  | .cread rd esel => Sys2Proof.Machine.execCread rd esel s
  | .craise ra rb scope esel => Sys2Proof.Machine.execCraise ra rb scope esel s
  | .cbrk esel => Sys2Proof.Machine.execCbrk esel s
  | .ctest rd rb esel => Sys2Proof.Machine.execCtest rd rb esel s
  | .fence scope => Sys2Proof.Machine.execFence scope s
  | .fencee => Sys2Proof.Machine.execFencee s
  | .barcfg rb esel => Sys2Proof.Machine.execBarcfg rb esel s
  | .barrive scope esel => Sys2Proof.Machine.execBarrive scope esel s
  | .barwait rb scope esel => Sys2Proof.Machine.execBarwait rb scope esel s
  | .bartap bar slot => Sys2Proof.Machine.execBartap bar slot s
  | .stepadv => Sys2Proof.Machine.execStepadv s
  | .steprd rd => Sys2Proof.Machine.execSteprd rd s
  | .erinit rb esel => Sys2Proof.Machine.execErinit rb esel s
  | .erdone scope => Sys2Proof.Machine.execErdone scope s
  | .erpass => Sys2Proof.Machine.execErpass s
  | .erhalt => Sys2Proof.Machine.execErhalt s
  | .erchk rd esel => Sys2Proof.Machine.execErchk rd esel s
  | .erstat rd esel => Sys2Proof.Machine.execErstat rd esel s
  | .sgeom rb esel => Sys2Proof.Machine.execSgeom rb esel s
  | .scopy rb scope esel => Sys2Proof.Machine.execScopy rb scope esel s
  | .sload rb scope esel => Sys2Proof.Machine.execSload rb scope esel s
  | .sstore rb scope esel => Sys2Proof.Machine.execSstore rb scope esel s
  | .sfeed rb esel => Sys2Proof.Machine.execSfeed rb esel s
  | .sdrain rb esel => Sys2Proof.Machine.execSdrain rb esel s
  | .sred rb scope esel => Sys2Proof.Machine.execSred rb scope esel s
  | .sxput rb scope esel => Sys2Proof.Machine.execSxput rb scope esel s
  | .sbar esel => Sys2Proof.Machine.execSbar esel s
  | .scancel esel => Sys2Proof.Machine.execScancel esel s
  | .sresume esel => Sys2Proof.Machine.execSresume esel s
  | .sstat rd rb esel => Sys2Proof.Machine.execSstat rd rb esel s
  | .simg ra rb esel => Sys2Proof.Machine.execSimg ra rb esel s
  | .mergedContribution rejected => Sys2Proof.Machine.execMergedContribution rejected s
  | .flitArrives flit => Sys2Proof.Machine.execFlitArrives flit s
  | .acknowledge seq => Sys2Proof.Machine.execAcknowledge seq s
  | .submit val => Sys2Proof.Machine.execSubmit val s
  | .queueEnable port => Sys2Proof.Machine.execQueueEnable port s
  | .registerWrite off val => Sys2Proof.Machine.execRegisterWrite off val s
  | .governor occupancy => Sys2Proof.Machine.execGovernor occupancy s
  | .powerSample watts amps => Sys2Proof.Machine.execPowerSample watts amps s
  | .fieldSelfTest result => Sys2Proof.Machine.execFieldSelfTest result s
  | .illegalEncoding w => Sys2Proof.Machine.execIllegalEncoding w s
  | .instructionFetchFault locked addr => Sys2Proof.Machine.execInstructionFetchFault locked addr s
  | .meshLinkLoss dir => Sys2Proof.Machine.execMeshLinkLoss dir s
  | .asyncFault => Sys2Proof.Machine.execAsyncFault s
  | .wake => Sys2Proof.Machine.execWake s
  | .caddPerformed => Sys2Proof.Machine.execCaddPerformed s
  | .injection => Sys2Proof.Machine.execInjection s
  | .requestArrival => Sys2Proof.Machine.execRequestArrival s
  | .sendServed => Sys2Proof.Machine.execSendServed s
  | .putServed => Sys2Proof.Machine.execPutServed s
  | .getServed => Sys2Proof.Machine.execGetServed s
  | .amoServed => Sys2Proof.Machine.execAmoServed s
  | .ackLands => Sys2Proof.Machine.execAckLands s
  | .getrLands => Sys2Proof.Machine.execGetrLands s
  | .amorLands => Sys2Proof.Machine.execAmorLands s
  | .nackLands => Sys2Proof.Machine.execNackLands s
  | .sumLands => Sys2Proof.Machine.execSumLands s
  | .renupLands => Sys2Proof.Machine.execRenupLands s
  | .rendnLands => Sys2Proof.Machine.execRendnLands s
  | .sumDoneLands => Sys2Proof.Machine.execSumDoneLands s
  | .sumFailLands => Sys2Proof.Machine.execSumFailLands s
  | .openLands => Sys2Proof.Machine.execOpenLands s
  | .trainDataBeat => Sys2Proof.Machine.execTrainDataBeat s
  | .endLands => Sys2Proof.Machine.execEndLands s
  | .cutLands => Sys2Proof.Machine.execCutLands s
  | .trainDone => Sys2Proof.Machine.execTrainDone s
  | .stepBeat => Sys2Proof.Machine.execStepBeat s
  | .arrivalBeat => Sys2Proof.Machine.execArrivalBeat s
  | .releaseBeat => Sys2Proof.Machine.execReleaseBeat s
  | .barrierArrivalSent => Sys2Proof.Machine.execBarrierArrivalSent s
  | .handshakeLands => Sys2Proof.Machine.execHandshakeLands s
  | .mismatchBeat => Sys2Proof.Machine.execMismatchBeat s
  | .flipLands => Sys2Proof.Machine.execFlipLands s
  | .haltLands => Sys2Proof.Machine.execHaltLands s
  | .fire => Sys2Proof.Machine.execFire s
  | .waveFrame => Sys2Proof.Machine.execWaveFrame s
  | .creditLands => Sys2Proof.Machine.execCreditLands s
  | .creditReset => Sys2Proof.Machine.execCreditReset s
  | .failFrame => Sys2Proof.Machine.execFailFrame s
  | .tensorStart => Sys2Proof.Machine.execTensorStart s
  | .mmaRow => Sys2Proof.Machine.execMmaRow s
  | .tensorComplete => Sys2Proof.Machine.execTensorComplete s
  | .decaySweep => Sys2Proof.Machine.execDecaySweep s
  | .streamActivate => Sys2Proof.Machine.execStreamActivate s
  | .granule => Sys2Proof.Machine.execGranule s
  | .streamEnd => Sys2Proof.Machine.execStreamEnd s
  | .homePortAccess => Sys2Proof.Machine.execHomePortAccess s
  | .windowContribution => Sys2Proof.Machine.execWindowContribution s
  | .holdTimeExpiry => Sys2Proof.Machine.execHoldTimeExpiry s
  | .lossOfLock => Sys2Proof.Machine.execLossOfLock s
  | .retrainComplete => Sys2Proof.Machine.execRetrainComplete s
  | .retrainTimeout => Sys2Proof.Machine.execRetrainTimeout s
  | .queueDisable => Sys2Proof.Machine.execQueueDisable s
  | .launchRecord => Sys2Proof.Machine.execLaunchRecord s
  | .launchPlacement => Sys2Proof.Machine.execLaunchPlacement s
  | .launchStart => Sys2Proof.Machine.execLaunchStart s
  | .launchComplete => Sys2Proof.Machine.execLaunchComplete s
  | .preempt => Sys2Proof.Machine.execPreempt s
  | .drainDone => Sys2Proof.Machine.execDrainDone s
  | .resume => Sys2Proof.Machine.execResume s
  | .pageEviction => Sys2Proof.Machine.execPageEviction s
  | .pageRestore => Sys2Proof.Machine.execPageRestore s
  | .configurePartitions => Sys2Proof.Machine.execConfigurePartitions s
  | .invalidateTranslations => Sys2Proof.Machine.execInvalidateTranslations s
  | .writeReductionWindow => Sys2Proof.Machine.execWriteReductionWindow s
  | .cancelLaunch => Sys2Proof.Machine.execCancelLaunch s
  | .retireAsid => Sys2Proof.Machine.execRetireAsid s
  | .attest => Sys2Proof.Machine.execAttest s
  | .extend => Sys2Proof.Machine.execExtend s
  | .progressWatchdog => Sys2Proof.Machine.execProgressWatchdog s
  | .coolantFault => Sys2Proof.Machine.execCoolantFault s
  | .fieldLoss => Sys2Proof.Machine.execFieldLoss s
  | .powerOnReset => Sys2Proof.Machine.execPowerOnReset s
  | .go => Sys2Proof.Machine.execGo s
  | .vectorEnginePerform => Sys2Proof.Machine.execVectorEnginePerform s
  | .flitReplay => Sys2Proof.Machine.execFlitReplay s

end Sys2Proof.Machine
end

