-- ==== Sys2Proof/Machine/Order.lean ====
section
/-!
DEFINITION. The accesses of one context out of program order (R123 to R126, R156, R170, R195 to R199, R203 to R209). Every
meaning acts at once; this file lets an access be performed later than it issues, and a load take lines its context read
before, in the ways R198 leaves unordered. Log entry 4 says which orders are left out.
-/
namespace Sys2Proof.Machine
open Sys2Proof

/-! ## What an instruction is to the accesses about it -/

/-- The scope of an order that other parties than the context observe (R126, R205). -/
def seenBy (sc : Scope) : Option Scope := if sc = .task then none else some sc
def acquires (ord : MemOrd) : Bool := ord == .aq || ord == .ar
def releases (ord : MemOrd) : Bool := ord == .rl || ord == .ar

/-- What an instruction is to its context's other accesses: the bytes it accesses as it issues, those its message accesses at
this core, the counters it and its message act on here, those it acts on as it issues, the acquire and the release it makes, and
whether it comes after the releases before it (rules 1 to 5 of R198). -/
structure Pass where
  spans : List (Nat × Nat)
  landing : List (Nat × Nat)
  counters : List Nat
  awaits : List Nat
  acquire : Option Scope
  waits : Bool
  release : Option Scope
  deriving DecidableEq, Repr, Inhabited

/-- An access of a given order. -/
def Pass.access (spans : List (Nat × Nat)) (ord : MemOrd) (sc : Scope) : Pass where
  spans := spans
  landing := []
  counters := []
  awaits := []
  acquire := if acquires ord then seenBy sc else none
  waits := acquires ord && sc != .task
  release := if releases ord then seenBy sc else none
/-- An instruction that reads some bytes as it issues. -/
def Pass.reads (spans : List (Nat × Nat)) : Pass := Pass.access spans .plain .task
/-- An acquire of no bytes (CWAIT, BARWAIT, QWAITF, QWAITE) and a release of none. -/
def Pass.acquiring (sc : Scope) : Pass := Pass.access [] .aq sc
def Pass.releasing (sc : Scope) : Pass := Pass.access [] .rl sc
/-- An instruction that reads or breaks a counter as it issues, and one whose counter operation is queued. -/
def Pass.onCounter (g : Pass) (n : Nat) : Pass := { g with counters := [n], awaits := [n] }
def Pass.toCounter (g : Pass) (n : Nat) : Pass := { g with counters := [n] }

/-- Bytes a scalar access names. -/
def scalarSpan (x : Ctx) (ra : XReg) (off : BitVec 11) (size : Nat) : List (Nat × Nat) := [(effAddr x ra off size, size)]
/-- Bytes VGATH and VSCAT access. -/
def gathSpans (x : Ctx) (v : VReg) (ra rb : XReg) : List (Nat × Nat) :=
  (List.range 16).filterMap fun n => (gathAddr x v ra rb n).map fun a => (a, 4)
def scatSpans (x : Ctx) (v : VReg) (ra rb : XReg) : List (Nat × Nat) := (scatStores x v ra rb).map fun g => (g.1, 4)
/-- Rows of VLDT. -/
def tileSpans (x : Ctx) (ra rb : XReg) : List (Nat × Nat) :=
  (List.range 16).map fun r => ((rowAddr (x.rx ra) (x.rx rb) r).toNat, 16)
/-- The slot storage of a ring. -/
def ringSpan (c : Core) (q : Nat) : List (Nat × Nat) := let r := c.ring q; [(r.base, r.ns * r.sz)]
/-- The bytes of a receive tile that CSKIM may read. -/
def skimSpan (c : Core) (tag n : Nat) : List (Nat × Nat) :=
  let g := c.cream tag
  (g.tiles[n]?).elim [] fun w => [(w.base, tileReach g.p)]

/-- The free slots of a bound tag. -/
def freeSlots (c : Core) (tag : Nat) : List (Nat × Nat) :=
  (vget c.msg.tags tag).elim [] fun e => ((List.range e.count).filter fun n => !e.busy.contains n).map fun n =>
    (e.base + n * e.size, e.size)
/-- A message command (EI and MS of R204): its descriptor, what its message accesses if it goes to this core, and the release it
makes (R195, R255). -/
def Pass.message (s : State) (rb : XReg) (tag : Option Nat) (sc : Scope) : Pass :=
  let a := (s.me.rx rb).toNat
  let d := descAt s.here a
  let away := decide (d.dmod ≠ 0 ∨ d.site ≠ s.cur.1)
  { Pass.access [(a, 16)] (if d.rel then .rl else .plain) sc with
    counters := if away || !d.ca then [] else [d.cnum]
    landing := if away then [] else match tag with
      | some t => freeSlots s.here t
      | none => [(d.remote, d.len)] }
/-- The bytes of its core that a message on its way accesses there. -/
def OutMsg.landing (c : Core) (m : OutMsg) : List (Nat × Nat) :=
  if hdrKind m.hdr = kSEND then freeSlots c (hdrTag m.hdr) else [(hdrLaddr m.hdr, hdrLen m.hdr)]
/-- The counter of its core that a SEND or PUT on its way adds to there. -/
def OutMsg.adds (m : OutMsg) : List Nat :=
  if hdrCa m.hdr && (hdrKind m.hdr == kSEND || hdrKind m.hdr == kPUT) then [hdrCnum m.hdr] else []
/-- Two lists of spans share a byte. -/
def spansMeet (a b : List (Nat × Nat)) : Bool :=
  a.any fun g => b.any fun h => decide (g.1 < h.1 + h.2 ∧ h.1 < g.1 + g.2)
/-- A message of context k to its own core p, not yet performed, accesses one of some bytes or adds to one of some counters
there: it comes before what the context does to them (rule 1 of R198, R195). -/
def ownMessage (c : Core) (p : Site) (k : CtxNo) (spans : List (Nat × Nat)) (counters : List Nat) : Bool :=
  c.msg.out.any fun m =>
    m.ctx == k && m.slot.isNone && hdrDmod m.hdr == 0 && hdrDst m.hdr == p
      && (spansMeet spans (m.landing c) || counters.any fun n => m.adds.contains n)

/-- The scalar access of a load or store: its register, base, offset, size, order and scope, and whether it stores. -/
def scalarOf : Instr → Option (XReg × XReg × BitVec 11 × Nat × MemOrd × Scope × Bool)
  | .lb r ra ord sc off => some (r, ra, off, 1, ord, sc, false)
  | .lbn r ra ord sc off => some (r, ra, off, 1, ord, sc, false)
  | .lh r ra ord sc off => some (r, ra, off, 2, ord, sc, false)
  | .lhn r ra ord sc off => some (r, ra, off, 2, ord, sc, false)
  | .lw r ra ord sc off => some (r, ra, off, 4, ord, sc, false)
  | .ld r ra ord sc off => some (r, ra, off, 8, ord, sc, false)
  | .sb r ra ord sc off => some (r, ra, off, 1, ord, sc, true)
  | .sh r ra ord sc off => some (r, ra, off, 2, ord, sc, true)
  | .sw r ra ord sc off => some (r, ra, off, 4, ord, sc, true)
  | .sd r ra ord sc off => some (r, ra, off, 8, ord, sc, true)
  | _ => none

/-- An atomic: its register, base, order and scope. -/
def atomicOf : Instr → Option (XReg × XReg × MemOrd × Scope)
  | .amoadd rd ra _ ord sc | .amoand rd ra _ ord sc | .amoor rd ra _ ord sc | .amoxor rd ra _ ord sc
  | .amomin rd ra _ ord sc | .amomax rd ra _ ord sc | .amominn rd ra _ ord sc | .amomaxn rd ra _ ord sc
  | .amoswp rd ra _ ord sc | .amocas rd ra _ ord sc => some (rd, ra, ord, sc)
  | _ => none
/-- The code and the operand of an atomic; 9 stands for AMOCAS (R127, R128). -/
def atomicArg (x : Ctx) : Instr → Nat × DWord
  | .amoadd _ _ b _ _ => (0, (x.src b).zeroExtend 64)
  | .amoand _ _ b _ _ => (1, (x.src b).zeroExtend 64)
  | .amoor _ _ b _ _ => (2, (x.src b).zeroExtend 64)
  | .amoxor _ _ b _ _ => (3, (x.src b).zeroExtend 64)
  | .amomin _ _ b _ _ => (4, (x.src b).zeroExtend 64)
  | .amomax _ _ b _ _ => (5, (x.src b).zeroExtend 64)
  | .amominn _ _ b _ _ => (6, (x.src b).zeroExtend 64)
  | .amomaxn _ _ b _ _ => (7, (x.src b).zeroExtend 64)
  | .amoswp _ _ b _ _ => (8, (x.src b).zeroExtend 64)
  | .amocas _ _ b _ _ => (9, x.pairSrc b)
  | _ => (0, 0)

/-- The register an instruction with no effect but on registers and the PC writes, or 0. -/
def plainOf : Instr → Option XReg
  | .add rd .. | .sub rd .. | .and rd .. | .or rd .. | .xor rd .. | .andn rd .. | .shl rd .. | .shr rd .. | .sra rd ..
  | .rotl rd .. | .slt rd .. | .sltn rd .. | .min rd .. | .max rd .. | .minn rd .. | .maxn rd .. | .mul rd .. | .mulh rd ..
  | .mulhn rd .. | .div rd .. | .divn rd .. | .rem rd .. | .remn rd .. | .clz rd .. | .ctz rd .. | .popc rd .. | .bext rd ..
  | .bins rd .. | .addi rd .. | .andi rd .. | .ori rd .. | .xori rd .. | .slti rd .. | .sltni rd .. | .lui rd ..
  | .shli rd .. | .shri rd .. | .srai rd .. | .jal rd .. | .jalr rd .. | .ctest rd .. => some rd
  | .beq .. | .bne .. | .blt .. | .bge .. | .bltn .. | .bgen .. => some 0
  | _ => none
/-- Codes of the scalar registers an instruction writes. -/
def xWrites (i : Instr) : List Nat :=
  match scalarOf i, atomicOf i, plainOf i with
  | some (r, _, _, size, _, _, store), _, _ => if store then [] else if size = 8 then pr r else xr r
  | _, some (rd, _, _, _), _ => xr rd
  | _, _, some rd => xr rd
  | _, _, _ =>
    match i with
    | .cread rd _ => pr rd
    | .tspawn rd _ | .mfs rd _ | .qstat _ rd | .mrecv rd _ | .fsres rd _ _ | .cskim _ rd _ _ | .cprec rd _ _ | .steprd rd
    | .erchk rd _ | .erstat rd _ | .sstat rd _ _ => xr rd
    | _ => []
/-- Codes of the registers an instruction names. -/
def namedCodes (i : Instr) : List Nat :=
  (namedOf i).flatMap fun n => match n with
    | .x r => xr r
    | .pair r => pr r
    | .v r n => vr r n
    | _ => []

/-- What an instruction is to the accesses of its context (R203 to R209). One that is not listed accesses nothing as it issues, and
neither acquires nor releases. -/
def passOf (s : State) (i : Instr) : Pass :=
  let x := s.me
  match scalarOf i, atomicOf i with
  | some (_, ra, off, size, ord, sc, _), _ => Pass.access (scalarSpan x ra off size) ord sc
  | _, some (_, ra, ord, sc) => { Pass.access [((x.rx ra).toNat, 4)] ord sc with waits := ord == .ar && sc != .task }
  | _, _ =>
    match i with
    | .vld _ ra rb ord sc => Pass.access [((x.rx ra).toNat, vmemLen (x.rx rb))] ord sc
    | .vst _ ra rb ord sc => Pass.access [((x.rx ra).toNat, vmemLen (x.rx rb))] ord sc
    | .vldt _ ra rb => Pass.reads (tileSpans x ra rb)
    | .vldq _ q rb => let r := s.here.ring q.val; Pass.reads [(r.slot r.head + (x.rx rb).toNat, 64)]
    | .vstq _ q rb => let r := s.here.ring q.val; Pass.reads [(r.slot r.tail + (x.rx rb).toNat, 64)]
    | .vgath v ra rb ord sc => Pass.access (gathSpans x v ra rb) ord sc
    | .vscat v ra rb ord sc => Pass.access (scatSpans x v ra rb) ord sc
    | .vlds _ ra rb _ => Pass.reads [((x.rx ra).toNat, 64), ((x.rx rb).toNat, 2)]
    | .cskim _ _ rb tag => Pass.reads (skimSpan s.here tag.val (bitsN (x.rx rb).toNat 9 0))
    | .tshape rb _ => Pass.reads [((x.rx rb).toNat, 64)]
    | .sgeom rb e => Pass.reads (if e = 8 then [((x.rx rb).toNat, 64)] else [])
    | .scopy rb _ _ | .sload rb _ _ | .sstore rb _ _ | .sred rb _ _ | .sxput rb _ _ => Pass.reads [((x.rx rb).toNat, 32)]
    | .sfeed rb _ | .sdrain rb _ =>
      let a := (x.rx rb).toNat
      Pass.reads ((a, 32) :: ringSpan s.here (streamDesc s.here a).ring)
    | .mma qa qb _ | .mmaw qa qb _ => Pass.reads (ringSpan s.here qa.val ++ ringSpan s.here qb.val)
    | .fscfg rb _ | .cbcast rb _ | .cjoin rb _ => Pass.reads [((x.rx rb).toNat, 16)]
    | .cgath rb _ => Pass.reads [((x.rx rb).toNat, 32)]
    | .msend rb sc tag => Pass.message s rb (some tag.toNat) sc
    | .mput rb sc | .mget rb sc | .mamo _ rb sc _ => Pass.message s rb none sc
    | .cwait _ _ sc n => (Pass.acquiring sc).onCounter n.toNat
    | .barwait _ sc _ => Pass.acquiring sc
    | .qwaitf .. | .qwaite .. => Pass.acquiring .core
    | .cread _ n | .ctest _ _ n | .cbrk n => (Pass.reads []).onCounter n.toNat
    | .cadd _ sc n | .craise _ _ sc n => (Pass.releasing sc).toCounter n.toNat
    | .barrive sc _ | .erdone sc => Pass.releasing sc
    | .fence sc => Pass.access [] .ar sc
    | .qadvh .. | .qadvt .. | .tspawn .. => Pass.releasing .core
    | .erinit rb _ => Pass.releasing (erinitScope s rb)
    | .stepadv | .erhalt => Pass.releasing .device
    | _ => Pass.reads []

/-- An engine command: it snapshots as it issues, and its engine performs it (R26, R191). -/
def engineCommand : Instr → Bool
  | .mma .. | .mmaw .. | .tqnt .. | .tdqnt .. | .tstpair .. | .tdecay .. | .tdecaySweep .. | .tdecayDrop .. | .tsadd ..
  | .tnorm .. | .tscl .. | .tfact .. | .msend .. | .mput .. | .mget .. | .mamo .. | .fscfg .. | .fsum .. | .cbcast ..
  | .cjoin .. | .cgath .. | .scopy .. | .sload .. | .sstore .. | .sfeed .. | .sdrain .. | .sred .. | .sxput .. | .simg .. => true
  | _ => false
/-! ## Accesses performed late -/

/-- An order without its release. -/
def unreleasedOrd : MemOrd → MemOrd
  | .rl => .plain
  | .ar => .aq
  | ord => ord
/-- A scalar store or an atomic without its release: what it does as it issues, if it is performed later. -/
def unreleased : Instr → Instr
  | .sb r ra ord sc off => .sb r ra (unreleasedOrd ord) sc off
  | .sh r ra ord sc off => .sh r ra (unreleasedOrd ord) sc off
  | .sw r ra ord sc off => .sw r ra (unreleasedOrd ord) sc off
  | .sd r ra ord sc off => .sd r ra (unreleasedOrd ord) sc off
  | .amoadd rd ra b ord sc => .amoadd rd ra b (unreleasedOrd ord) sc
  | .amoand rd ra b ord sc => .amoand rd ra b (unreleasedOrd ord) sc
  | .amoor rd ra b ord sc => .amoor rd ra b (unreleasedOrd ord) sc
  | .amoxor rd ra b ord sc => .amoxor rd ra b (unreleasedOrd ord) sc
  | .amomin rd ra b ord sc => .amomin rd ra b (unreleasedOrd ord) sc
  | .amomax rd ra b ord sc => .amomax rd ra b (unreleasedOrd ord) sc
  | .amominn rd ra b ord sc => .amominn rd ra b (unreleasedOrd ord) sc
  | .amomaxn rd ra b ord sc => .amomaxn rd ra b (unreleasedOrd ord) sc
  | .amoswp rd ra b ord sc => .amoswp rd ra b (unreleasedOrd ord) sc
  | .amocas rd ra b ord sc => .amocas rd ra b (unreleasedOrd ord) sc
  | i => i

/-- The bytes that are still to be accessed. -/
def LateOp.spans : LateOp → List (Nat × Nat)
  | .store ps _ _ => ps.map fun g => (g.1, g.2.length)
  | .load a i => (scalarOf i).elim [] fun l => [(a, l.2.2.2.1)]
  | .lanes ps _ => ps.map fun g => (g.1, g.2.1)
  | .stamp _ a _ _ none => [(a, 2)]
  | .stamp _ _ _ _ (some _) => []
  | .amo a .. => [(a, 4)]
  | .counter .. => []
  | .command _ ls => ls.map fun l => (16 * l.lo, 16 * (l.hi + 1 - l.lo))
  | .rewrite ps => ps.map fun g => (g.1, g.2.length)
/-- Codes of the scalar registers that are still to be written. -/
def LateOp.regs : LateOp → List Nat
  | .load _ i | .counter _ i _ => xWrites i
  | .amo _ rd .. => xr rd
  | _ => []
/-- The counter that is still to be read or broken. -/
def LateOp.counters : LateOp → List Nat
  | .counter n .. => [n]
  | _ => []
/-- The scope of a release, and the number its context's messages had come to. -/
def LateOp.release : LateOp → Option (Scope × Nat)
  | .store _ r n => r.map fun sc => (sc, n)
  | .amo _ _ _ _ r n => r.map fun sc => (sc, n)
  | _ => none
def LateOp.isCommand : LateOp → Bool
  | .command .. => true
  | _ => false
def LateOp.writes : LateOp → Bool
  | .load .. | .lanes .. | .stamp .. | .counter .. => false
  | _ => true
/-- What an access in flight is that a token and its stamp are read or written by together (R169, R331): a line of a decay sweep,
or a part of a VLDS. -/
def stampParty (c : Core) (e : Late) : Bool :=
  e.op.isRewrite || e.hold && c.late.any fun d => d.ctx == e.ctx && match d.op with
    | .stamp .. => true
    | _ => false

/-- Instruction i of the context of the current issue slot comes after this access of the core: one of its context that holds it up
(R156), that shares a byte, a counter or a register with it, that it releases beyond the core, that is a release it acquires
after or releases after, or that a FENCEE puts before it; an engine command of its context whose bytes its own words lie in
(R118), which one SCANCEL of the core may end; and for a VLDS a party to a stamp, as a rewrite is for a read of SWEEP (R320). The
rules are 1 to 6 and 10 of R198; an AMO with .rl counts as the release it is, which R205 reads as ST: the model's choice (log
entry 4). -/
def Late.before (e : Late) (s : State) (i : Instr) : Bool :=
  let g := passOf s i
  (match i with
    | .scancel .. => e.op.isCommand
    | .vlds .. => stampParty s.here e
    | .mfs _ n => n == 0x202 && e.op.isRewrite
    | _ => false)
  || (e.ctx == s.cur.2 && !e.op.isRewrite &&
    (e.hold || spansMeet e.op.spans (g.spans ++ g.landing) || e.op.counters.any g.counters.contains
      || (e.op.isCommand && spansMeet e.op.spans [(s.me.pc.toNat, max 4 (instrLen i))])
      || (e.serial == s.me.serial && e.op.regs.any fun r => r != 0 && (namedCodes i).contains r)
      || (match g.release with
        | none => false
        | some .core => e.op.release.isSome
        | some _ => true)
      || (g.waits && e.op.release.any fun r => r.1 != .task)
      || (e.fenced && engineCommand i)))

/-- What a scalar load writes, from the bytes it reads. -/
def landLoad (i : Instr) (bs : List Byte) (x : Ctx) : Ctx :=
  let v := natOfBytes bs
  match i with
  | .lb rd _ _ _ _ => x.wx rd ((BitVec.ofNat 8 v).signExtend 32)
  | .lh rd _ _ _ _ => x.wx rd ((BitVec.ofNat 16 v).signExtend 32)
  | .lbn rd _ _ _ _ | .lhn rd _ _ _ _ | .lw rd _ _ _ _ => x.wx rd (BitVec.ofNat 32 v)
  | .ld rd _ _ _ _ => x.wpair rd (BitVec.ofNat 64 v)
  | _ => x
/-- A token with bytes put in a place. -/
def Token.patch (t : Token) (off : Nat) (bs : List Byte) : Token :=
  tokenOf (t.bytes.take off ++ bs ++ t.bytes.drop (off + bs.length)) t.valid
/-- The word an atomic writes, if it writes one (R127, R128). -/
def atomicNew (code : Nat) (b : DWord) (old : Word) : Option Word :=
  if code = 9 then (if old = b.extractLsb' 0 32 then some (b.extractLsb' 32 32) else none)
  else some (amoFn code old (b.extractLsb' 0 32))
/-- An AMOCAS that would write nothing now: its release does not take place then (R128). -/
def LateOp.fails (c : Core) : LateOp → Bool
  | .amo a _ code b _ _ => (atomicNew code b (c.word a)).isNone
  | _ => false
/-- An AMOCAS whose compare fails is one without release (R128). -/
def effective (s : State) (i : Instr) : Instr :=
  match atomicOf i with
  | some (_, ra, _, _) =>
    let arg := atomicArg s.me i
    if (atomicNew arg.1 arg.2 (s.here.word (s.me.rx ra).toNat)).isNone then unreleased i else i
  | none => i

/-- Access n of a core may be performed: its pages are there, and a release follows every earlier access of its context and
what else R125 names; an engine command takes its locks once no other access in flight meets its bytes, and a VLDS decays its
token once it has read it. -/
def lateReady (c : Core) (n : Nat) (e : Late) : Bool :=
  match e.op with
  | .command .. => (c.late.eraseIdx n).all fun d => !spansMeet d.op.spans e.op.spans
  | .stamp _ _ _ _ (some _) => (c.late.eraseIdx n).all fun d => d.ctx != e.ctx || !d.hold
  | op => !(op.spans.any fun g => absent c g.1 g.2) && (op.fails c || op.release.all fun r =>
      (r.1 == .task || (c.late.take n).all fun d => d.ctx != e.ctx || d.op.isRewrite)
        && releaseBefore c e.ctx r.2 (wideScope r.1))

/-- A context gets what an access of it reads, if the task that issued it goes on. -/
def Core.answer (c : Core) (e : Late) (f : Ctx → Ctx) : Core :=
  let x := c.ctx e.ctx
  if x.serial = e.serial ∧ x.status ≠ .dormant then c.onCtx e.ctx f else c

/-- An acquire is made: a line stays that no party its scope takes in has written since, and that none of the core's commands
locks (R124, R126, R380). -/
def acquireKeeps (c : Core) (scope : Option Scope) (h : Ahead) : Bool :=
  match scope with
  | none | some .task => true
  | some sc => !(h.wrote.any fun w => decide (w.code ≤ sc.code)) && !h.locked && !(lockFault c (16 * h.line) 16 false).isSome
/-- A context of core q makes an acquire of a scope: from now on it may pass on what parties in that scope have written, so that
about every core the scope that takes it in takes in those writes too (R197, R200). -/
def State.hear (s : State) (q : Site) (sc : Scope) : State :=
  let one (p : Site) (h : Ahead) : Ahead :=
    { h with wrote := h.wrote.map fun w =>
        if decide ((reach p q).code < w.code ∧ w.code ≤ sc.code) then reach p q else w }
  if sc.code ≤ 1 then s
  else { s with cores := s.cores.map fun (n, c) => (n, { c with scratch := { c.scratch with
    ahead := c.scratch.ahead.map (one (BitVec.ofNat 18 n)) } }) }

/-- The commands that context k has issued and its core has not done with, by their numbers. -/
def ownCommands (c : Core) (k : CtxNo) : List Nat :=
  c.tensor.queue.filterMap (fun t => match t with
      | .cmd d => if d.ctx = k then some d.id else none
      | .mts .. => none)
    ++ c.tensor.run.filterMap (fun r => if r.cmd.ctx = k then some r.cmd.id else none)
    ++ c.msg.queue.filterMap (fun m => if m.ctx = k then some m.id else none)
    ++ c.msg.out.filterMap (fun m => if m.ctx = k then some m.id else none)
    ++ c.msg.sums.toList.flatMap (fun g => if g.busy then g.cfg.elim [] fun f => if f.ctx = k then [f.resCmd, f.srcCmd] else [] else [])
    ++ c.msg.creams.toList.flatMap (fun g => if g.busy && g.ctx == k then [g.recvCmd, g.srcCmd] else [])
    ++ c.slots.toList.filterMap fun t => t.job.bind fun j => if j.ctx = k then some j.id else none
/-- An engine command of context k comes to its engine: its locks are entered, if it has not ended, and the lines of its context
that it writes were read too early for a load (R118, note 4 of R208). -/
def Core.commandIssues (c : Core) (k : CtxNo) (id : Nat) (ls : List Lock) : Core :=
  if (ownCommands c k).contains id then
    let stays (h : Ahead) : Bool :=
      h.ctx != k || decide (32768 ≤ h.base) || !ls.any fun l => l.write && l.meets (16 * h.line) 16
    { c.lock ls with scratch := { c.scratch with ahead := c.scratch.ahead.filter stays } }
  else c

/-- The acquire of a VMEM load has read a piece: lines its context read ahead are given up as at any acquire (R124, R156). -/
def State.loadAcquires (s : State) (p : Site) (e : Late) (scope : Option Scope) : State :=
  match scope with
  | none => s
  | some sc => (s.onCore p fun c => { c with scratch := { c.scratch with
      ahead := c.scratch.ahead.filter fun h => h.ctx != e.ctx || acquireKeeps c scope h } }).hear p sc

/-- A VLDS has read its stamp: its token decays to the step and with the factor it read (R46, R169). -/
def Core.decayToken (c : Core) (e : Late) (v : VReg) (step factor stamp : Nat) : Core :=
  let n := elapsedSteps step stamp
  let dead := decide (2 ^ 15 ≤ n)
  let c := if dead then c.count ⟨0, 16, 0⟩ else c
  c.answer e fun x =>
    let old := x.v.get v
    x.wv v { old with lanes := if dead then Vector.replicate 16 0 else old.lanes.map fun w => decayWord w n factor }

/-- The access of an entry is performed at core p; an uncorrectable error met so late is an asynchronous MCHK, and nothing
is written (log entry 4). A VMEM instruction has made every check before its first piece (R156), a sweep before its first line. -/
def State.performLate (s : State) (p : Site) (e : Late) : State :=
  match if e.hold || e.op.isRewrite then none else badAmong (s.core p) e.op.writes e.op.spans with
  | some w => (s.countError p).asyncFault p e.ctx e.serial { code := MCHK, sub := 0, aux := 0, val := BitVec.ofNat 32 w }
  | none =>
    let s := if e.op.isCommand then s else e.op.spans.foldl (fun s g => s.scrub p g.1 g.2) s
    match e.op with
    | .store parts _ _ | .rewrite parts => s.onCore p fun c => c.putAll parts
    | .load a i => s.onCore p fun c => c.answer e (landLoad i (c.bytes a (e.op.spans.map (·.2)).sum))
    | .lanes parts acquire =>
      (s.onCore p fun c => c.answer e fun x => parts.foldl (fun x g =>
        x.wv g.2.2.1 ((x.v.get g.2.2.1).patch g.2.2.2 (c.bytes g.1 g.2.1))) x).loadAcquires p e acquire
    | .stamp v a step factor none =>
      s.onCore p fun c => { c with late := c.late ++ [{ e with op := .stamp v a step factor (some (c.nat a 2)) }] }
    | .stamp v _ step factor (some stamp) => s.onCore p fun c => c.decayToken e v step factor stamp
    | .amo a rd code b _ _ => s.onCore p fun c =>
      let old := c.word a
      let c := c.answer e fun x => x.wx rd old
      (atomicNew code b old).elim c fun v => c.put a (bytesOfNat 4 v.toNat)
    | .counter n i v => s.onCore p fun c =>
      let k := c.counter n
      match i with
      | .cread rd _ => c.answer e fun x => x.wpair rd k.value
      | .ctest rd _ _ => c.answer e fun x => x.wx rd (testWord k v)
      | _ => c.breakCounter n
    | .command id ls => s.onCore p fun c => c.commandIssues e.ctx id ls

/-- Instruction i completes in the step from s to t: its context goes on at the next instruction. -/
def completes (s t : State) (i : Instr) : Bool :=
  let x := s.me
  let y := t.me
  y.pc == s.nextPc i && y.tlevel == x.tlevel && y.serial == x.serial && y.status == .ready
/-- A command of the step that leads from s to t locks a line for writing. -/
def lockedSince (s t : State) (h : Ahead) : Bool :=
  t.here.locks.any fun l => decide (s.here.nextCmd ≤ l.cmd) && l.write && l.meets (16 * h.line) 16

/-- Access n of core p is performed if it may be; else nothing happens. -/
def performTurn (p : Site) (n : Nat) (s : State) : State :=
  let c := s.core p
  match takeAt c.late n with
  | none => s
  | some (e, rest) =>
    if c.live && lateReady c n e then (s.onCore p fun c => { c with late := rest }).performLate p e else s

/-- The first of a core's late accesses that satisfies a test is performed, with those before it that it must follow; while
none may be, the turn passes. -/
def performFirst (p : Site) (want : Late → Bool) (s : State) : State :=
  let c := s.core p
  let ready (n : Nat) : Bool := match c.late[n]? with
    | none => false
    | some e => want e && lateReady c n e
  match (List.range c.late.length).find? ready with
  | none => s
  | some n => performTurn p n s

/-! ## Lines read ahead -/

/-- One of the registers that name a line's address is among some. -/
def baseIn (base : Nat) (regs : List Nat) : Bool :=
  [base % 32, base / 32 % 32].any fun r => r != 0 && regs.contains r
/-- The lines the context of the current issue slot has read ahead. -/
def myAhead (s : State) : List Ahead :=
  s.here.scratch.ahead.filter fun h => h.ctx == s.cur.2 && h.serial == s.me.serial
/-- What a context has read ahead changes: a line stays as the function gives it, or goes. -/
def State.keepAhead (s : State) (keep : Ahead → Option Ahead) : State :=
  s.onHere fun c => { c with scratch := { c.scratch with
    ahead := c.scratch.ahead.filterMap fun h => if h.ctx != s.cur.2 then some h else if h.serial == s.me.serial then keep h else none } }

/-- What becomes of a line read ahead when instruction i, which is `g`, has issued in the step from s to t (R198): it goes with an
acquire, with a write of a register of its address, with a command that locks it unless it is payload, with a message that lands in it,
and with a FENCEE if it is payload; and the bytes of it that i accessed are taken. -/
def lineAfter (s t : State) (i : Instr) (g : Pass) (h : Ahead) : Option Ahead :=
  let vector := (namedOf i).any fun n => match n with
    | .v _ _ => true
    | _ => false
  let mine := [(16 * h.line, 16)]
  let payload := decide (32768 ≤ h.base)
  if baseIn h.base (xWrites i) || (vector && !payload && decide (1024 ≤ h.base)) || (!payload && lockedSince s t h)
      || spansMeet mine g.landing || !acquireKeeps t.here g.acquire h || (i == .fencee && payload) then none
  else some { h with taken := h.taken ++ g.spans.filter fun a => spansMeet mine [a] }

/-- Lines read ahead after instruction i leads the context of s to t: an end leaves none, a branch none (rule 6 of R198), and an
instruction that has not completed all. -/
def linesAfter (s t : State) (i : Instr) : State :=
  if s.here.scratch.ahead.isEmpty then t
  else
    let x := s.me
    let y := t.me
    if y.serial ≠ x.serial ∨ y.status = .dormant then t.keepAhead fun _ => none
    else if y.pc = x.pc then t
    else match i with
      | .beq .. | .bne .. | .blt .. | .bge .. | .bltn .. | .bgen .. | .jalr .. => t.keepAhead fun _ => none
      | _ => t.keepAhead (lineAfter s t i (passOf s i))

/-- Accesses in flight after instruction i leads the context of s to t: those of its context before a release at core scope are
seen first by every party of the core, and those before a FENCEE by its later commands. -/
def marksAfter (s t : State) (i : Instr) : State :=
  let n := s.here.late.length
  let core := (passOf s i).release == some .core
  if s.here.late.isEmpty || (t.me.pc == s.me.pc && t.me.status == s.me.status) || !(core || i == .fencee) then t
  else t.onHere fun c => { c with late := c.late.mapIdx fun m e =>
    if m < n ∧ e.ctx = s.cur.2 ∧ e.op.isRewrite = false then { e with inner := e.inner || core, fenced := e.fenced || i == .fencee } else e }

/-- An acquire that instruction i made is heard of about every core. -/
def hearAfter (s t : State) (i : Instr) : State :=
  match (passOf s i).acquire with
  | none => t
  | some sc => if t.me.pc == s.me.pc then t else t.hear s.cur.1 sc
/-- What else follows from instruction i having issued. -/
def afterIssue (s t : State) (i : Instr) : State := hearAfter s (linesAfter s (marksAfter s t i) i) i

/-- A line of a core that context k may not read yet: it is still to access it, a message of its own to this core is to write it, for
a load a command of its own is (note 4 of R208, R288), an error is in it or its page is absent. -/
def lineShut (c : Core) (p : Site) (k : CtxNo) (payload : Bool) (a : Nat) : Bool :=
  c.late.any (fun e => e.ctx == k && !e.op.isRewrite && (e.hold || (!(payload && e.op.isCommand) && spansMeet e.op.spans [(a, 16)])))
    || ownMessage c p k [(a, 16)] []
    || (!payload && c.locks.any fun l => l.write && l.meets a 16 && (ownCommands c k).contains l.cmd)
    || absent c a 16 || (c.scratch.bad ++ c.scratch.soft).any fun w => decide (w < a + 16 ∧ a < w + 8)

/-- A context reads a line ahead for a load at the registers of `base`, none of which is in flight, unless the line is shut to
it. -/
def lookTurn (p : Site) (k : CtxNo) (base line : Nat) (s : State) : State :=
  let c := s.core p
  let x := c.ctx k
  let a := 16 * line
  if !c.live || c.halted || x.status == .dormant || decide (2 ^ 14 ≤ line) || lineShut c p k (decide (32768 ≤ base)) a
      || c.late.any (fun e => e.ctx == k && baseIn base e.op.regs) then s
  else
    let h : Ahead :=
      { ctx := k, serial := x.serial, base := base, line := line, bytes := c.bytes a 16
        locked := (lockFault c a 16 false).isSome, wrote := none, taken := [] }
    s.onCore p fun c => { c with scratch := { c.scratch with
      ahead := h :: c.scratch.ahead.filter fun g => !(g.ctx == k && (g.serial != x.serial || (g.base == h.base && g.line == line))) } }

/-! ## Issue -/

/-- Parts of a VMEM access that each lie in one line, put together line by line. -/
def byLine {α : Type} (addr : α → Nat) (l : List α) : List (List α) :=
  ((l.map fun a => addr a / 16).eraseDups).map fun n => l.filter fun a => addr a / 16 == n

/-- What of a VMEM load is still to be read, line by line, from the registers its context had; of a VLDS the stamp too, with the
step and the factor it reads as it is performed at once in the step to t (R169). -/
def vectorLoads (s t : State) : Instr → Option (List LateOp)
  | .vld v ra rb ord sc =>
    let a := (s.me.rx ra).toNat
    some ((lineSpans (a, vmemLen (s.me.rx rb))).map fun g => .lanes [(g.1, g.2, v, g.1 - a)] (Pass.access [] ord sc).acquire)
  | .vlds v ra rb df =>
    let a := (s.me.rx ra).toNat
    some ((lineSpans (a, 64)).map (fun g => .lanes [(g.1, g.2, v, g.1 - a)] none)
      ++ [.stamp v (s.me.rx rb).toNat t.here.step16 (t.here.tensor.df.get df).toNat none])
  | .vldq v q rb =>
    let r := s.here.ring q.val
    let a := r.slot r.head + (s.me.rx rb).toNat
    some ((lineSpans (a, 64)).map fun g => .lanes [(g.1, g.2, v, g.1 - a)] none)
  | .vldt v ra rb =>
    let row (n : Nat) : Nat := (rowAddr (s.me.rx ra) (s.me.rx rb) n).toNat
    some ((byLine (·.1) ((List.range 64).map fun n => (row (n / 4) + 4 * (n % 4), 4, v + Fin.ofNat 16 (n % 4), 4 * (n / 4)))).map (.lanes · none))
  | .vgath v ra rb ord sc =>
    some ((byLine (·.1) ((List.range 16).filterMap fun n => (gathAddr s.me v ra rb n).map fun a => (a, 4, v, 4 * n))).map
      (.lanes · (Pass.access [] ord sc).acquire))
  | _ => none
/-- The spans a VMEM store writes. -/
def vectorStores (s : State) : Instr → Option (List (Nat × Nat))
  | .vst v ra rb _ _ => some (joinSpans (vstSpans (s.me.v.get v) (s.me.rx ra).toNat (vmemLen (s.me.rx rb))))
  | .vscat v ra rb _ _ => some (scatSpans s.me v ra rb)
  | .vstq _ q rb => let r := s.here.ring q.val; some [(r.slot r.tail + (s.me.rx rb).toNat, 64)]
  | _ => none

/-- What instruction i leaves to be performed if it issues late, when its effect at once leads from s to t, and whether its context
waits for it (R156). A scalar acquire that others observe is never late. -/
def lateOps (s t : State) (i : Instr) : Option (List LateOp × Bool) :=
  let seq := s.here.msg.nextSeq
  let rel (ord : MemOrd) (sc : Scope) : Option Scope := if releases ord then some sc else none
  match scalarOf i, atomicOf i with
  | some (_, ra, off, size, ord, sc, store), _ =>
    let a := effAddr s.me ra off size
    if store then some ([.store [(a, t.here.bytes a size)] (rel ord sc) seq], false)
    else if acquires ord && sc != .task then none else some ([.load a i], false)
  | _, some (rd, ra, ord, sc) =>
    let arg := atomicArg s.me i
    if acquires ord && sc != .task then none
    else some ([.amo (s.me.rx ra).toNat rd arg.1 arg.2 (rel ord sc) seq], false)
  | _, _ =>
    match vectorLoads s t i, vectorStores s i with
    | some l, _ => some (l, true)
    | _, some spans =>
      some ((byLine (·.1) (spans.flatMap lineSpans)).map fun l => .store (l.map fun g => (g.1, t.here.bytes g.1 g.2)) none seq, true)
    | _, _ => match i with
      | .cread _ n | .cbrk n => some ([.counter n.toNat i 0], false)
      | .ctest _ rb n => some ([.counter n.toNat i (s.me.rx rb)], false)
      | _ => none

/-- Accesses of the context of the current issue slot wait to be performed. -/
def State.addLate (s : State) (ops : List LateOp) (hold : Bool) : State :=
  s.onHere fun c => { c with late := c.late ++ ops.map fun op =>
    { ctx := s.cur.2, serial := s.me.serial, op := op, hold := hold, inner := false, fenced := false } }

/-- The state t with the memory, the scalar registers and the counters of s: what an access does that issues and is performed
later. A release takes a number among its context's messages, so that later ones do not hold it up. What a VLDS counts in QSTAT it does
not count yet. -/
def State.undone (s t : State) (release : Bool) : State :=
  let c := s.here
  let old (p : Scratch) : Scratch := { p with mem := c.scratch.mem, bad := c.scratch.bad, ahead := c.scratch.ahead }
  (t.onMe fun y => { y with x := s.me.x }).onHere fun d => { d with
    scratch := old d.scratch
    tensor := { d.tensor with qstat := c.tensor.qstat }
    sync := { d.sync with counters := c.sync.counters }
    progress := c.progress
    msg := { d.msg with nextSeq := if release then c.msg.nextSeq + 1 else d.msg.nextSeq } }

/-- A command of the step that leads from s to t locks bytes that an access in flight is to touch: the access is performed
first (rule 7 of R198, R118). -/
def lockClash (s t : State) (e : Late) : Bool :=
  t.here.locks.any fun l => decide (s.here.nextCmd ≤ l.cmd) && (e.op.writes || l.write) && e.op.spans.any fun g => l.meets g.1 g.2

/-- The locks that the command of the step from s to t takes. -/
def newLocks (s t : State) : List Lock := t.here.locks.filter fun l => decide (s.here.nextCmd ≤ l.cmd)
/-- The lock table has room for the locks of the commands in flight too (R193). -/
def lateRoom (s t : State) : Bool :=
  let n := (s.here.late.map fun e => match e.op with
    | .command _ ls => ls.length
    | _ => 0).sum
  n == 0 || (newLocks s t).isEmpty || decide (t.here.locks.length + n ≤ 32)

/-- Instruction i issues and is performed later: the step takes its checks and its place (R123, R156, R204). An engine command
has its place in its engine's queue, its descriptor and its registers then, and takes its locks when it comes there. -/
def issueLate (i : Instr) (s : State) : Option State :=
  if engineCommand i then
    match exec i s with
    | .next t =>
      let ls := newLocks s t
      if !completes s t i || ls.isEmpty || !lateRoom s t || s.here.late.any (lockClash s t) then none
      else some ((t.onHere fun c => { c with locks := c.locks.filter fun l => decide (l.cmd < s.here.nextCmd) }).addLate
        [.command s.here.nextCmd ls] false)
    | _ => none
  else
    match exec (unreleased i) s with
    | .next t =>
      if !completes s t i then none
      else
        (lateOps s t i).map fun l => (s.undone t (l.1.any fun op => op.release.isSome)).addLate l.1 l.2
    | _ => none

/-- A lock without one line. -/
def Lock.without (l : Lock) (line : Nat) : List Lock :=
  if l.lo ≤ line ∧ line ≤ l.hi then
    (if l.lo < line then [{ l with hi := line - 1 }] else []) ++ if line < l.hi then [{ l with lo := line + 1 }] else []
  else [l]

/-- The core as its lines were when they were read ahead: their bytes, and the locks that stood on them then. -/
def Core.asRead (c : Core) (l : List Ahead) : Core :=
  { c with
    scratch := { c.scratch with mem := l.foldl (fun m h => writeBytes m (16 * h.line) h.bytes) c.scratch.mem }
    locks := l.foldl (fun ls h => ls.flatMap fun g => g.without h.line) c.locks
      ++ (l.filter (·.locked)).map fun h => { cmd := c.nextCmd, lo := h.line, hi := h.line, write := true } }

/-- The registers of the address of a load that may take lines read ahead: a plain load, VLD, VLDT, VLDQ or VGATH. -/
def aheadBase : Instr → Option Nat
  | .vld _ ra rb ord sc => if acquires ord && sc != .task then none else some (ra.val + 32 * rb.val)
  | .vldt _ ra rb => some (ra.val + 32 * rb.val)
  | .vldq _ _ rb => some rb.val
  | .vgath v ra rb ord sc => if acquires ord && sc != .task then none else some (ra.val + 32 * rb.val + 1024 * (v.val + 1))
  | i =>
    match scalarOf i with
    | some (_, ra, _, _, ord, sc, false) => if acquires ord && sc != .task then none else some ra.val
    | _ => none

/-- A load issues and takes the lines its context has read ahead for its address, but those of whose bytes its context has
accessed one since: it sees them as they were, and its locks as they stood (R118, R123, R217). A message takes lines
read for the register of its descriptor as lines of its payload, but those that a command locks for writing: it waits for that
command (R194, R208, R288). -/
def issueAhead (i : Instr) (s : State) : Option State :=
  let mine (base : Nat) : List Ahead := (myAhead s).filter fun h => h.base == base
  match aheadBase i with
  | some base =>
    let seen := s.onHere fun c => c.asRead ((mine base).filter fun h => !spansMeet h.taken (passOf s i).spans)
    match exec i seen with
    | .next t => some (t.onHere fun c => { c with
        scratch := { c.scratch with mem := s.here.scratch.mem }
        locks := s.here.locks.filter fun l =>
          c.locks.any (fun g => g.cmd == l.cmd) || !seen.here.locks.any fun g => g.cmd == l.cmd })
    | _ => none
  | none =>
    match i with
    | .msend rb _ _ | .mput rb _ =>
      match exec i s with
      | .next t =>
        if t.here.msg.queue.length = s.here.msg.queue.length + 1 then
          some (t.onHere fun c => { c with msg := { c.msg with queue := c.msg.queue.mapIdx fun n m =>
            if n = s.here.msg.queue.length then
              { m with early := ((mine (32768 + rb.val)).filter fun h => h.taken.isEmpty
                  && (lockFault s.here (16 * h.line) 16 false).isNone).map fun h => (h.line, h.bytes) }
            else m } })
        else none
      | _ => none
    | _ => none

/-- How a context's turn issues its instruction. -/
inductive Manner where
  | now | late | ahead
  deriving DecidableEq, Repr, Inhabited

/-- Instruction i issued in another manner than at once, where it can be: what it is to the other accesses then, and the state
it leads to. -/
def issueOther (m : Manner) (i : Instr) (s : State) : Option (Instr × State) :=
  match m with
  | .now => none
  | .late => (issueLate i s).map fun t => (unreleased i, t)
  | .ahead => (issueAhead i s).map fun t => (i, t)

/-- The rewrite that a VLDS which completes in the step from s to t demands first: it is made line by line (R119, R331). -/
def demandOf (s t : State) (i : Instr) : Option (Sweep × List (Nat × List Byte)) :=
  match i with
  | .vlds _ ra _ _ => if completes s t i then firstDemand s.here s.here.step16 (s.me.rx ra).toNat else none
  | _ => none

/-- Instruction i of the context of the current issue slot issues with outcome r: accesses of its context that must come before it
are performed first, one a turn, and it waits for a message of its own (R198) and for room in the lock table (R193). -/
def issueWith (i : Instr) (s : State) (r : Host.Outcome State Fault Refusal) : Host.Outcome State Fault Refusal :=
  let j := effective s i
  let g := passOf s j
  if s.here.late.any fun e => e.before s j then
    .next (performFirst s.cur.1 (fun e => e.ctx == s.cur.2 || e.before s j) s)
  else if ownMessage s.here s.cur.1 s.cur.2 g.spans g.awaits then .next s
  else match r with
    | .next t =>
      if s.here.late.any (lockClash s t) then .next (performFirst s.cur.1 (fun _ => true) s)
      else if !lateRoom s t then .next s
      else match demandOf s t j with
        | some g => .next (s.onHere fun c => { c with late := c.late ++ sweepLines g.1 g.2 })
        | none => .next (afterIssue s t j)
    | r => r

/-- Instruction i of the context of the current issue slot issues in a manner; where it cannot, it issues as it is. -/
def issueInstr (m : Manner) (i : Instr) (s : State) : Host.Outcome State Fault Refusal :=
  match issueOther m i s with
  | some (j, t) => issueWith j s (.next t)
  | none => issueWith i s (exec i s)

/-! ## Events -/

/-- An event row is what a party of its core does there, to its scratchpad or as an acquire: a message of a core to itself is that
of a context of it (R126, R195), and a row of the wave comes after the pop that frees its slot (R297, R304). -/
def coreRow (s : State) (i : Instr) : Bool :=
  match i with
  | .wake | .fire | .tensorStart | .mmaRow | .tensorComplete | .decaySweep | .streamActivate | .granule | .streamEnd => true
  | .sendServed | .putServed | .getServed | .amoServed =>
    s.here.msg.requests.head?.any fun r => r.launch.isSome && hdrSrc r.hdr == s.cur.1
  | _ => false
/-- The core at which a row takes place: that of the packet that lands, for a row of the mesh. -/
def rowSite (s : State) (i : Instr) : Site :=
  match i with
  | .waveFrame | .sumLands | .renupLands | .rendnLands | .sumDoneLands | .sumFailLands | .openLands | .trainDataBeat | .endLands
  | .cutLands => (s.mesh[s.num]?).elim s.cur.1 fun p => p.dst
  | _ => s.cur.1
/-- The commands, by their numbers, that a row works on: they have come to their engine before (R26). -/
def rowCommands (s : State) (i : Instr) : List Nat :=
  let c := s.core (rowSite s i)
  let sums := c.msg.sums.toList.flatMap fun g => g.cfg.elim [] fun f => [f.resCmd]
  let creams := c.msg.creams.toList.flatMap fun g => [g.recvCmd, g.srcCmd]
  match i with
  | .tensorStart => c.tensor.queue.head?.elim [] fun t => match t with
    | .cmd d => [d.id]
    | .mts .. => []
  | .injection => (c.msg.queue[s.num]?).elim [] fun m => m.id :: (sums ++ creams)
  | .streamActivate | .granule | .streamEnd => ((vget c.slots s.num).job).elim [] fun j => [j.id]
  | .sumLands | .renupLands | .rendnLands | .sumDoneLands | .sumFailLands => sums
  | .openLands | .trainDataBeat | .endLands | .cutLands => creams
  | _ => []
/-- A row reads or writes a token and its stamp together (R331). -/
def stampRow : Instr → Bool
  | .tensorStart | .mmaRow | .tensorComplete | .decaySweep => true
  | _ => false

/-- An access in flight at the core of a row is performed before it: one that a release at core scope stands after, for what a
party of the core does (R126); an engine command the row works on; and a part of a VLDS or of a sweep, before a row that
reads or writes tokens with their stamps (R169, R331). -/
def rowAfter (s : State) (i : Instr) (e : Late) : Bool :=
  (e.inner && (coreRow s i || i == .waveFrame) && match i with
    | .wake => e.ctx != s.cur.2
    | _ => true)
  || (stampRow i && stampParty (s.core (rowSite s i)) e)
  || match e.op with
    | .command id _ => (rowCommands s i).contains id
    | _ => false

/-- An event row takes place: what must come before it is performed first, one a turn, and a wait or a start it brings about is an
acquire (R124, R126, R228). -/
def eventTurn (i : Instr) (s : State) : Host.Outcome State Fault Refusal :=
  let p := rowSite s i
  if (s.core p).late.any (rowAfter s i) then .next (performFirst p (rowAfter s i) s)
  else match i, s.me.status, exec i s with
    | .wake, .waiting _ j, .next t => .next (afterIssue s t j)
    | .fire, _, .next t => .next (t.hear s.cur.1 .device)
    | _, _, r => r

end Sys2Proof.Machine
end

