-- ==== Sys2Proof/Machine/Step.lean ====
section
/-!
DEFINITION. One step: the next turn of the agenda (or a free one), which is a context issuing the instruction at its PC,
an event row of the opcode table, or an access of a context out of its place (log entries 2 and 4).
-/
namespace Sys2Proof.Machine
open Sys2Proof

/-- The next turn and the state without it. -/
def State.nextTurn (s : State) : Turn × State :=
  match s.agenda with
  | t :: rest => (t, { s with agenda := rest })
  | [] =>
    let (p, k, n) := Config.freePlace s.freeCount
    (match Config.freeEvent s.freeCount with
      | none =>
        let m := Config.freeManner s.freeCount
        match m % 5 with
        | 0 => .issue p k
        | 1 => .issueLate p k
        | 2 => .issueAhead p k
        | 3 => .look p k (m / 5) n
        | _ => .perform p n
      | some i => .act p k n i, { s with freeCount := s.freeCount + 1 })

/-- A context's turn: what another context released at core scope is performed first (R126); a held asynchronous fault is entered
before the next instruction issues, but after a VMEM instruction that has issued (R143, R156); else the words at the PC are
fetched, which an uncorrectable error in them stops with MCHK (R146), and run. A context that may not issue, or whose fetch stalls, lets its turn pass. -/
def issueTurn (m : Manner) (p : Site) (k : CtxNo) (s : State) : Host.Outcome State Fault Refusal :=
  let s := { s with cur := (p, k) }
  if !s.issuing then .next s
  else if s.here.late.any fun e => e.inner && e.ctx != k then .next (performFirst p (fun e => e.inner && e.ctx != k) s)
  else if s.here.late.any fun e => e.hold && e.ctx == k then .next (performFirst p (fun e => e.hold && e.ctx == k) s)
  else if s.me.tlevel = 0 ∧ ¬ s.me.pending.isEmpty ∧ memQueued s.here k = false then eventTurn .asyncFault s
  else if fetchStalls s then .next s
  else match fetchBad s with
    | some w => .next (s.machineCheck (BitVec.ofNat 32 w))
    | none => issueInstr m (fetch s) s.fetched

/-- One step of the machine. An event turn runs only a row that has no encoding and is not one of the two rows a fetch
raises. -/
def step (s : State) : Host.Outcome State Fault Refusal :=
  match s.nextTurn with
  | (.issue p k, s) => issueTurn .now p k s
  | (.issueLate p k, s) => issueTurn .late p k s
  | (.issueAhead p k, s) => issueTurn .ahead p k s
  | (.look p k base line, s) => .next (lookTurn p k base line s)
  | (.perform p n, s) => .next (performTurn p n s)
  | (.act p k n i, s) => if isEvent i then eventTurn i { s with cur := (p, k), num := n } else .next s

/-- The state whose next step fetches and runs the instruction whose bits are w (log entry 3). -/
def State.withFetchWord (s : State) (nbits w : Nat) : State := placeWord s nbits w

end Sys2Proof.Machine
end

