-- ==== Sys2Proof/Certificates/Slice0/Obligations.lean ====
section
/-!
DEFINITION. The statements for the provers. Each is about every state and every operand unless it says otherwise; the
terms they share come first.
-/
namespace Sys2Proof.Claim
open Sys2Proof Sys2Proof.Machine

/-! ## Shared terms -/

/-- Nothing that comes ahead of an instruction's own checks stands in its way: its context may issue, the launch declares
every register and selector it names, it is no privileged access, no register it reads has a parity error, correctable or
not, and the queue its command enters has room (R25, R88, R147). -/
def Clear (i : Instr) (s : State) : Prop :=
  s.issuing = true ∧ rangeFault s.here.role i = none ∧ privFault i = none
    ∧ (∀ r ∈ readCodes i, r ∉ s.me.badRegs ∧ r ∉ s.me.softRegs) ∧ queueFull s.here i = false

/-- The state with xd written in the issuing context and its PC n bytes on; a write to x0 is discarded (R73). -/
def wrote (s : State) (rd : XReg) (v : Word) (n : Nat) : State :=
  s.onMe fun c => { c.wx rd v with pc := c.pc + BitVec.ofNat 32 n }

/-- The state with the PC of the issuing context n bytes on. -/
def moved (s : State) (n : Nat) : State := s.onMe fun c => { c with pc := c.pc + BitVec.ofNat 32 n }

/-- The bytes of an instruction with operand b: a literal adds one word (R76, R80). -/
def bytesOf : Src → Nat
  | .reg _ => 4
  | .lit _ => 8

/-- With nothing in its way, instruction i writes v to xd, moves on by n bytes and changes nothing else. -/
def Writes (i : Instr) (s : State) (rd : XReg) (v : Word) (n : Nat) : Prop :=
  Clear i s → exec i s = .next (wrote s rd v n)

/-- 1 for true and 0 for false. -/
def oneIf (p : Prop) [Decidable p] : Word := if p then 1 else 0

/-- A byte of the scratchpad of a core. -/
def byteAt (s : State) (p : Site) (a : Nat) : Byte := memGet (s.core p).scratch.mem a

/-- Every byte of every scratchpad, of edge memory and of host memory reads as before. -/
def SameMemory (s t : State) : Prop :=
  (∀ p a, byteAt t p a = byteAt s p a) ∧ (∀ a, memGet t.edge a = memGet s.edge a) ∧ ∀ a, memGet t.host a = memGet s.host a

/-- The checks of a scalar access pass, and it meets no absent page (R116 to R120, R398). -/
def Reaches (s : State) (acc : Access) (ea n : Nat) : Prop :=
  accessFault s.here s.cur.2 acc ea n = none ∧ absent s.here ea n = false

/-- A transfer to the target passes R78. -/
def MayJump (s : State) (target : Word) : Prop :=
  target.toNat % 4 = 0 ∧ oneRegion s.here.role s.cur.2 .fetch target.toNat 4 = true

/-- A record of n bytes at a passes its checks: alignment, one region that permits the load, no write lock, no uncorrectable
error, no absent page (R116, R118, R120, R398). -/
def Readable (s : State) (a : Word) (align n : Nat) : Prop :=
  a.toNat % align = 0 ∧ oneRegion s.here.role s.cur.2 .load a.toNat n = true ∧ lockFault s.here a.toNat n false = none
    ∧ badWord s.here a.toNat n = none ∧ absent s.here a.toNat n = false

/-- No word with an error, correctable or not, among n bytes from a of a core (R120). -/
def Sound (c : Core) (a n : Nat) : Prop := ∀ w ∈ c.scratch.bad ++ c.scratch.soft, ¬ (w < a + n ∧ a < w + 8)

/-- The effective address of a load or store: (xa + sext(off11) × size) mod 2^32 (R116). -/
def eaOf (s : State) (ra : XReg) (off : BitVec 11) (size : Nat) : Nat :=
  ((s.me.rx ra).toNat + (BitVec.ofInt 32 (off.toInt * size)).toNat) % 2 ^ 32

/-- The state in which context k of the core at p has its turn, the turns in `rest` still to come. -/
def atTurn (s : State) (p : Site) (k : CtxNo) (rest : List Turn) : State := { s with agenda := rest, cur := (p, k) }

/-- The turn of a context that issues: it may, no asynchronous fault is due for delivery, and the words it fetches lie on
no absent page (R143, R148, R398). -/
def Issues (u : State) : Prop :=
  u.issuing = true ∧ (u.me.tlevel ≠ 0 ∨ u.me.pending = []) ∧ fetchStalls u = false

/-- No access of the core is still to be performed, and none of its contexts has read a line ahead (log entry 4). -/
def Unhurried (u : State) : Prop := u.here.late = [] ∧ u.here.scratch.ahead = []

/-- No access of the core is still to be performed, and no message of it is under way (log entry 4). -/
def Alone (u : State) : Prop := u.here.late = [] ∧ u.here.msg.out = []
/-- What a context has issued that is still to be performed. -/
def inFlight (k : CtxNo) (serial : Nat) (op : LateOp) : Late :=
  { ctx := k, serial := serial, op := op, hold := false, inner := false, fenced := false }

/-- A context issues, the bytes at its PC decode to i, and i's words may all be fetched and hold no uncorrectable error (R78,
R120). -/
def Fetches (u : State) (i : Instr) : Prop :=
  Issues u ∧ fetchBad u = none ∧ ∃ tail, decode (u.here.bytes u.me.pc.toNat 12) = some (i, tail)
    ∧ ∀ j, 4 * j + tail.length < 12 → fetchFault u (u.me.pc.toNat + 4 * j) = none

end Sys2Proof.Claim

open Sys2Proof Sys2Proof.Machine Sys2Proof.Claim

/-! ## The ALU and immediates -/

/-- R112: each ALU instruction, with a register or a literal as operand b, completes with the result the table gives, and
changes nothing else; x0 as destination discards it. -/
def Obligations.AluResults : Prop :=
  ∀ (s : State) (rd ra : XReg) (b : Src),
    let a := s.me.rx ra
    let v := s.me.src b
    let sh := v.toNat % 32
    let n := bytesOf b
    Writes (.add rd ra b) s rd (BitVec.ofInt 32 (a.toInt + v.toInt)) n
    ∧ Writes (.sub rd ra b) s rd (BitVec.ofInt 32 (a.toInt - v.toInt)) n
    ∧ Writes (.and rd ra b) s rd (a &&& v) n
    ∧ Writes (.or rd ra b) s rd (a ||| v) n
    ∧ Writes (.xor rd ra b) s rd (a ^^^ v) n
    ∧ Writes (.andn rd ra b) s rd (a &&& ~~~v) n
    ∧ Writes (.shl rd ra b) s rd (BitVec.ofNat 32 (a.toNat * 2 ^ sh)) n
    ∧ Writes (.shr rd ra b) s rd (BitVec.ofNat 32 (a.toNat / 2 ^ sh)) n
    ∧ Writes (.sra rd ra b) s rd (BitVec.ofInt 32 (a.toInt / 2 ^ sh)) n
    ∧ Writes (.rotl rd ra b) s rd ((a <<< sh) ||| (a >>> (32 - sh))) n
    ∧ Writes (.slt rd ra b) s rd (oneIf (a.toInt < v.toInt)) n
    ∧ Writes (.sltn rd ra b) s rd (oneIf (a.toNat < v.toNat)) n
    ∧ Writes (.min rd ra b) s rd (if v.toInt < a.toInt then v else a) n
    ∧ Writes (.max rd ra b) s rd (if a.toInt < v.toInt then v else a) n
    ∧ Writes (.minn rd ra b) s rd (if v.toNat < a.toNat then v else a) n
    ∧ Writes (.maxn rd ra b) s rd (if a.toNat < v.toNat then v else a) n
    ∧ Writes (.mul rd ra b) s rd (BitVec.ofInt 32 (a.toInt * v.toInt)) n
    ∧ Writes (.mulh rd ra b) s rd (BitVec.ofInt 32 (a.toInt * v.toInt / 2 ^ 32)) n
    ∧ Writes (.mulhn rd ra b) s rd (BitVec.ofNat 32 (a.toNat * v.toNat / 2 ^ 32)) n
    ∧ (∀ k ≤ 31, 2 ^ (31 - k) ≤ a.toNat → a.toNat < 2 ^ (32 - k) → Writes (.clz rd ra) s rd (BitVec.ofNat 32 k) 4)
    ∧ (a = 0 → Writes (.clz rd ra) s rd 32 4)
    ∧ (∀ k ≤ 31, a.getLsbD k = true → (∀ j < k, a.getLsbD j = false) → Writes (.ctz rd ra) s rd (BitVec.ofNat 32 k) 4)
    ∧ (a = 0 → Writes (.ctz rd ra) s rd 32 4)
    ∧ Writes (.popc rd ra) s rd (BitVec.ofNat 32 (((List.range 32).filter a.getLsbD).length)) 4

/-- R113: a division by a nonzero divisor rounds toward zero, the remainder takes the sign of the dividend, and the one
overflow gives 0x8000_0000 and 0; a zero divisor, a literal zero too, traps with DIVZERO, EVAL the dividend, EPC the divide. -/
def Obligations.DivisionResults : Prop :=
  ∀ (s : State) (rd ra : XReg) (b : Src),
    let a := s.me.rx ra
    let v := s.me.src b
    let n := bytesOf b
    let wraps := a.toInt = -2 ^ 31 ∧ v.toInt = -1
    (v ≠ 0 →
      Writes (.div rd ra b) s rd (if wraps then 0x80000000 else BitVec.ofInt 32 (a.toInt.tdiv v.toInt)) n
      ∧ Writes (.rem rd ra b) s rd
          (if wraps then 0 else BitVec.ofInt 32 (a.toInt - v.toInt * a.toInt.tdiv v.toInt)) n
      ∧ Writes (.divn rd ra b) s rd (BitVec.ofNat 32 (a.toNat / v.toNat)) n
      ∧ Writes (.remn rd ra b) s rd (BitVec.ofNat 32 (a.toNat % v.toNat)) n)
    ∧ (v = 0 → ∀ i ∈ [Instr.div rd ra b, .rem rd ra b, .divn rd ra b, .remn rd ra b], Clear i s →
        exec i s = .next (s.takeTrap s.cur.1 s.cur.2 false { code := 0x05, sub := 0, aux := 0, val := a } s.me.pc))

/-- R114: BEXT extracts and BINS inserts the field that operand b describes. -/
def Obligations.BitFieldResults : Prop :=
  ∀ (s : State) (rd ra : XReg) (b : Src),
    let a := s.me.rx ra
    let v := s.me.src b
    let pos := v.toNat % 2 ^ 5
    let len := v.toNat / 2 ^ 5 % 2 ^ 5 + 1
    let mask := BitVec.ofNat 32 ((2 ^ len - 1) * 2 ^ pos)
    Writes (.bext rd ra b) s rd (BitVec.ofNat 32 (a.toNat / 2 ^ pos % 2 ^ len)) (bytesOf b)
    ∧ Writes (.bins rd ra b) s rd ((s.me.rx rd &&& ~~~mask) ||| (BitVec.ofNat 32 (a.toNat * 2 ^ pos) &&& mask)) (bytesOf b)

/-- R115, R81: each immediate instruction completes with the result the table gives and changes nothing else. -/
def Obligations.ImmediateResults : Prop :=
  ∀ (s : State) (rd ra : XReg) (imm : BitVec 16) (sh : BitVec 5),
    let a := s.me.rx ra
    Writes (.addi rd ra imm) s rd (BitVec.ofInt 32 (a.toInt + imm.toInt)) 4
    ∧ Writes (.andi rd ra imm) s rd (a &&& BitVec.ofNat 32 imm.toNat) 4
    ∧ Writes (.ori rd ra imm) s rd (a ||| BitVec.ofNat 32 imm.toNat) 4
    ∧ Writes (.xori rd ra imm) s rd (a ^^^ BitVec.ofNat 32 imm.toNat) 4
    ∧ Writes (.slti rd ra imm) s rd (oneIf (a.toInt < imm.toInt)) 4
    ∧ Writes (.sltni rd ra imm) s rd (oneIf (a.toNat < (BitVec.ofInt 32 imm.toInt).toNat)) 4
    ∧ Writes (.lui rd imm) s rd (BitVec.ofNat 32 (imm.toNat * 2 ^ 16)) 4
    ∧ Writes (.shli rd ra sh) s rd (BitVec.ofNat 32 (a.toNat * 2 ^ sh.toNat)) 4
    ∧ Writes (.shri rd ra sh) s rd (BitVec.ofNat 32 (a.toNat / 2 ^ sh.toNat)) 4
    ∧ Writes (.srai rd ra sh) s rd (BitVec.ofInt 32 (a.toInt / 2 ^ sh.toNat)) 4

/-! ## Loads, stores and atomics -/

/-- R121: a load that passes its checks, and whose acquire comes after no release still under way (R198), writes the bytes
at its effective address, sign- or zero-extended, to xd, or for LD to the pair; it changes nothing else but correctable
errors it repairs (R120). A plain load may be performed later than its context's next instructions, and reads its bytes then
(R123, R198). -/
def Obligations.LoadResults : Prop :=
  ∀ (s : State) (rd ra : XReg) (ord : MemOrd) (scope : Scope) (off : BitVec 11) (p : Site) (k : CtxNo) (turns : List Turn)
      (serial a : Nat) (rest : List Late),
    let after (n : Nat) := s.scrub s.cur.1 (eaOf s ra off n) n
    let loaded (n : Nat) := s.here.nat (eaOf s ra off n) n
    let done (i : Instr) (n : Nat) (v : Word) :=
      Clear i s → Reaches s .load (eaOf s ra off n) n → acquireStalls s ord = false →
        exec i s = .next (wrote (after n) rd v 4)
    done (.lb rd ra ord scope off) 1 ((BitVec.ofNat 8 (loaded 1)).signExtend 32)
    ∧ done (.lbn rd ra ord scope off) 1 (BitVec.ofNat 32 (loaded 1))
    ∧ done (.lh rd ra ord scope off) 2 ((BitVec.ofNat 16 (loaded 2)).signExtend 32)
    ∧ done (.lhn rd ra ord scope off) 2 (BitVec.ofNat 32 (loaded 2))
    ∧ done (.lw rd ra ord scope off) 4 (BitVec.ofNat 32 (loaded 4))
    ∧ (Clear (.ld rd ra ord scope off) s → Reaches s .load (eaOf s ra off 8) 8 → acquireStalls s ord = false →
        exec (.ld rd ra ord scope off) s
          = .next ((after 8).onMe fun c => { c.wpair rd (BitVec.ofNat 64 (loaded 8)) with pc := c.pc + 4 }))
    ∧ (let u := atTurn s p k turns
       let c := s.core p
       let x := c.ctx k
       let later (i : Instr) (n : Nat) (write : Nat → Ctx) :=
         (s.agenda = .issueLate p k :: turns → Fetches u i → Alone u → Clear i u → ord = .plain →
           Reaches u .load (eaOf u ra off n) n → ∃ t, step s = .next t ∧ t.me = { u.me with pc := u.me.pc + 4 }
             ∧ t.here.late = [inFlight k u.me.serial (.load (eaOf u ra off n) i)])
         ∧ (s.agenda = .perform p 0 :: turns → c.live = true → x.status ≠ .dormant → x.serial = serial →
             c.late = inFlight k serial (.load a i) :: rest → absent c a n = false → Sound c a n →
             ∃ t, step s = .next t ∧ (t.core p).late = rest ∧ (t.core p).ctx k = write (c.nat a n))
       later (.lb rd ra ord scope off) 1 (fun v => x.wx rd ((BitVec.ofNat 8 v).signExtend 32))
       ∧ later (.lbn rd ra ord scope off) 1 (fun v => x.wx rd (BitVec.ofNat 32 v))
       ∧ later (.lh rd ra ord scope off) 2 (fun v => x.wx rd ((BitVec.ofNat 16 v).signExtend 32))
       ∧ later (.lhn rd ra ord scope off) 2 (fun v => x.wx rd (BitVec.ofNat 32 v))
       ∧ later (.lw rd ra ord scope off) 4 (fun v => x.wx rd (BitVec.ofNat 32 v))
       ∧ later (.ld rd ra ord scope off) 8 (fun v => x.wpair rd (BitVec.ofNat 64 v)))

/-- R121: a store that passes its checks, and whose release has nothing left to wait for (R125), writes the low bytes of
xs, or for SD the pair, at its effective address, little-endian, and changes nothing else but errors it repairs or
replaces (R120). A plain store, or one with release, may be performed later than its context's next instructions: until then no
byte changes (R123, R198). -/
def Obligations.StoreResults : Prop :=
  ∀ (s : State) (rs ra : XReg) (ord : MemOrd) (scope : Scope) (off : BitVec 11) (p : Site) (k : CtxNo) (turns : List Turn)
      (serial a seq : Nat) (bytes : List Byte) (rest : List Late),
    let done (i : Instr) (n v : Nat) :=
      let ea := eaOf s ra off n
      Clear i s → Reaches s .store ea n → releaseStalls s ord scope = false →
        exec i s = .next (moved ((s.scrub s.cur.1 ea n).onHere fun c => c.put ea (bytesOfNat n v)) 4)
    done (.sb rs ra ord scope off) 1 (s.me.rx rs).toNat
    ∧ done (.sh rs ra ord scope off) 2 (s.me.rx rs).toNat
    ∧ done (.sw rs ra ord scope off) 4 (s.me.rx rs).toNat
    ∧ done (.sd rs ra ord scope off) 8 (s.me.rpair rs).toNat
    ∧ (let u := atTurn s p k turns
       let c := s.core p
       let later (i : Instr) (n v : Nat) :=
         let ea := eaOf u ra off n
         s.agenda = .issueLate p k :: turns → Fetches u i → Alone u → Clear i u → ord = .plain ∨ ord = .rl →
           Reaches u .store ea n → Sound u.here ea n → ∃ t, step s = .next t ∧ t.me = { u.me with pc := u.me.pc + 4 }
             ∧ t.here.late = [inFlight k u.me.serial
                 (.store [(ea, bytesOfNat n v)] (if ord = .rl then some scope else none) u.here.msg.nextSeq)]
             ∧ ∀ b, byteAt t p b = byteAt s p b
       later (.sb rs ra ord scope off) 1 (u.me.rx rs).toNat
       ∧ later (.sh rs ra ord scope off) 2 (u.me.rx rs).toNat
       ∧ later (.sw rs ra ord scope off) 4 (u.me.rx rs).toNat
       ∧ later (.sd rs ra ord scope off) 8 (u.me.rpair rs).toNat
       ∧ (s.agenda = .perform p 0 :: turns → c.live = true →
           c.late = inFlight k serial (.store [(a, bytes)] none seq) :: rest →
           absent c a bytes.length = false → Sound c a bytes.length → ∃ t, step s = .next t
             ∧ t.core p = ({ c with late := rest }).put a bytes ∧ ∀ q ≠ p, t.core q = s.core q))

namespace Sys2Proof.Claim

/-- The access of each scalar load, store and atomic: its kind, its effective address and its width (R116, R121, R127). -/
def scalarAccess (s : State) : Instr → Option (Access × Nat × Nat)
  | .lb _ ra _ _ off => some (.load, eaOf s ra off 1, 1)
  | .lbn _ ra _ _ off => some (.load, eaOf s ra off 1, 1)
  | .lh _ ra _ _ off => some (.load, eaOf s ra off 2, 2)
  | .lhn _ ra _ _ off => some (.load, eaOf s ra off 2, 2)
  | .lw _ ra _ _ off => some (.load, eaOf s ra off 4, 4)
  | .ld _ ra _ _ off => some (.load, eaOf s ra off 8, 8)
  | .sb _ ra _ _ off => some (.store, eaOf s ra off 1, 1)
  | .sh _ ra _ _ off => some (.store, eaOf s ra off 2, 2)
  | .sw _ ra _ _ off => some (.store, eaOf s ra off 4, 4)
  | .sd _ ra _ _ off => some (.store, eaOf s ra off 8, 8)
  | .amoadd _ ra _ _ _ => some (.store, (s.me.rx ra).toNat, 4)
  | .amoand _ ra _ _ _ => some (.store, (s.me.rx ra).toNat, 4)
  | .amoor _ ra _ _ _ => some (.store, (s.me.rx ra).toNat, 4)
  | .amoxor _ ra _ _ _ => some (.store, (s.me.rx ra).toNat, 4)
  | .amomin _ ra _ _ _ => some (.store, (s.me.rx ra).toNat, 4)
  | .amomax _ ra _ _ _ => some (.store, (s.me.rx ra).toNat, 4)
  | .amominn _ ra _ _ _ => some (.store, (s.me.rx ra).toNat, 4)
  | .amomaxn _ ra _ _ _ => some (.store, (s.me.rx ra).toNat, 4)
  | .amoswp _ ra _ _ _ => some (.store, (s.me.rx ra).toNat, 4)
  | .amocas _ ra _ _ _ => some (.store, (s.me.rx ra).toNat, 4)
  | _ => none

end Sys2Proof.Claim

/-- R116, R118, R120: what a scalar load, store or atomic traps on, in the order ALIGN, BOUNDS, RANGE, MCHK, each precisely, EPC
the access: the first three with the effective address as EVAL, the last with the lowest bad word that it reads or, being a
store, covers only in part; an absent page holds none (R398). An error is counted (R146), once: a trap that kills waits, and
counts nothing, while the vector engine holds instructions of the task (log entry 17). The access meets none of the four
where its address is aligned, one region permits it, no lock stands against it and each bad word it meets is one it overwrites
whole. -/
def Obligations.AccessFaultOrder : Prop :=
  ∀ (i : Instr) (s : State) (acc : Access) (ea n : Nat), scalarAccess s i = some (acc, ea, n) → Clear i s →
    let c := s.here
    let k := s.cur.2
    let trap (u : State) (code v : Nat) := exec i s = .next
      (u.takeTrap s.cur.1 s.cur.2 false { code := code, sub := 0, aux := 0, val := BitVec.ofNat 32 v } s.me.pc)
    let aligned := ea % n = 0
    let permitted := oneRegion c.role k acc ea n = true
    let locked (l : Lock) := (acc = .store ∨ l.write = true) ∧ l.meets ea n = true
    let hit (w : Nat) := absent c ea n = false ∧ w ∈ c.scratch.bad ∧ w < ea + n ∧ ea < w + 8 ∧ ¬ (acc = .store ∧ ea ≤ w ∧ w + 8 ≤ ea + n)
    (¬ aligned → trap s 0x04 ea)
    ∧ (aligned → ¬ permitted → trap s 0x03 ea)
    ∧ (aligned → permitted → (∃ l ∈ c.locks, locked l) → trap s 0x0A ea)
    ∧ (∀ w, aligned → permitted → (∀ l ∈ c.locks, ¬ locked l) → hit w → (∀ u, hit u → w ≤ u) →
        (trapWaits s s.cur.1 k = false → trap (s.countError s.cur.1) 0x14 w)
          ∧ (trapWaits s s.cur.1 k = true → exec i s = .next s))
    ∧ (aligned → permitted → (∀ l ∈ c.locks, ¬ locked l) → (∀ w, ¬ hit w) → accessFault c k acc ea n = none)

/-- R127, R128: an atomic that passes its checks, with nothing left for its order to wait for, reads the word at xa, writes
f(op, old, b) there and old to xd in one step; AMOCAS writes, and releases, only when the word holds the expected value. One
that is plain may be performed later than its context's next instructions, with the operand it had as it issued (R123). -/
def Obligations.AtomicResults : Prop :=
  ∀ (s : State) (rd ra : XReg) (b : Src) (p : PairSrc) (ord : MemOrd) (scope : Scope) (q : Site) (k : CtxNo) (turns : List Turn)
      (serial a seq : Nat) (rest : List Late),
    let ea := (s.me.rx ra).toNat
    let old := s.here.word ea
    let e := (s.me.pairSrc p).extractLsb' 0 32
    let r := (s.me.pairSrc p).extractLsb' 32 32
    let cas := Instr.amocas rd ra p ord scope
    let casBytes := match p with
      | .pair _ => 4
      | .lit _ => 12
    let swapped (w : Word) := (s.scrub s.cur.1 ea 4).onHere fun c => c.put ea (bytesOfNat 4 w.toNat)
    let ordered := ord = .ar → acquireReady s.here s.cur.2 = true
    let u := atTurn s q k turns
    let c := s.core q
    let x := c.ctx k
    let issues (i : Instr) (n code : Nat) (arg : DWord) :=
      s.agenda = .issueLate q k :: turns → Fetches u i → Alone u → Clear i u → ord = .plain → Reaches u .store (u.me.rx ra).toNat 4 →
        ∃ t, step s = .next t ∧ t.me = { u.me with pc := u.me.pc + BitVec.ofNat 32 n }
          ∧ t.here.late = [inFlight k u.me.serial (.amo (u.me.rx ra).toNat rd code arg none u.here.msg.nextSeq)]
          ∧ ∀ d, byteAt t q d = byteAt s q d
    let performs (code : Nat) (arg : DWord) (f : Word → Option Word) :=
      s.agenda = .perform q 0 :: turns → c.live = true → x.status ≠ .dormant → x.serial = serial →
        c.late = inFlight k serial (.amo a rd code arg none seq) :: rest → absent c a 4 = false → Sound c a 4 →
        ∃ t, step s = .next t ∧ (t.core q).late = rest ∧ (t.core q).ctx k = x.wx rd (c.word a)
          ∧ (t.core q).scratch.mem = match f (c.word a) with
            | some w => writeBytes c.scratch.mem a (bytesOfNat 4 w.toNat)
            | none => c.scratch.mem
    let done (i : Instr) (code : Nat) (f : Word → Word → Word) :=
      (Clear i s → Reaches s .store ea 4 → ordered → releaseStalls s ord scope = false →
        exec i s = .next (wrote (swapped (f old (s.me.src b))) rd old (bytesOf b)))
      ∧ issues i (bytesOf b) code ((u.me.src b).zeroExtend 64)
      ∧ ∀ v : Word, performs code (v.zeroExtend 64) fun o => some (f o v)
    done (.amoadd rd ra b ord scope) 0 (fun o v => BitVec.ofInt 32 (o.toInt + v.toInt))
    ∧ done (.amoand rd ra b ord scope) 1 (fun o v => o &&& v)
    ∧ done (.amoor rd ra b ord scope) 2 (fun o v => o ||| v)
    ∧ done (.amoxor rd ra b ord scope) 3 (fun o v => o ^^^ v)
    ∧ done (.amomin rd ra b ord scope) 4 (fun o v => if v.toInt < o.toInt then v else o)
    ∧ done (.amomax rd ra b ord scope) 5 (fun o v => if o.toInt < v.toInt then v else o)
    ∧ done (.amominn rd ra b ord scope) 6 (fun o v => if v.toNat < o.toNat then v else o)
    ∧ done (.amomaxn rd ra b ord scope) 7 (fun o v => if o.toNat < v.toNat then v else o)
    ∧ done (.amoswp rd ra b ord scope) 8 (fun _ v => v)
    ∧ (Clear cas s → Reaches s .store ea 4 → ordered → old = e → releaseStalls s ord scope = false →
        exec cas s = .next (wrote (swapped r) rd old casBytes))
    ∧ (Clear cas s → Reaches s .store ea 4 → ordered → old ≠ e →
        exec cas s = .next (wrote (s.scrub s.cur.1 ea 4) rd old casBytes))
    ∧ issues cas casBytes 9 (u.me.pairSrc p)
    ∧ ∀ v w : Word, performs 9 (v ++ w) fun o => if o = w then some v else none

/-! ## Control transfers, tasks and traps -/

/-- R129: a branch whose condition holds continues at PC + sext(off13) × 4, if the target passes R78, and else traps with the
target as EVAL; one whose condition does not hold goes to the next instruction, whatever the target. -/
def Obligations.BranchResults : Prop :=
  ∀ (s : State) (ra rb : XReg) (off : BitVec 13),
    let a := s.me.rx ra
    let b := s.me.rx rb
    let target := s.me.pc + BitVec.ofInt 32 (off.toInt * 4)
    let taken (i : Instr) (c : Prop) :=
      Clear i s → (c → MayJump s target → exec i s = .next (s.onMe fun x => { x with pc := target }))
        ∧ (c → target.toNat % 4 = 0 → oneRegion s.here.role s.cur.2 .fetch target.toNat 4 = false → exec i s
            = .next (s.takeTrap s.cur.1 s.cur.2 false { code := 0x03, sub := 0, aux := 0, val := target } s.me.pc))
        ∧ (¬ c → exec i s = .next (moved s 4))
    taken (.beq ra rb off) (a = b)
    ∧ taken (.bne ra rb off) (a ≠ b)
    ∧ taken (.blt ra rb off) (a.toInt < b.toInt)
    ∧ taken (.bge ra rb off) (b.toInt ≤ a.toInt)
    ∧ taken (.bltn ra rb off) (a.toNat < b.toNat)
    ∧ taken (.bgen ra rb off) (b.toNat ≤ a.toNat)

/-- R130, R131: JAL and JALR write PC + 4 to xd and continue at the target, xa read first; a target that fails R78 writes
no link and traps, with ALIGN before BOUNDS and the target as EVAL. -/
def Obligations.JumpResults : Prop :=
  ∀ (s : State) (rd ra : XReg) (off : BitVec 21) (imm : BitVec 16),
    let linked (target : Word) := s.onMe fun c => { c.wx rd (c.pc + 4) with pc := target }
    let done (i : Instr) (target : Word) :=
      Clear i s → (MayJump s target → exec i s = .next (linked target))
        ∧ (target.toNat % 4 ≠ 0 → exec i s
            = .next (s.takeTrap s.cur.1 s.cur.2 false { code := 0x04, sub := 0, aux := 0, val := target } s.me.pc))
        ∧ (target.toNat % 4 = 0 → oneRegion s.here.role s.cur.2 .fetch target.toNat 4 = false → exec i s
            = .next (s.takeTrap s.cur.1 s.cur.2 false { code := 0x03, sub := 0, aux := 0, val := target } s.me.pc))
    done (.jal rd off) (s.me.pc + BitVec.ofInt 32 (off.toInt * 4))
    ∧ done (.jalr rd ra imm) (s.me.rx ra + BitVec.ofInt 32 imm.toInt)

/-- R140: a fault of a context at level 0 or 1 whose TVEC is enabled enters the next level: that level's EPC, ECAUSE and
EVAL are written, TLEVEL goes up by one, the PC is TVEC[31:2] × 4, and nothing else in the machine changes. -/
def Obligations.TrapEntry : Prop :=
  ∀ (s : State) (p : Site) (k : CtxNo) (async : Bool) (f : AsyncFault) (epc : Word),
    let x := (s.core p).ctx k
    let cause := BitVec.ofNat 32 ((if async then 2 ^ 31 else 0) + f.aux % 256 * 2 ^ 16 + f.sub % 256 * 2 ^ 8 + f.code % 256)
    let vec := BitVec.ofNat 32 (x.tvec.toNat / 4 * 4)
    x.tvec.getLsbD 0 = true →
      (x.tlevel = 0 → s.takeTrap p k async f epc = s.onCore p fun c => c.onCtx k fun x =>
        { x with epc1 := epc, ecause1 := cause, eval1 := f.val, tlevel := 1, pc := vec, status := .ready })
      ∧ (x.tlevel = 1 → s.takeTrap p k async f epc = s.onCore p fun c => c.onCtx k fun x =>
        { x with epc2 := epc, ecause2 := cause, eval2 := f.val, tlevel := 2, pc := vec, status := .ready })

/-- R141, R144, R145: a fault at level 2, or at any level with TVEC not enabled, kills the context once the vector engine
holds none of its instructions: it is dormant with its state discarded, and its launch's records end with a report of
kind 0 or 1 that holds the levels in use and then this fault, TVEC, TSAVE and SP. That the report's PC is the EPC an entry
would have saved is log entry 16: R145 says only the PC of the fault. -/
def Obligations.TrapKill : Prop :=
  ∀ (s : State) (p : Site) (k : CtxNo) (async : Bool) (f : AsyncFault) (epc : Word) (l : Launch),
    let c := s.core p
    let x := c.ctx k
    let t := s.takeTrap p k async f epc
    let cause := BitVec.ofNat 32 ((if async then 2 ^ 31 else 0) + f.aux % 256 * 2 ^ 16 + f.sub % 256 * 2 ^ 8 + f.code % 256)
    let report (kind filled : Nat) (a b d : Word × Word × Word) : Vector Word 16 :=
      #v[BitVec.ofNat 32 (kind + 256 * filled), s.siteValue p, ctxValue c k, BitVec.ofNat 32 c.role.launch,
        a.1, a.2.1, a.2.2, b.1, b.2.1, b.2.2, d.1, d.2.1, d.2.2, x.tvec, x.tsave, x.x.get 31]
    let one := (x.epc1, x.ecause1, x.eval1)
    let two := (x.epc2, x.ecause2, x.eval2)
    let this := (epc, cause, f.val)
    let zero : Word × Word × Word := (0, 0, 0)
    let r := if x.tlevel = 2 then report 0 3 one two this
      else if x.tlevel = 1 then report 1 2 one this zero else report 1 1 this zero zero
    x.tlevel = 2 ∨ (x.tlevel ≤ 1 ∧ x.tvec.getLsbD 0 = false) → vecPending c k = false → x.pending = [] →
      (t.core p).ctx k = { Ctx.blank with
          kind := x.kind, serial := x.serial, ends := { serial := x.serial, epc := x.pc } :: x.ends, retired := true }
      ∧ (l ∈ s.station.launches → l.id = c.role.launch → { l with records := l.records ++ [r] } ∈ t.station.launches)

/-- R135, R136: TRAP and BREAK take a trap with cause TRAPI or BREAKPT, EVAL the 12-bit code and EPC the next instruction;
TRET at level L ≥ 1 continues at EPC of level L, one level down, and changes nothing else, and at level 0 traps with ILLEGAL
and EVAL 0x9000_4000. -/
def Obligations.TrapInstructions : Prop :=
  ∀ (s : State) (code : BitVec 12),
    let x := s.me
    let taken (cause : Nat) := s.takeTrap s.cur.1 s.cur.2 false
      { code := cause, sub := 0, aux := 0, val := BitVec.ofNat 32 code.toNat } (x.pc + 4)
    (Clear (.trap code) s → exec (.trap code) s = .next (taken 0x06))
    ∧ (Clear (.breakpt code) s → exec (.breakpt code) s = .next (taken 0x07))
    ∧ (Clear .tret s →
        (x.tlevel = 1 → MayJump s x.epc1 → exec .tret s = .next (s.onMe fun x => { x with pc := x.epc1, tlevel := 0 }))
        ∧ (x.tlevel = 2 → MayJump s x.epc2 → exec .tret s = .next (s.onMe fun x => { x with pc := x.epc2, tlevel := 1 }))
        ∧ (x.tlevel = 0 → exec .tret s
            = .next (s.takeTrap s.cur.1 s.cur.2 false { code := 0x01, sub := 0, aux := 0, val := 0x90004000 } x.pc)))

/-- R132 to R134: TDONE ends an ordinary or handler task, which leaves its context dormant with every register zero; TYIELD only
goes on; TSPAWN starts the lowest dormant ordinary context, its earlier accesses all performed, at the entry in xa, with the
argument from xd and the spawner's number, and writes that context's number, or all ones when there is none. A write of a tensor
register that the spawner has issued and the tensor queue still holds, the new task waits for before it uses that register
(R58). -/
def Obligations.TaskResults : Prop :=
  ∀ (s : State) (rd ra : XReg),
    let spawn := Instr.tspawn rd ra
    let free (k : CtxNo) := k.val < s.here.role.ord ∧ (s.here.ctx k).status = .dormant
      ∧ ∀ e ∈ s.here.late, e.ctx = k → e.op.isRewrite = true
    (Clear .tdone s → s.me.kind ≠ .edgeReversal → vecPending s.here s.cur.2 = false →
      ∃ t, exec .tdone s = .next t ∧ t.me.status = .dormant ∧ (∀ r, t.me.rx r = 0) ∧ t.me.tlevel = 0 ∧ t.me.tvec = 0
        ∧ t.me.pending = [] ∧ t.me.kind = s.me.kind ∧ ∀ k ≠ s.cur.2, t.here.ctx k = s.here.ctx k)
    ∧ (Clear .tyield s → exec .tyield s = .next (moved s 4))
    ∧ (Clear spawn s → MayJump s (s.me.rx ra) → (∀ k, ¬ free k) → exec spawn s = .next (wrote s rd 0xFFFFFFFF 4))
    ∧ (∀ k, Clear spawn s → MayJump s (s.me.rx ra) → free k → (∀ j < k, ¬ free j) →
        ∃ t, exec spawn s = .next t ∧ t.me = { (s.me.wx rd (BitVec.ofNat 32 k.val)) with pc := s.me.pc + 4 }
          ∧ (t.here.ctx k).status = .ready ∧ (t.here.ctx k).pc = s.me.rx ra ∧ (t.here.ctx k).rx 1 = s.me.rx rd
          ∧ (t.here.ctx k).rx 2 = BitVec.ofNat 32 s.cur.2.val ∧ (t.here.ctx k).tlevel = 0
          ∧ ∀ id num v before writes, .mts id s.cur.2 num v ∈ s.here.tensor.queue → id < s.here.nextCmd →
              factorWaits t.here k num before writes = true)

/-! ## System registers -/

/-- R89 to R91, R137, R311, R312: MFS of a register writes its value as it stands at issue, or, for an engine's register,
once the commands that engine's order puts first are performed; a reserved bit of a TG register reads as zero,
and so does every dimension word from NDIM on; a read of LCYC
latches LCYCH; a read of a privileged number traps with PRIV. -/
def Obligations.SystemRegisterReads : Prop :=
  ∀ (s : State) (rd : XReg),
    let x := s.me
    let t := s.here.tensor
    let ndim := (vget x.tg 0).toNat / 2 ^ 55 % 2 ^ 4
    let dim (d : Nat) : BitVec 32 := if ndim ≤ d then 0 else if d = 0 then 0xFFF00000 else 0xFFFFFFFF
    let defined : List DWord := [0x07FFFF8FFFFFFFFF, 0x003FFFFFFFFFFFFF, dim 1 ++ dim 0, dim 3 ++ dim 2, dim 5 ++ dim 4,
      dim 7 ++ dim 6, 0x00000000000CF0FF, 0]
    let tg (n : Nat) : DWord := vget x.tg n &&& defined.getD n 0
    let reads (num : Nat) (v : Word) := Writes (.mfs rd (BitVec.ofNat 12 num)) s rd v 4
    (reads 0x000 (s.siteValue s.cur.1) ∧ reads 0x001 (ctxValue s.here s.cur.2) ∧ reads 0x003 x.lcych)
    ∧ (∀ n < 8, reads (0x010 + n) (vget x.lvl n) ∧ reads (0x018 + n) (vget x.lvlx n))
    ∧ (reads 0x020 (BitVec.ofNat 32 x.tlevel) ∧ reads 0x021 x.tvec ∧ reads 0x022 x.tsave)
    ∧ (reads 0x024 x.epc1 ∧ reads 0x025 x.epc2 ∧ reads 0x026 x.ecause1 ∧ reads 0x027 x.ecause2 ∧ reads 0x028 x.eval1
        ∧ reads 0x029 x.eval2 ∧ reads 0x02A x.bankKey)
    ∧ (s.here.vec = [] → reads 0x100 x.vstat)
    ∧ (t.queue = [] → t.run = [] → s.here.vec = [] →
        reads 0x200 t.qstat ∧ reads 0x201 t.accovf ∧ reads 0x203 t.pairErr)
    ∧ (t.queue = [] → reads 0x202 (sweepWord t))
    ∧ (t.queue = [] → (∀ n < 8, reads (0x210 + 2 * n) ((tg n).extractLsb' 0 32) ∧ reads (0x211 + 2 * n) ((tg n).extractLsb' 32 32) ∧ reads (0x220 + n) (vget t.df n))
        ∧ ∀ n < 64, reads (0x240 + n) (vget t.sc n))
    ∧ (s.here.sync.queue = [] → ∀ n < 8, reads (0x400 + n) (vget s.here.errank n))
    ∧ reads 0x500 (BitVec.ofNat 32 s.here.role.asid)
    ∧ (∀ n < 8, reads (0x510 + 2 * n) ((vget x.sg n).extractLsb' 0 32)
        ∧ reads (0x511 + 2 * n) ((vget x.sg n).extractLsb' 32 32))
    ∧ (∀ num : BitVec 12, 0x600 ≤ num → num ≤ 0x6FF → s.issuing = true → rd.val < s.here.role.xn →
        exec (.mfs rd num) s = .next
          (s.takeTrap s.cur.1 s.cur.2 false { code := 0x08, sub := 0, aux := 0, val := num.zeroExtend 32 } x.pc))
    ∧ (Clear (.mfs rd 0x002) s → rd ≠ 0 → ∃ u, exec (.mfs rd 0x002) s = .next u
        ∧ u.me.rx rd = u.here.cycles.extractLsb' 0 32 ∧ u.me.lcych = u.here.cycles.extractLsb' 32 32
        ∧ u.me.pc = x.pc + 4 ∧ ∀ r ≠ rd, u.me.rx r = x.rx r)

/-- R89, R137, R138: MTS completes for every register that may be written: it writes the defined fields of a trap register
at once; a write of VSTAT or of a tensor register goes into that engine's queue behind every command already there, and
stalls while the queue holds eight; the vector engine performs a write of VSTAT when it comes to it, and it is that write that
clears or sets the six flags of the context (R156, R157). A write of any register whose fields are all read-only, and of any privileged number,
traps with PRIV. -/
def Obligations.SystemRegisterWrites : Prop :=
  ∀ (s : State) (ra : XReg),
    let v := s.me.rx ra
    let c := s.here
    let writes (num : Nat) (f : Ctx → Ctx) := Clear (.mts ra (BitVec.ofNat 12 num)) s →
      exec (.mts ra (BitVec.ofNat 12 num)) s = .next (moved (s.onMe f) 4)
    (writes 0x021 (fun x => { x with tvec := v &&& 0xFFFFFFFD }) ∧ writes 0x022 (fun x => { x with tsave := v &&& 0xFFFFFFF0 }))
    ∧ (writes 0x024 (fun x => { x with epc1 := v }) ∧ writes 0x025 (fun x => { x with epc2 := v }))
    ∧ (writes 0x026 (fun x => { x with ecause1 := v &&& 0x80FFFFFF }) ∧ writes 0x027 (fun x => { x with ecause2 := v &&& 0x80FFFFFF }))
    ∧ (writes 0x028 (fun x => { x with eval1 := v }) ∧ writes 0x029 (fun x => { x with eval2 := v }))
    ∧ (Clear (.mts ra 0x100) s →
        (c.vec.length < 8 → exec (.mts ra 0x100) s
          = .next (moved (s.onHere fun c => { c with vec := c.vec ++ [.mts s.cur.2 s.me.serial v] }) 4))
        ∧ (8 ≤ c.vec.length → exec (.mts ra 0x100) s = .next s))
    ∧ (∀ k serial w rest, c.vec = .mts k serial w :: rest → exec .vectorEnginePerform s
        = .next (s.onHere fun c => { c.onCtx k (fun x => { x with vstat := w &&& 0x3F }) with vec := rest }))
    ∧ (∀ num : BitVec 12, num = 0x200 ∨ num = 0x201 ∨ (0x220 ≤ num ∧ num ≤ 0x227) ∨ (0x240 ≤ num ∧ num ≤ 0x27F) →
        Clear (.mts ra num) s →
        (c.tensor.queue.length < 8 → exec (.mts ra num) s
          = .next (moved (s.onHere fun c => { c with
              tensor := { c.tensor with queue := c.tensor.queue ++ [.mts c.nextCmd s.cur.2 num.toNat v] }
              nextCmd := c.nextCmd + 1 }) 4))
        ∧ (8 ≤ c.tensor.queue.length → exec (.mts ra num) s = .next s))
    ∧ (∀ num : BitVec 12, num ≤ 0x003 ∨ (0x010 ≤ num ∧ num ≤ 0x020) ∨ num = 0x02A ∨ num = 0x202 ∨ num = 0x203
          ∨ (0x210 ≤ num ∧ num ≤ 0x21F) ∨ (0x400 ≤ num ∧ num ≤ 0x407) ∨ num = 0x500 ∨ (0x510 ≤ num ∧ num ≤ 0x51F)
          ∨ (0x600 ≤ num ∧ num ≤ 0x6FF) →
        s.issuing = true → ra.val < c.role.xn → exec (.mts ra num) s = .next
          (s.takeTrap s.cur.1 s.cur.2 false { code := 0x08, sub := 0, aux := 0, val := num.zeroExtend 32 } s.me.pc))

/-! ## Frames -/

namespace Sys2Proof.Claim

/-- The instructions that touch no memory and write at most one scalar register, with that register (x0: none). -/
def scalarTarget : Instr → Option XReg
  | .add rd _ _ => some rd | .sub rd _ _ => some rd | .and rd _ _ => some rd | .or rd _ _ => some rd
  | .xor rd _ _ => some rd | .andn rd _ _ => some rd | .shl rd _ _ => some rd | .shr rd _ _ => some rd
  | .sra rd _ _ => some rd | .rotl rd _ _ => some rd | .slt rd _ _ => some rd | .sltn rd _ _ => some rd
  | .min rd _ _ => some rd | .max rd _ _ => some rd | .minn rd _ _ => some rd | .maxn rd _ _ => some rd
  | .mul rd _ _ => some rd | .mulh rd _ _ => some rd | .mulhn rd _ _ => some rd | .div rd _ _ => some rd
  | .divn rd _ _ => some rd | .rem rd _ _ => some rd | .remn rd _ _ => some rd | .clz rd _ => some rd
  | .ctz rd _ => some rd | .popc rd _ => some rd | .bext rd _ _ => some rd | .bins rd _ _ => some rd
  | .addi rd _ _ => some rd | .andi rd _ _ => some rd | .ori rd _ _ => some rd | .xori rd _ _ => some rd
  | .slti rd _ _ => some rd | .sltni rd _ _ => some rd | .lui rd _ => some rd | .shli rd _ _ => some rd
  | .shri rd _ _ => some rd | .srai rd _ _ => some rd
  | .beq _ _ _ => some 0 | .bne _ _ _ => some 0 | .blt _ _ _ => some 0 | .bge _ _ _ => some 0
  | .bltn _ _ _ => some 0 | .bgen _ _ _ => some 0 | .jal rd _ => some rd | .jalr rd _ _ => some rd
  | .tyield => some 0 | .trap _ => some 0 | .breakpt _ => some 0
  | .mrecv rd _ => some rd | .fsres rd _ _ => some rd | .cprec rd _ _ => some rd | .ctest rd _ _ => some rd
  | .steprd rd => some rd | .erchk rd _ => some rd | .erstat rd _ => some rd | .qstat _ rd => some rd
  | .sstat rd _ _ => some rd
  | _ => none

/-- The bytes a scalar store or atomic writes: its effective address and its width. -/
def storeSpan (s : State) : Instr → Option (Nat × Nat)
  | .sb _ ra _ _ off => some (eaOf s ra off 1, 1)
  | .sh _ ra _ _ off => some (eaOf s ra off 2, 2)
  | .sw _ ra _ _ off => some (eaOf s ra off 4, 4)
  | .sd _ ra _ _ off => some (eaOf s ra off 8, 8)
  | .amoadd _ ra _ _ _ => some ((s.me.rx ra).toNat, 4)
  | .amoand _ ra _ _ _ => some ((s.me.rx ra).toNat, 4)
  | .amoor _ ra _ _ _ => some ((s.me.rx ra).toNat, 4)
  | .amoxor _ ra _ _ _ => some ((s.me.rx ra).toNat, 4)
  | .amomin _ ra _ _ _ => some ((s.me.rx ra).toNat, 4)
  | .amomax _ ra _ _ _ => some ((s.me.rx ra).toNat, 4)
  | .amominn _ ra _ _ _ => some ((s.me.rx ra).toNat, 4)
  | .amomaxn _ ra _ _ _ => some ((s.me.rx ra).toNat, 4)
  | .amoswp _ ra _ _ _ => some ((s.me.rx ra).toNat, 4)
  | .amocas _ ra _ _ _ => some ((s.me.rx ra).toNat, 4)
  | _ => none

/-- The scalar register a store or atomic writes (x0: none). -/
def storeTarget : Instr → XReg
  | .amoadd rd _ _ _ _ => rd | .amoand rd _ _ _ _ => rd | .amoor rd _ _ _ _ => rd | .amoxor rd _ _ _ _ => rd
  | .amomin rd _ _ _ _ => rd | .amomax rd _ _ _ _ => rd | .amominn rd _ _ _ _ => rd | .amomaxn rd _ _ _ _ => rd
  | .amoswp rd _ _ _ _ => rd | .amocas rd _ _ _ _ => rd
  | _ => 0

/-- The station's counts of corrected and uncorrectable errors, and a core's counts, marks and words with a correctable
error, are the only things of the machine outside the issuing core that an error may change (R120, R146, R147, R403). -/
def FieldsKeep (s t : State) : Prop :=
  ∀ f < 64, vget t.station.fields f = { vget s.station.fields f with
    corrected := (vget t.station.fields f).corrected, uncorrected := (vget t.station.fields f).uncorrected }

/-- What a next state leaves alone around one issuing context: the mesh, the links, the switch, the edge ports, the host and
the station's queues, launches and partitions; every other core; and in its own core the other contexts, the engines, their
queues, rings, counters, barriers, crossings, tags, slots and locks, and the scratchpad but for what `stored` says. Of the
context itself, either it lives on at its level with only d and its PC changed; or it entered a trap, where no x, v, TG or SG
register, no flag and no other special register than the level's own changes. Only a kill reaches further: it adds failure
records to its launch, frees the tag slot and ends the FAULTED streams of its context, with their locks, rings, counters and
taps (R144). A replay clears parity errors (R147). -/
def ContextFrame (s t : State) (d : XReg) (stored : Scratch) : Prop :=
  let c := s.here
  let u := t.here
  t = { s with cores := t.cores, station := t.station } ∧ FieldsKeep s t
  ∧ (∀ p ≠ s.cur.1, t.core p = s.core p) ∧ (∀ k ≠ s.cur.2, u.ctx k = c.ctx k)
  ∧ u.scratch = { stored with corrected := u.scratch.corrected, marked := u.scratch.marked }
  ∧ ((u = { c with ctxs := u.ctxs, scratch := u.scratch } ∧ t.station = { s.station with fields := t.station.fields }
      ∧ ((t.me = { s.me with x := t.me.x, pc := t.me.pc, softRegs := t.me.softRegs } ∧ ∀ r ≠ d, t.me.rx r = s.me.rx r)
        ∨ (t.me.tlevel = s.me.tlevel + 1 ∧ t.me = { s.me with
            pc := t.me.pc, tlevel := t.me.tlevel, epc1 := t.me.epc1, epc2 := t.me.epc2, ecause1 := t.me.ecause1
            ecause2 := t.me.ecause2, eval1 := t.me.eval1, eval2 := t.me.eval2, softRegs := t.me.softRegs })))
    ∨ (t.me.status = .dormant
      ∧ u = { c with
          ctxs := u.ctxs, scratch := u.scratch, locks := u.locks, slots := u.slots, sbars := u.sbars, progress := true
          tensor := { c.tensor with rings := u.tensor.rings }, msg := { c.msg with tags := u.msg.tags }
          sync := { c.sync with counters := u.sync.counters, barriers := u.sync.barriers } }
      ∧ (∀ l ∈ u.locks, l ∈ c.locks)
      ∧ (∀ n < 8, (vget c.slots n).state ≠ .faulted → (vget u.slots n).state = (vget c.slots n).state)
      ∧ t.station = { s.station with fields := t.station.fields, launches := t.station.launches }
      ∧ t.station.launches.map (fun l => { l with records := [] }) = s.station.launches.map fun l => { l with records := [] }))

end Sys2Proof.Claim

/-- The frame of the instructions that touch no memory and write at most one scalar register (R75 to R137): whatever they
answer, every byte of every memory reads as before; no other context, no other core, no engine, nothing in the mesh, at the
links or in the stations changes; and of the issuing context only that register and the PC, unless it traps or is killed. -/
def Obligations.ScalarFrame : Prop :=
  ∀ (i : Instr) (s t : State) (d : XReg), scalarTarget i = some d → exec i s = .next t →
    SameMemory s t ∧ ContextFrame s t d s.here.scratch

/-- The frame of the stores and atomics: whatever they answer, every byte outside the bytes at the effective address, and
every byte of every other memory, reads as before; of the scratchpad only its bytes, the error words it repairs or replaces
and the lines a context has read ahead may change; and around it the machine keeps as much as under ScalarFrame. -/
def Obligations.StoreFrame : Prop :=
  ∀ (i : Instr) (s t : State) (ea n : Nat), storeSpan s i = some (ea, n) → exec i s = .next t →
    (∀ p a, ¬ (p = s.cur.1 ∧ ea ≤ a ∧ a < ea + n) → byteAt t p a = byteAt s p a)
    ∧ (∀ a, memGet t.edge a = memGet s.edge a) ∧ (∀ a, memGet t.host a = memGet s.host a)
    ∧ ContextFrame s t (storeTarget i) { s.here.scratch with
        mem := t.here.scratch.mem, bad := t.here.scratch.bad, soft := t.here.scratch.soft, ahead := t.here.scratch.ahead }

/-! ## Decoding and steps -/

/-- Decoding inverts encoding: from the little-endian bytes of a well-formed instruction's words, whatever bytes follow,
the decoder reads that instruction and leaves the bytes that follow (R73 to R87). -/
def Obligations.DecodeInvertsEncode : Prop :=
  ∀ (i : Instr) (rest : List Byte), i.wf = true → i.encoded = true →
    decode ((encode i).flatMap bytesOfWord ++ rest) = some (i, rest)

/-- The decoder answers only well-formed instructions that have an encoding, and what it answers encodes to the very words it
was given, so no bit of them is ignored: a reserved field, an odd pair, an unpermitted order or scope, a selector out of range
and an unassigned register number all decode to nothing (R79, R87, R88). -/
def Obligations.DecodeIsWellFormed : Prop :=
  ∀ (w l1 l2 : Word) (i : Instr), decodeWords w l1 l2 = some i →
    i.wf = true ∧ i.encoded = true ∧ encode i = [w, l1, l2].take (encode i).length

/-- Words the spec prints beside their assembly text decode to what that text says. -/
def Obligations.PrintedWordsDecode : Prop :=
  decodeWords 0x04A63813 0 0 = some (.div 5 6 (.reg 7))
  ∧ decodeWords 0x04A60204 0xFFFFFFFF 0 = some (.xor 5 6 (.lit 0xFFFFFFFF))
  ∧ decodeWords 0x24A60003 0 0 = some (.shli 5 6 3)
  ∧ decodeWords 0x406407FF 0 0 = some (.lb 3 4 .plain .task 0x7FF)
  ∧ decodeWords 0x682A8800 0 0 = some (.sw 1 10 .rl .core 0)
  ∧ decodeWords 0x712A6120 0 0 = some (.amocas 9 10 (.pair 12) .plain .task)
  ∧ decodeWords 0x80229FFF 0 0 = some (.bltn 1 2 0x1FFF)
  ∧ decodeWords 0x88250008 0 0 = some (.jalr 1 5 8)
  ∧ decodeWords 0x90004000 0 0 = some .tret
  ∧ decodeWords 0 0 0 = none

/-- A step runs the decoded instruction: when the next turn is that of a context that issues, and the bytes at its PC
decode to i, whose words may all be fetched, the step is i at that state, with the correctable errors of those words repaired
(R120), and an acquire it makes is heard of (R200); the meaning itself moves the PC. An AMOCAS whose compare fails is to the
accesses about it one without release (R128). Where accesses of the core are still to be performed, lines are read ahead, a sweep
has blocks to rewrite or a message of the context to its own core is under way, the step performs first what must come before i
(R198), and else is i but for what it notes of those accesses and lines (log entry 4). While a VMEM instruction of the context has lines to access, nothing
of the context issues (R156). -/
def Obligations.StepRunsDecoded : Prop :=
  ∀ (s : State) (p : Site) (k : CtxNo) (turns : List Turn) (i : Instr),
    let u := atTurn s p k turns
    let v := u.scrub p u.me.pc.toNat (4 * (encode i).length)
    let j := effective v i
    let g := passOf v j
    (s.agenda = .issue p k :: turns → Fetches u i → ownMessage v.here p k g.spans g.awaits = false →
      (Unhurried u → (∀ w ∈ u.here.tensor.sweeps.toList, w.pend = []) →
        step s = match exec i v with
          | .next t => .next (hearAfter v t j)
          | r => r)
      ∧ (∀ t, (∀ e ∈ u.here.late, (e.inner = true → e.ctx = k) ∧ (e.hold = true → e.ctx ≠ k) ∧ e.before v j = false) →
          exec i v = .next t → v.here.late.any (lockClash v t) = false → lateRoom v t = true → demandOf v t j = none →
          ∃ w, step s = .next (hearAfter v w j) ∧ (w = t ∨ ∃ l a, w = t.onHere fun c => { c with
            late := l, scratch := { c.scratch with ahead := a } })))
    ∧ (s.agenda = .issue p k :: turns → u.issuing = true → (∀ e ∈ u.here.late, e.inner = true → e.ctx = k) →
        (∃ e ∈ u.here.late, e.hold = true ∧ e.ctx = k) →
        (∀ e ∈ u.here.late, e.hold = true → (∃ ps n, e.op = .store ps none n) ∨ (∃ ls q, e.op = .lanes ls q)
            ∨ ∃ v a n f r, e.op = .stamp v a n f r) →
        ∃ t, step s = .next t ∧ t.me.pc = u.me.pc ∧ t.me.x = u.me.x ∧ t.me.status = u.me.status)

/-- R87, R78: a step at a PC whose word is no instruction takes the precise trap ILLEGAL with the word as EVAL; one at a PC in
no code region takes BOUNDS, and in a locked range RANGE, with the PC as EVAL; the words it has fetched are repaired (R120), and
an uncorrectable error in one of them is counted and takes MCHK with the lowest such word as EVAL, once the vector engine
holds no instruction of a task that this kills (R146, log entry 17). The two rows the opcode table has for such words are these
traps, wherever a context may issue. -/
def Obligations.StepTrapsOnBadFetch : Prop :=
  ∀ (s : State) (p : Site) (k : CtxNo) (turns : List Turn) (w : Word) (locked : Bool),
    let u := atTurn s p k turns
    let a := u.me.pc.toNat
    let trap (u : State) (code : Nat) (v : Word) := u.takeTrap p k false { code := code, sub := 0, aux := 0, val := v } u.me.pc
    (s.agenda = .issue p k :: turns → Issues u → Unhurried u →
      (decode (u.here.bytes a 12) = none → fetchBad u = none → (∀ j ≤ litWords (u.here.word a), fetchFault u (a + 4 * j) = none) →
        step s = .next (trap (u.scrub p a (4 + 4 * litWords (u.here.word a))) 0x01 (u.here.word a)))
      ∧ (oneRegion u.here.role k .fetch a 4 = false → step s = .next (trap u 0x03 u.me.pc))
      ∧ (oneRegion u.here.role k .fetch a 4 = true → (∃ l ∈ u.here.locks, l.write = true ∧ l.meets a 4 = true) →
          step s = .next (trap u 0x0A u.me.pc))
      ∧ (∀ b, (∀ j ≤ litWords (u.here.word a), fetchFault u (a + 4 * j) = none) →
          badWord u.here a (4 + 4 * litWords (u.here.word a)) = some b →
          step s = .next (if trapWaits u p k = true then u else trap (u.countError p) 0x14 (BitVec.ofNat 32 b))))
    ∧ (u.issuing = true → exec (.illegalEncoding w) u = .next (trap u 0x01 w)
        ∧ exec (.instructionFetchFault locked w) u = .next (trap u (if locked then 0x0A else 0x03) w))

/-- R143: a context's held asynchronous fault is entered before its next instruction issues: ECAUSE has ASYNC set, EPC is
the PC, and the fault is held no more. -/
def Obligations.AsyncFaultDelivery : Prop :=
  ∀ (s : State) (p : Site) (k : CtxNo) (turns : List Turn) (f : AsyncFault) (rest : List AsyncFault),
    let u := atTurn s p k turns
    let v := (u.onMe fun x => { x with pending := rest }).takeTrap p k true f u.me.pc
    (u.me.pending = f :: rest → u.me.tlevel = 0 → u.me.tvec.getLsbD 0 = true →
      u.here.late = [] → memQueued u.here k = false →
      (s.agenda = .issue p k :: turns → u.issuing = true → step s = .next v)
      ∧ (u.here.live = true → u.here.halted = false → u.me.status ≠ .dormant → exec .asyncFault u = .next v))

/-- R88: the order of an instruction's checks before its own: a register or selector beyond what the launch declares
traps with REGRANGE, then a privileged access with PRIV, then a register with a parity error with MCHK, each precisely, the error
counted once (R146): a trap that kills waits, and counts nothing, while the vector engine holds instructions of the task (log
entry 17). Then a command whose queue is full stalls (R25). A parity error that a replay mends is counted and cleared, and the
instruction runs as without it (R147, R404). -/
def Obligations.CheckOrder : Prop :=
  ∀ (i : Instr) (s : State), i.encoded = true → s.issuing = true →
    let trap (code : Nat) (v : Word) :=
      s.takeTrap s.cur.1 s.cur.2 false { code := code, sub := 0, aux := 0, val := v } s.me.pc
    (∀ n, rangeFault s.here.role i = some n → exec i s = .next (trap 0x02 (BitVec.ofNat 32 n)))
    ∧ (∀ v, rangeFault s.here.role i = none → privFault i = some v → exec i s = .next (trap 0x08 v))
    ∧ (∀ r, rangeFault s.here.role i = none → privFault i = none →
        ((readCodes i).find? fun r => s.me.badRegs.contains r) = some r →
        exec i s = .next (if trapWaits s s.cur.1 s.cur.2 = true then s else (s.countError s.cur.1).takeTrap s.cur.1 s.cur.2 false
          { code := 0x14, sub := 0, aux := 0, val := BitVec.ofNat 32 (2 ^ 31 + r) } s.me.pc))
    ∧ (rangeFault s.here.role i = none → privFault i = none → (∀ r ∈ readCodes i, r ∉ s.me.badRegs) →
        (queueFull s.here i = true → exec i s = .next s)
        ∧ (queueFull s.here i = false → ∃ u, exec i s = exec i u ∧ Clear i u
          ∧ u.me = { s.me with softRegs := s.me.softRegs.filter fun r => !(readCodes i).contains r }
          ∧ u.here.scratch = { s.here.scratch with
              corrected := s.here.scratch.corrected + (s.me.softRegs.filter fun r => (readCodes i).contains r).length
              marked := u.here.scratch.marked }))

/-- The machine never stops: from every state, every run is safe, so no step faults and none meets an instruction without
a meaning. -/
def Obligations.EveryRunIsSafe : Prop := ∀ (n : Nat) (s : State), SafeRun n s

/-- The module after power-on reset (R410) as the rules leave it: STATE is boot, no field in service, no launch placed, no
packet under way, every link up with SEQ 0, and every memory, each core's scratchpad, edge memory, host memory, the upload
window and the firmware image, with nothing listed. That SC0 to SC63 of every core hold 1.0 from reset, before any launch
starts, is the model's choice (log entry 10). -/
def Obligations.ResetState : Prop :=
  State.reset.station.state = .boot ∧ (∀ f < 64, (vget State.reset.station.fields f).state = .absent)
  ∧ State.reset.station.launches = [] ∧ State.reset.mesh = [] ∧ (∀ p, (State.reset.core p).live = false)
  ∧ (∀ n < 32, (vget State.reset.links n).state = .up ∧ (vget State.reset.links n).sendSeq = 0)
  ∧ (∀ p, (State.reset.core p).scratch.mem = []) ∧ State.reset.edge = [] ∧ State.reset.host = []
  ∧ State.reset.station.window = [] ∧ State.reset.station.firmware = []
  ∧ (∀ p, ∀ n < 64, vget (State.reset.core p).tensor.sc n = 0x3F800000) ∧ ∀ q, State.reset.queue q = Queue.blank

namespace Sys2Proof.Claim

/-- Every memory is in canonical form, edge memory, host memory and the scratchpad of every core, live or saved: addresses
strictly rising and no zero byte listed, so that equal memories are equal data (log entry 6). -/
def MemoryCanonical (s : State) : Prop :=
  s.edge.wf = true ∧ s.host.wf = true ∧ (∀ p, (s.core p).scratch.mem.wf = true)
    ∧ ∀ l ∈ s.station.launches, ∀ g ∈ l.saved, g.2.scratch.mem.wf = true

end Sys2Proof.Claim

/-- Reset has the invariant. -/
def Obligations.ResetIsCanonical : Prop := MemoryCanonical State.reset

/-- Every step of the machine, an instruction or an event, keeps every memory in canonical form. -/
def Obligations.StepKeepsCanonical : Prop :=
  ∀ s t : State, MemoryCanonical s → step s = .next t → MemoryCanonical t

/-! ## The vector engine -/

namespace Sys2Proof.Claim

/-- The instructions of format V, majors 0x28, 0x2A and 0x2B, which the vector engine performs from its queue (R155). -/
def formatV : Instr → Bool
  | .vaddF _ _ _ => true | .vsubF _ _ _ => true | .vmulF _ _ _ => true | .vfmaF _ _ _ _ => true | .vfmsF _ _ _ _ => true
  | .vminF _ _ _ => true | .vmaxF _ _ _ => true | .vabsF _ _ => true | .vcltF _ _ _ => true | .vceqF _ _ _ => true
  | .vcleF _ _ _ => true | .vaddI _ _ _ => true | .vsubI _ _ _ => true | .vmulI _ _ _ => true | .vminI _ _ _ => true
  | .vmaxI _ _ _ => true | .vand _ _ _ => true | .vor _ _ _ => true | .vxor _ _ _ => true | .vshl _ _ _ => true
  | .vshr _ _ _ => true | .vsra _ _ _ => true | .vcltI _ _ _ => true | .vceqI _ _ _ => true | .vsel _ _ _ _ => true
  | .vmask _ _ _ => true | .vshuf _ _ _ => true | .vbcast _ _ _ => true | .vext _ _ _ _ => true | .vraddF _ _ => true
  | .vrmaxF _ _ => true | .vraddI _ _ => true | .vcvtfi _ _ => true | .vcvtif _ _ => true | .vpkbf _ _ _ _ => true
  | .vupbf _ _ _ => true | .vdec8 _ _ _ _ => true | .vdec6 _ _ _ _ => true | .venc8 _ _ _ _ => true
  | .venc6 _ _ _ _ => true | .vexp2 _ _ => true | .vlog2 _ _ => true | .vrcp _ _ => true | .vrsq _ _ => true
  | .vtanh _ _ => true | .vsmx _ _ => true | .vsmxap _ _ _ => true
  | _ => false

/-- When the vector engine performs i for some context, register vd becomes the token whose lane m is valid where `ok`
says so, holds the word of `g` there and zero elsewhere; VSTAT gains the flags `g` gives for the valid lanes and no other;
the queue loses its head, and the context's other registers and its PC are as before. -/
def Performs (i : Instr) (s : State) (vd : VReg) (ok : Ctx → Nat → Bool) (g : Ctx → Nat → Word × Nat) : Prop :=
  ∀ (k : CtxNo) (serial before : Nat) (rest : List VecItem), s.here.vec = .op k serial i before :: rest →
    ∃ t, exec .vectorEnginePerform s = .next t ∧ t.here.vec = rest
      ∧ (∀ m < 16, ((t.here.ctx k).v.get vd).ok m = ok (s.here.ctx k) m
          ∧ ((t.here.ctx k).v.get vd).lane m = if ok (s.here.ctx k) m then (g (s.here.ctx k) m).1 else 0)
      ∧ (∀ r ≠ vd, (t.here.ctx k).v.get r = (s.here.ctx k).v.get r)
      ∧ (∀ j < 32, (t.here.ctx k).vstat.getLsbD j = ((s.here.ctx k).vstat.getLsbD j
          || (List.range 16).any fun m => ok (s.here.ctx k) m && (g (s.here.ctx k) m).2.testBit j))
      ∧ (t.here.ctx k).x = (s.here.ctx k).x ∧ (t.here.ctx k).pc = (s.here.ctx k).pc
      ∧ (∀ j ≠ k, t.here.ctx j = s.here.ctx j) ∧ t.here.scratch = s.here.scratch

/-- Lane by lane over va, operand vb and vc: a lane is valid where every source is (R154). -/
def twoOk (va : VReg) (b : VSrc) (x : Ctx) (m : Nat) : Bool := (x.v.get va).ok m && (x.vsrc b).ok m

/-- All ones for true and zero for false. -/
def allOnes (p : Prop) [Decidable p] : Word := if p then 0xFFFFFFFF else 0

/-- One level of the reduction tree of R163: place i takes place i + w, an absent value giving way. -/
def treeLevel (g : Word → Word → Word) (l : Nat → Option Word) (w i : Nat) : Option Word :=
  match l i, l (i + w) with
  | none, b => b
  | some a, none => some a
  | some a, some b => some (g a b)

/-- The tree of R163 over the valid lanes of a token. -/
def treeOf (g : Word → Word → Word) (t : Token) : Option Word :=
  let leaf (i : Nat) : Option Word := if t.ok i then some (t.lane i) else none
  treeLevel g (treeLevel g (treeLevel g (treeLevel g leaf 8) 4) 2) 1 0

end Sys2Proof.Claim

/-- R155: an instruction of format V goes into the vector queue, with its context and the engine commands it follows, and
its context goes on at once; while the queue holds eight entries it waits, and nothing changes. -/
def Obligations.VectorQueued : Prop :=
  ∀ (i : Instr) (s : State), formatV i = true → Clear i s →
    (s.here.vec.length < 8 → exec i s
      = .next (moved (s.onHere fun c => { c with vec := c.vec ++ [.op s.cur.2 s.me.serial i c.nextCmd] })
          (4 * (encode i).length)))
    ∧ (8 ≤ s.here.vec.length → exec i s = .next s)

/-- R160: the integer and bitwise lane operations: each valid lane gets the result of the table, and no flag is set. -/
def Obligations.IntegerLanes : Prop :=
  ∀ (s : State) (vd va : VReg) (b : VSrc),
    let does (i : Instr) (f : Word → Word → Word) := Performs i s vd (twoOk va b) fun x m =>
      (f ((x.v.get va).lane m) ((x.vsrc b).lane m), 0)
    does (.vaddI vd va b) (fun a b => BitVec.ofInt 32 (a.toInt + b.toInt))
    ∧ does (.vsubI vd va b) (fun a b => BitVec.ofInt 32 (a.toInt - b.toInt))
    ∧ does (.vmulI vd va b) (fun a b => BitVec.ofInt 32 (a.toInt * b.toInt))
    ∧ does (.vminI vd va b) (fun a b => if b.toInt < a.toInt then b else a)
    ∧ does (.vmaxI vd va b) (fun a b => if a.toInt < b.toInt then b else a)
    ∧ does (.vand vd va b) (fun a b => a &&& b)
    ∧ does (.vor vd va b) (fun a b => a ||| b)
    ∧ does (.vxor vd va b) (fun a b => a ^^^ b)
    ∧ does (.vshl vd va b) (fun a b => BitVec.ofNat 32 (a.toNat * 2 ^ (b.toNat % 32)))
    ∧ does (.vshr vd va b) (fun a b => BitVec.ofNat 32 (a.toNat / 2 ^ (b.toNat % 32)))
    ∧ does (.vsra vd va b) (fun a b => BitVec.ofInt 32 (a.toInt / 2 ^ (b.toNat % 32)))
    ∧ does (.vcltI vd va b) (fun a b => allOnes (a.toInt < b.toInt))
    ∧ does (.vceqI vd va b) (fun a b => allOnes (a = b))

namespace Sys2Proof.Claim

/-- The magnitude of the F32 pattern b, in units of 2^-149; an infinity stands for 2^128 (R43). -/
def unitsOf (b : Nat) : Nat := if b < 2 ^ 23 then b else (b % 2 ^ 23 + 2 ^ 23) * 2 ^ (b / 2 ^ 23 - 1)
def magOf (w : Word) : Nat := w.toNat % 2 ^ 31
def negative (w : Word) : Bool := w.getLsbD 31
/-- The signed value of a pattern that is no NaN, in units of 2^-149. -/
def valueOf (w : Word) : Int := if negative w then -(unitsOf (magOf w) : Int) else unitsOf (magOf w)
abbrev NotNumber (w : Word) : Prop := 0x7F800000 < magOf w
abbrev InfWord (w : Word) : Prop := magOf w = 0x7F800000
abbrev FinWord (w : Word) : Prop := magOf w < 0x7F800000

/-- r is rne_f32 of num / den units of 2^-149 with a sign, and its flags (R44, R157): no pattern is nearer, of two equally near the
even one is taken, the pattern after the largest number stands for the overflow to infinity; OF, UF and NX tell what the rounding
did. -/
def RoundsTo (neg : Bool) (num den : Nat) (r : Word × Nat) : Prop :=
  let off (b : Nat) : Nat := ((num : Int) - (unitsOf b * den : Nat)).natAbs
  let m := magOf r.1
  negative r.1 = neg ∧ m ≤ 0x7F800000
  ∧ (∀ b ≤ 0x7F800000, off m ≤ off b ∧ (off b = off m → b ≠ m → m % 2 = 0))
  ∧ r.2 = if m = 0x7F800000 then 20 else if off m = 0 then 0 else if m < 0x00800000 then 24 else 16

/-- rne_f32 of num / den units with the sign of num; an exact zero gives +0.0. -/
def RoundsInt (num : Int) (den : Nat) (r : Word × Nat) : Prop :=
  (num = 0 → r = (0, 0)) ∧ (num ≠ 0 → RoundsTo (decide (num < 0)) num.natAbs den r)

/-- The sum, the product and the fused sum of R44 and R159, and the compares, the minimum and the maximum. That a product or a
fused sum of exactly zero is +0.0 is log entry 13. -/
def FloatFunctions (a b c : Word) : Prop :=
  let nan : Word × Nat := (0x7FC00000, 0)
  let invalid : Word × Nat := (0x7FC00000, 1)
  let inf (neg : Bool) : Word := if neg then 0xFF800000 else 0x7F800000
  let zero (w : Word) : Prop := magOf w = 0
  let odd := negative a != negative b
  let rank (w : Word) : Int := if negative w then -(magOf w : Int) - 1 else magOf w
  let bad := NotNumber a ∨ NotNumber b
  let zeroInf := (InfWord a ∧ zero b) ∨ (zero a ∧ InfWord b)
  let big := ¬ bad ∧ ¬ zeroInf ∧ (InfWord a ∨ InfWord b)
  (bad → fadd a b = nan)
  ∧ (InfWord a → InfWord b → fadd a b = if a = b then (a, 0) else invalid)
  ∧ (InfWord a → FinWord b → fadd a b = (a, 0) ∧ fadd b a = (a, 0))
  ∧ (FinWord a → FinWord b → if a = 0x80000000 ∧ b = 0x80000000 then fadd a b = (0x80000000, 0)
      else RoundsInt (valueOf a + valueOf b) 1 (fadd a b))
  ∧ fsub a b = fadd a (b ^^^ 0x80000000)
  ∧ (bad → fmul a b = nan) ∧ (zeroInf → fmul a b = invalid) ∧ (big → fmul a b = (inf odd, 0))
  ∧ (FinWord a → FinWord b → RoundsInt (valueOf a * valueOf b) (2 ^ 149) (fmul a b))
  ∧ (bad → ffma a b c = nan) ∧ (zeroInf → ffma a b c = invalid)
  ∧ (¬ bad → ¬ zeroInf → NotNumber c → ffma a b c = nan)
  ∧ (big → InfWord c → ffma a b c = if negative c = odd then (c, 0) else invalid)
  ∧ (big → FinWord c → ffma a b c = (inf odd, 0))
  ∧ (FinWord a → FinWord b → InfWord c → ffma a b c = (c, 0))
  ∧ (FinWord a → FinWord b → FinWord c → RoundsInt (valueOf a * valueOf b + valueOf c * 2 ^ 149) (2 ^ 149) (ffma a b c))
  ∧ (bad → flt a b = false ∧ feq a b = false ∧ fle a b = false)
  ∧ (¬ bad → (flt a b = true ↔ valueOf a < valueOf b) ∧ (feq a b = true ↔ valueOf a = valueOf b)
      ∧ (fle a b = true ↔ valueOf a ≤ valueOf b))
  ∧ (NotNumber a → NotNumber b → ∀ m, fminmax m a b = 0x7FC00000)
  ∧ (NotNumber a → ¬ NotNumber b → ∀ m, fminmax m a b = b ∧ fminmax m b a = b)
  ∧ (¬ bad → fminmax false a b = (if rank b < rank a then b else a) ∧ fminmax true a b = if rank a < rank b then b else a)

end Sys2Proof.Claim

/-- R159, R154, R44: the F32 lane operations, with their flags; the compares, the minimum and the maximum and VABS.F set none.
Each result is the exact one rounded once. -/
def Obligations.FloatLanes : Prop :=
  ∀ (s : State) (vd va : VReg) (b : VSrc) (vc : VReg) (x y z : Word),
    let does (i : Instr) (f : Word → Word → Word × Nat) := Performs i s vd (twoOk va b) fun x m =>
      f ((x.v.get va).lane m) ((x.vsrc b).lane m)
    let fused (i : Instr) (f : Word → Word → Word → Word × Nat) := Performs i s vd
      (fun x m => twoOk va b x m && (x.v.get vc).ok m) fun x m =>
      f ((x.v.get va).lane m) ((x.vsrc b).lane m) ((x.v.get vc).lane m)
    FloatFunctions x y z
    ∧ does (.vaddF vd va b) fadd
    ∧ does (.vsubF vd va b) fsub
    ∧ does (.vmulF vd va b) fmul
    ∧ fused (.vfmaF vd va b vc) ffma
    ∧ fused (.vfmsF vd va b vc) (fun a b c => ffma a b (c ^^^ 0x80000000))
    ∧ does (.vminF vd va b) (fun a b => (fminmax false a b, 0))
    ∧ does (.vmaxF vd va b) (fun a b => (fminmax true a b, 0))
    ∧ Performs (.vabsF vd va) s vd (fun x m => (x.v.get va).ok m) (fun x m =>
        (if isNan ((x.v.get va).lane m) then 0x7FC00000 else (x.v.get va).lane m &&& 0x7FFFFFFF, 0))
    ∧ does (.vcltF vd va b) (fun a b => (allOnes (flt a b = true), 0))
    ∧ does (.vceqF vd va b) (fun a b => (allOnes (feq a b = true), 0))
    ∧ does (.vcleF vd va b) (fun a b => (allOnes (fle a b = true), 0))

/-- R161 to R163: choosing, masking and moving lanes, and the reduction trees, whose result every lane gets when some lane
of va is valid; an all-invalid va gives an all-invalid zero token. -/
def Obligations.LaneMovesAndReductions : Prop :=
  ∀ (s : State) (vd va : VReg) (b : VSrc) (vc : VReg) (n : Fin 16),
    let a (x : Ctx) := x.v.get va
    let reduces (i : Instr) (g : Word → Word → Word) := ∀ (k : CtxNo) (serial before : Nat) (rest : List VecItem),
      s.here.vec = .op k serial i before :: rest → ∃ t, exec .vectorEnginePerform s = .next t ∧ t.here.vec = rest
        ∧ ∀ m < 16, ((t.here.ctx k).v.get vd).ok m = (treeOf g (a (s.here.ctx k))).isSome
          ∧ ((t.here.ctx k).v.get vd).lane m = (treeOf g (a (s.here.ctx k))).getD 0
    Performs (.vsel vd va b vc) s vd (fun x m => twoOk va b x m && (x.v.get vc).ok m)
      (fun x m => (if (x.v.get vc).lane m ≠ 0 then (a x).lane m else (x.vsrc b).lane m, 0))
    ∧ Performs (.vmask vd va b) s vd (fun x m => decide ((x.vsrc b).lane m ≠ 0)) (fun x m => ((a x).lane m, 0))
    ∧ Performs (.vshuf vd va b) s vd (fun x m => (a x).ok (((x.vsrc b).lane m).toNat % 16) && (x.vsrc b).ok m)
        (fun x m => ((a x).lane (((x.vsrc b).lane m).toNat % 16), 0))
    ∧ Performs (.vbcast vd va n) s vd (fun x _ => (a x).ok n.val) (fun x _ => ((a x).lane n.val, 0))
    ∧ Performs (.vext vd va b n) s vd
        (fun x m => if m + n.val < 16 then (a x).ok (m + n.val) else (x.vsrc b).ok (m + n.val - 16))
        (fun x m => (if m + n.val < 16 then (a x).lane (m + n.val) else (x.vsrc b).lane (m + n.val - 16), 0))
    ∧ reduces (.vraddI vd va) (fun p q => BitVec.ofInt 32 (p.toInt + q.toInt))
    ∧ reduces (.vraddF vd va) (fun p q => (fadd p q).1)
    ∧ reduces (.vrmaxF vd va) (fun p q => fminmax true p q)

namespace Sys2Proof.Claim

/-- Nearest code (R35) of num / den, in units of 2^-12, among the bodies of w bits: the largest code where it exceeds every
magnitude, and else one no body is nearer than, with an even code if another body is as near. -/
def RoundsToCode (num den w : Nat) : Prop :=
  let r := nearestCode num den w
  let mag (b : Nat) : Nat := if b = 0 then 0 else codeMag b w
  let off (b : Nat) : Int := (num : Int) - ((mag b * den : Nat) : Int)
  (r.2 = true ↔ mag (2 ^ w - 1) * den < num) ∧ (r.2 = true → r.1 = 2 ^ w - 1)
  ∧ (r.2 = false → r.1 < 2 ^ w ∧ ∀ b < 2 ^ w, (off r.1).natAbs ≤ (off b).natAbs
      ∧ ((off b).natAbs = (off r.1).natAbs → b ≠ r.1 → r.1 % 2 = 0))

/-- A quantised block (R36, R37): 16 codes, the header and the counts, as the rule's pseudocode gives them of 16 values, a
scale, a mode and a format. -/
def Quantises (x : List Word) (sc : Word) (held eight : Bool) : Prop :=
  let w := bodyW eight
  let codes := (qblock x sc held eight).1
  let hdr := (qblock x sc held eight).2.1
  let q := (qblock x sc held eight).2.2
  let p (n : Nat) : Option Dy := let v := x.getD n 0; fexact (if held then v else (fmul v sc).1)
  let e : Nat := hdr / 2 ^ 8
  let sigma (j : Nat) : Nat := hdr / 4 ^ j % 4
  let below (v : Dy) (k : Int) : Prop := dyLt (dyAbs v) ⟨1, k⟩ = true
  let zero := ∀ n < 16, ∀ v, p n = some v → v.m = 0
  let steps (n : Nat) (v : Dy) : Int := v.e + 127 - (e : Int) + (sigma (n / 4) : Int) + 12
  let code (n : Nat) (v : Dy) := nearestCode (v.m.natAbs * pow2 (steps n v)) (pow2 (-steps n v)) w
  let number (f : Nat → Dy → Bool) : Nat := ((List.range 16).filter fun n => (p n).any (f n)).length
  codes.length = 16 ∧ e ≤ 254
  ∧ (∀ n < 16, p n = none → codes.getD n 0 = 2 ^ w)
  ∧ (∀ n < 16, ∀ v, p n = some v → codes.getD n 0
      = if (code n v).1 = 0 then 0 else if v.m < 0 then (code n v).1 + 2 ^ w else (code n v).1)
  ∧ (held = true → e = min (sc.toNat / 2 ^ 23 % 2 ^ 8) 254)
  ∧ (held = false → zero → e = 127)
  ∧ (held = false → ¬ zero → (e < 254 → ∀ n < 16, ∀ v, p n = some v → below v ((e : Int) - 126))
      ∧ (0 < e → ∃ n < 16, ∃ v, p n = some v ∧ ¬ below v ((e : Int) - 127)))
  ∧ (∀ j < 4, (zero ∨ ∃ n < 4, p (4 * j + n) = none) → sigma j = 0)
  ∧ (∀ j < 4, ¬ zero → (∀ n < 4, p (4 * j + n) ≠ none) →
      (0 < sigma j → ∀ n < 4, ∀ v, p (4 * j + n) = some v → below v ((e : Int) - 127 - (sigma j : Int)))
      ∧ (∀ k, sigma j < k → k ≤ 3 → ∃ n < 4, ∃ v, p (4 * j + n) = some v ∧ ¬ below v ((e : Int) - 127 - (k : Int))))
  ∧ q.nonfin = ((List.range 16).filter fun n => (p n).isNone).length
  ∧ q.sat = number (fun n v => (code n v).2)
  ∧ q.flush = number fun n v => (code n v).1 == 0 && v.m != 0

end Sys2Proof.Claim

namespace Sys2Proof.Claim

/-- The conversions of R44 and R172 and the special functions of R176, of one lane. The reciprocal and the reciprocal square
root are the exact values rounded once. Of 2^a, log2 a and tanh a the special cases and the values that are powers of two stand
here; how near the model computes their irrational values is log entry 7. -/
def LaneFunctions (a : Word) (d : Dy) (n : Int) : Prop :=
  let nan : Word × Nat := (0x7FC00000, 0)
  let v := valueOf a
  let u := unitsOf (magOf a)
  let s := negative a
  let zero := magOf a = 0
  RoundsInt (d.m * pow2 (d.e + 149)) (pow2 (-(d.e + 149))) (roundDy d)
  ∧ (NotNumber a → f32ToI32 a = (0, 33) ∧ f32ToBf16 a = (0x7FC0, 0) ∧ fexp2 a = nan ∧ flog2 a = nan ∧ frcp a = nan ∧ frsq a = nan
      ∧ ftanh a = nan)
  ∧ (¬ NotNumber a → (let off := (v - n * 2 ^ 149).natAbs
      2 * off ≤ 2 ^ 149 → (2 * off = 2 ^ 149 → n % 2 = 0) → f32ToI32 a = if n < -2 ^ 31 then (0x80000000, 32)
        else if 2 ^ 31 ≤ n then (0x7FFFFFFF, 32) else (BitVec.ofInt 32 n, if off = 0 then 0 else 16)))
  ∧ (¬ NotNumber a → ∀ r, (let off := ((magOf a : Int) - (r * 2 ^ 16 : Nat)).natAbs
      2 * off ≤ 2 ^ 16 → (2 * off = 2 ^ 16 → r % 2 = 0) → f32ToBf16 a = (BitVec.ofNat 16 ((if s then 2 ^ 15 else 0) + r),
        if off = 0 then 0 else if r = 0x7F80 then 20 else if r < 0x80 then 24 else 16)))
  ∧ (zero → frcp a = (a ||| 0x7F800000, 2)) ∧ (InfWord a → frcp a = (a &&& 0x80000000, 0))
  ∧ (FinWord a → ¬ zero → RoundsTo s (2 ^ 298) u (frcp a))
  ∧ (zero → frsq a = (a ||| 0x7F800000, 2)) ∧ (a = 0x7F800000 → frsq a = (0, 0))
  ∧ (¬ NotNumber a → v < 0 → frsq a = (0x7FC00000, 1))
  ∧ (FinWord a → 0 < v → (let r := magOf (frsq a).1
      negative (frsq a).1 = false ∧ (unitsOf (r - 1) + unitsOf r) ^ 2 * u < 2 ^ 449
      ∧ 2 ^ 449 < (unitsOf r + unitsOf (r + 1)) ^ 2 * u ∧ (frsq a).2 = if unitsOf r ^ 2 * u = 2 ^ 447 then 0 else 16))
  ∧ (a = 0x7F800000 → fexp2 a = (a, 0)) ∧ (a = 0xFF800000 → fexp2 a = (0, 0))
  ∧ (FinWord a → 2 ^ 156 ≤ v → fexp2 a = (0x7F800000, 20))
  ∧ (FinWord a → v = n * 2 ^ 149 → RoundsTo false (pow2 (n + 149)) (pow2 (-(n + 149))) (fexp2 a))
  ∧ (zero → flog2 a = (0xFF800000, 2)) ∧ (a = 0x7F800000 → flog2 a = (a, 0))
  ∧ (¬ NotNumber a → v < 0 → flog2 a = (0x7FC00000, 1))
  ∧ (∀ k : Nat, k < 277 → u = 2 ^ k → s = false → RoundsInt (((k : Int) - 149) * 2 ^ 149) 1 (flog2 a))
  ∧ (zero → ftanh a = (a, 0)) ∧ (InfWord a → ftanh a = ((a &&& 0x80000000) ||| 0x3F800000, 0))
  ∧ (¬ NotNumber a → ftanh (a ^^^ 0x80000000) = ((ftanh a).1 ^^^ 0x80000000, (ftanh a).2))

/-- The churn rounding of lane i of a token to BF16 (R45, R173): the bits discarded of the lane and the dither of the next lane's
discarded part, as an odd number or zero, decide. -/
def ChurnResult (t : Token) (i : Nat) (step : BitVec 16) (d : Nat) : Prop :=
  let a := t.lane i
  let b := t.lane ((i + 1) % 16)
  let lost (w : Word) : Nat := magOf w % 2 ^ 16
  let z : BitVec 32 := BitVec.ofNat 32 (d % 2 ^ 20) ^^^ (step.zeroExtend 32 <<< 16) ^^^ BitVec.ofNat 32 (i * 0x2B45)
  let dither := (((z ^^^ (z >>> 15)) * 0x6C8E9CF5) >>> 20).toNat
  let r := magOf a / 2 ^ 16 + if 4096 ≤ lost a / 2 ^ 4 + dither then 1 else 0
  i < 16 → (if FinWord b ∧ lost b ≠ 0 then d % 2 = 1 ∧ ∃ k, d * 2 ^ k = lost b else d = 0) →
    (FinWord a → bfChurn t i step.toNat = (BitVec.ofNat 16 ((if negative a then 2 ^ 15 else 0) + r),
      if 0x7F80 ≤ r then 20 else if lost a = 0 then 0 else if r < 0x80 then 24 else 16))
    ∧ (¬ FinWord a → bfChurn t i step.toNat = f32ToBf16 a)

end Sys2Proof.Claim

/-- R155, R171 to R178: the conversions and special functions: the vector engine performs the head of its queue with the
scales and STEP as they stand, once the context's earlier writes of a scale VENC8 or VENC6 names are performed (R175), and those
of its spawners from before it was spawned (R58). The
single-operand members work lane by lane; VPKBF packs two tokens; VDEC8 and VDEC6 decode one element of 16 blocks; VENC8 and
VENC6 quantise a token as R36 says and add to QSTAT; VSMX keeps a maximum and a sum in each lane and VSMXAP applies them. That
VSMX sets the flags of all three roundings of a lane is the model's choice (log entry 14). -/
def Obligations.VectorConversions : Prop :=
  ∀ (s : State) (vd va vb : VReg) (f eight : Bool) (e : Fin 16) (n : Fin 64) (num den : Nat) (xs : List Word) (sc a m z : Word)
      (dy : Dy) (int : Int) (tok : Token) (step : BitVec 16) (odd : Nat),
    let lane (i : Instr) (g : Word → Word × Nat) := Performs i s vd (fun x m => (x.v.get va).ok m) fun x m =>
      g ((x.v.get va).lane m)
    LaneFunctions a dy int ∧ ChurnResult tok e.val step odd
    ∧ lane (.vcvtfi vd va) f32ToI32
    ∧ lane (.vcvtif vd va) (fun a => roundDy ⟨a.toInt, 0⟩)
    ∧ lane (.vupbf vd va f) (fun a => ((if f then a else a <<< 16) &&& 0xFFFF0000, 0))
    ∧ lane (.vexp2 vd va) fexp2 ∧ lane (.vlog2 vd va) flog2 ∧ lane (.vrcp vd va) frcp ∧ lane (.vrsq vd va) frsq
    ∧ lane (.vtanh vd va) ftanh
    ∧ Performs (.vpkbf vd va vb f) s vd (fun x i => (x.v.get va).ok i && (x.v.get vb).ok i) (fun x i =>
        let bf (t : Token) : BitVec 16 × Nat := if f then bfChurn t i s.here.step16 else f32ToBf16 (t.lane i)
        let lo := bf (x.v.get va)
        let hi := bf (x.v.get vb)
        (BitVec.ofNat 32 (hi.1.toNat * 2 ^ 16 + lo.1.toNat), hi.2 ||| lo.2))
    ∧ (let block (x : Ctx) (n : Nat) : Token := vget x.v (va.val + n)
       let header (x : Ctx) (i : Nat) : Nat := ((x.v.get vb).lane (i / 2)).toNat / 2 ^ (16 * (i % 2)) % 2 ^ 16
       let value (c h : Nat) (eight : Bool) : Word × Nat := match elemValue c h e.val eight with
         | none => (0x7FC00000, 0)
         | some v => roundDy v
       let field (x : Ctx) (i : Nat) : Nat :=
         ((block x 0).lane i).toNat + 2 ^ 32 * ((block x 1).lane i).toNat + 2 ^ 64 * ((block x 2).lane i).toNat
       Performs (.vdec8 vd va vb e) s vd (fun x i => (block x (e.val / 4)).ok i && (x.v.get vb).ok (i / 2)) (fun x i =>
           value (((block x (e.val / 4)).lane i).toNat / 2 ^ (8 * (e.val % 4)) % 2 ^ 8) (header x i) true)
       ∧ Performs (.vdec6 vd va vb e) s vd
           (fun x i => (block x (6 * e.val / 32)).ok i && (block x ((6 * e.val + 5) / 32)).ok i && (x.v.get vb).ok (i / 2))
           (fun x i => value (field x i / 2 ^ (6 * e.val) % 2 ^ 6) (header x i) false))
    ∧ (∀ (k : CtxNo) (serial before : Nat) (rest : List VecItem),
        let i := if eight then Instr.venc8 vd va f n else Instr.venc6 vd va f n
        let c := s.here
        let t := (c.ctx k).v.get va
        let q := qblock ((List.range 16).map fun j => if t.ok j then t.lane j else 0) (vget c.tensor.sc n.val) f eight
        let words := if eight then 4 else 3
        let bits := if eight then 8 else 6
        let counted (top shift width count : Nat) : Nat := min top (c.tensor.qstat.toNat / 2 ^ shift % 2 ^ width + count)
        c.vec = .op k serial i before :: rest → vectorWaits c k before i = false →
        ∃ u, exec .vectorEnginePerform s = .next u ∧ u.here.vec = rest
          ∧ (let r := (u.here.ctx k).v.get vd
             (∀ j < 16, natOfBytes (r.bytes.take (4 * words)) / 2 ^ (bits * j) % 2 ^ bits = q.1.getD j 0)
             ∧ (r.lane words).toNat = q.2.1 ∧ (∀ j < 16, r.ok j = decide (j ≤ words) ∧ (words < j → r.lane j = 0)))
          ∧ u.here.tensor.qstat.toNat = counted 2047 21 11 q.2.2.sat * 2 ^ 21 + counted 2047 10 11 q.2.2.flush * 2 ^ 10
              + counted 1023 0 10 q.2.2.nonfin
          ∧ (∀ r ≠ vd, (u.here.ctx k).v.get r = (c.ctx k).v.get r) ∧ (∀ j ≠ k, u.here.ctx j = c.ctx j)
          ∧ (u.here.ctx k).vstat = (c.ctx k).vstat ∧ u.here.scratch = c.scratch)
    ∧ (xs.length = 16 → Quantises xs sc f eight)
    ∧ (0 < den → RoundsToCode num den (if eight then 7 else 5))
    ∧ (∀ (k : CtxNo) (serial before : Nat) (rest : List VecItem), vd.val % 2 = 0 →
        s.here.vec = .op k serial (.vsmx vd va) before :: rest → ∃ u, exec .vectorEnginePerform s = .next u ∧ u.here.vec = rest
          ∧ (let x := s.here.ctx k
             let y := u.here.ctx k
             let t := x.v.get va
             let max_ (c : Ctx) : Token := vget c.v vd.val
             let sum (c : Ctx) : Token := vget c.v (vd.val + 1)
             (∀ i < 16, (t.ok i = true → (max_ y).ok i = true ∧ (sum y).ok i = true
                 ∧ ((max_ y).lane i, (sum y).lane i)
                   = ((smx ((max_ x).lane i) ((sum x).lane i) (t.lane i)).1, (smx ((max_ x).lane i) ((sum x).lane i) (t.lane i)).2.1))
               ∧ (t.ok i = false → (max_ y).ok i = (max_ x).ok i ∧ (max_ y).lane i = (max_ x).lane i
                 ∧ (sum y).ok i = (sum x).ok i ∧ (sum y).lane i = (sum x).lane i))
             ∧ (∀ j < 32, y.vstat.getLsbD j = (x.vstat.getLsbD j || (List.range 16).any fun i =>
                 t.ok i && (smx ((max_ x).lane i) ((sum x).lane i) (t.lane i)).2.2.testBit j))
             ∧ ∀ r, r.val ≠ vd.val → r.val ≠ vd.val + 1 → y.v.get r = x.v.get r)
          ∧ (∀ j ≠ k, u.here.ctx j = s.here.ctx j) ∧ u.here.scratch = s.here.scratch)
    ∧ (let top := fminmax true m a
       let p := exp2Diff m top
       let q := exp2Diff a top
       (isNan m = true ∨ isNan a = true → smx m z a = (0x7FC00000, 0x7FC00000, 0))
       ∧ (isNan m = false → isNan a = false → top = 0xFF800000 → smx m z a = (0xFF800000, z, 0))
       ∧ (isNan m = false → isNan a = false → top ≠ 0xFF800000 →
           smx m z a = (top, (ffma z p.1 q.1).1, p.2 ||| q.2 ||| (ffma z p.1 q.1).2)))
    ∧ Performs (.vsmxap vd va vb) s vd
        (fun x i => (x.v.get va).ok i && (x.v.get vb).ok i && (vget x.v (vb.val + 1)).ok i)
        (fun x i => smxap ((x.v.get va).lane i) ((x.v.get vb).lane i) ((vget x.v (vb.val + 1)).lane i))
    ∧ (let zero (w : Word) : Prop := w = 0 ∨ w = 0x80000000
       let finite (w : Word) : Prop := w.toNat / 2 ^ 23 % 2 ^ 8 ≠ 255
       (isNan a = true ∨ isNan m = true ∨ isNan z = true → smxap a m z = (0x7FC00000, 0))
       ∧ (finite a → finite m → zero z → smxap a m z = (0x7F800000, 2))
       ∧ (a = 0xFF800000 → finite m → zero z → smxap a m z = (0x7FC00000, 1))
       ∧ (a = m → finite a → z = 0x3F800000 → smxap a m z = (0x3F800000, 0)))

/-- R164 to R169: every vector load and store completes once it comes first in the vector queue, its checks pass and its order
has nothing to wait for; with instructions before it there it takes its place, if there is room, and waits (R25, R155): VLD and
VST move the first bytes of a token, VLDT loads a transposed tile, VLDQ and VSTQ a slot of a ring without moving its pointers,
VGATH and VSCAT a word for each valid lane within the bound, of two at one address the higher lane's staying, VLDS a stamped
token decayed to the current step, with FLUSH up by 16 where the token is all old; VLDS waits for every TFACT of its context and
every write of its factor issued before it, by its spawners too (R58), and for a page that a rewrite it demands would miss
(R331, R398). -/
def Obligations.VectorMemory : Prop :=
  ∀ (s : State) (v : VReg) (q : RingNo) (ra rb : XReg) (ord : MemOrd) (scope : Scope) (df : Fin 8),
    let ea := (s.me.rx ra).toNat
    let n := vmemLen (s.me.rx rb)
    let tok := s.me.v.get v
    let r := s.here.ring q.val
    let off := (s.me.rx rb).toNat
    let first := s.here.vec = [] ∨ ∃ rest, s.here.vec = .mem s.cur.2 :: rest
    let ready (store : Bool) (spans writes : List (Nat × Nat)) (o : MemOrd) := first ∧ spansFault s.here s.cur.2 store spans writes = none
      ∧ (∀ g ∈ spans, absent s.here g.1 g.2 = false) ∧ releaseStalls s o scope = false ∧ acquireStalls s o = false ∧ ∀ g ∈ spans, ∀ w ∈ s.here.scratch.soft, ¬ (w < g.1 + g.2 ∧ g.1 < w + 8)
    let row (j : Nat) := ((s.me.rx ra) + BitVec.ofInt 32 (j * (s.me.rx rb).toInt)).toNat
    let inBound (m : Nat) := rb.val = 0 ∨ (tok.lane m).toNat < off
    let laneEa (m : Nat) := (ea + 4 * (tok.lane m).toNat) % 2 ^ 32
    let gathered := (List.range 16).filter fun m => tok.ok m && decide (inBound m)
    let data := vget s.me.v (v.val + 1)
    let scattered := gathered.filter data.ok
    let token (t : State) (w : VReg) := t.me.v.get w
    (∀ i o, (i, o) ∈ [(Instr.vld v ra rb ord scope, ord), (.vst v ra rb ord scope, ord), (.vldt v ra rb, .plain), (.vldq v q rb, .plain),
          (.vstq v q rb, .plain), (.vgath v ra rb ord scope, ord), (.vscat v ra rb ord scope, ord), (.vlds v ra rb df, .plain)] →
      Clear i s → ¬ first →
        (memQueued s.here s.cur.2 = true ∨ 8 ≤ s.here.vec.length → exec i s = .next s)
        ∧ (memQueued s.here s.cur.2 = false → s.here.vec.length < 8 → releaseStalls s o scope = false → acquireStalls s o = false →
            exec i s = .next (s.onHere fun c => { c with vec := c.vec ++ [.mem s.cur.2] })))
    ∧ (Clear (.vld v ra rb ord scope) s → ea % 2 = 0 → ready false [(ea, n)] [(ea, n)] ord →
      ∃ t, exec (.vld v ra rb ord scope) s = .next t ∧ t.me.pc = s.me.pc + 4 ∧ (∀ w ≠ v, token t w = token s w)
        ∧ (∀ m < 16, (token t v).ok m = decide (4 * m < n)
          ∧ (token t v).lane m = BitVec.ofNat 32 (s.here.nat (ea + 4 * m) (min 4 (n - 4 * m))))
        ∧ t.here.scratch = s.here.scratch)
    ∧ (Clear (.vst v ra rb ord scope) s → ea % 2 = 0 → ready true [(ea, n)] (joinSpans (vstSpans tok ea n)) ord →
      ∃ t, exec (.vst v ra rb ord scope) s = .next t ∧ t.me = { s.me with pc := s.me.pc + 4 }
        ∧ (∀ p a, ¬ (p = s.cur.1 ∧ ea ≤ a ∧ a < ea + n ∧ tok.ok ((a - ea) / 4) = true) → byteAt t p a = byteAt s p a)
        ∧ (s.here.scratch.mem.wf = true → ∀ m, m < n → tok.ok (m / 4) = true →
            byteAt t s.cur.1 (ea + m) = BitVec.ofNat 8 ((tok.lane (m / 4)).toNat / 256 ^ (m % 4) % 256)))
    ∧ (Clear (.vldt v ra rb) s → v.val % 4 = 0 → (∀ j < 16, row j % 4 = 0) →
      (let spans := (List.range 16).map fun j => (row j, 16); ready false spans spans .plain) →
      ∃ t, exec (.vldt v ra rb) s = .next t ∧ t.me.pc = s.me.pc + 4 ∧ t.here.scratch = s.here.scratch
        ∧ ∀ c < 4, ∀ j < 16, (vget t.me.v (v.val + c)).ok j = true
          ∧ (vget t.me.v (v.val + c)).lane j = s.here.word (row j + 4 * c))
    ∧ (Clear (.vldq v q rb) s → 0 < r.fill → off % 64 = 0 → off < r.sz →
      (let a := r.base + r.head * r.sz + off; ready false [(a, 64)] [(a, 64)] .plain) →
      ∃ t, exec (.vldq v q rb) s = .next t ∧ t.me.pc = s.me.pc + 4 ∧ t.here.tensor = s.here.tensor
        ∧ ∀ m < 16, (token t v).ok m = true ∧ (token t v).lane m = s.here.word (r.base + r.head * r.sz + off + 4 * m))
    ∧ (Clear (.vstq v q rb) s → r.fill < r.ns → off % 64 = 0 → off < r.sz →
      (let a := r.base + r.tail * r.sz + off; ready true [(a, 64)] [(a, 64)] .plain) →
      ∃ t, exec (.vstq v q rb) s = .next t ∧ t.me = { s.me with pc := s.me.pc + 4 } ∧ t.here.tensor = s.here.tensor
        ∧ (s.here.scratch.mem.wf = true → t.here.bytes (r.base + r.tail * r.sz + off) 64 = tok.bytes))
    ∧ (Clear (.vgath v ra rb ord scope) s → ea % 4 = 0 →
      (let spans := gathered.map fun m => (laneEa m, 4); ready false spans spans ord) →
      ∃ t, exec (.vgath v ra rb ord scope) s = .next t ∧ t.me.pc = s.me.pc + 4
        ∧ ∀ m < 16, (token t v).ok m = (tok.ok m && decide (inBound m))
          ∧ (token t v).lane m = if tok.ok m = true ∧ inBound m then s.here.word (laneEa m) else 0)
    ∧ (Clear (.vscat v ra rb ord scope) s → ea % 4 = 0 →
      (let spans := scattered.map fun m => (laneEa m, 4); ready true spans spans ord) →
      ∃ t, exec (.vscat v ra rb ord scope) s = .next t ∧ t.me = { s.me with pc := s.me.pc + 4 }
        ∧ (∀ p a, ¬ (p = s.cur.1 ∧ ∃ m ∈ scattered, laneEa m ≤ a ∧ a < laneEa m + 4) → byteAt t p a = byteAt s p a)
        ∧ (s.here.scratch.mem.wf = true → ∀ m ∈ scattered, (∀ j ∈ scattered, m < j → laneEa j ≠ laneEa m) →
            t.here.word (laneEa m) = data.lane m))
    ∧ (let i := Instr.vlds v ra rb df
       let c := s.here
       let pending := factorWaits c s.cur.2 (0x220 + df.val) c.nextCmd TensorFn.isFact || demandAbsent c c.step16 ea
       let age := (c.step16 + 2 ^ 16 - c.nat off 2) % 2 ^ 16
       Clear i s → ea % 16 = 0 → off % 2 = 0 → ready false [(ea, 64), (off, 2)] [(ea, 64), (off, 2)] .plain →
       (pending = true → c.halted = false → exec i s = .next s)
       ∧ (pending = false → ∃ t, exec i s = .next t ∧ t.me.pc = s.me.pc + 4 ∧ (∀ m < 16, (token t v).ok m = true)
         ∧ (∀ w ≠ v, token t w = token s w)
         ∧ ((∀ n < 4, (vget c.tensor.sweeps n).valid = false) → t.here.scratch = c.scratch
           ∧ t.here.tensor = (if age < 2 ^ 15 then c.tensor else { c.tensor with qstat := qstatAdd c.tensor.qstat ⟨0, 16, 0⟩ })
           ∧ ∀ m < 16, (token t v).lane m
             = if age < 2 ^ 15 then decayWord (c.word (ea + 4 * m)) age (c.tensor.df.get df).toNat else 0)))

/-! ## Rings and the wave -/

/-- R290 to R297: QCFG configures an unbound ring and tells the west neighbour of a WIN ring its slots; QWAITF and QWAITE go
on when the count is there and otherwise wait; QADVH pops and QADVT pushes n slots, each a release at core scope; QSTAT
reads the ring's state; QRESET empties an unbound ring and clears FAIL. -/
def Obligations.RingInstructions : Prop :=
  ∀ (s : State) (q : RingNo) (ra rp rd : XReg) (n : BitVec 8),
    let r := s.here.ring q.val
    let m := if n = 0 then (s.me.rx ra).toNat else n.toNat
    let unbound := r.cbound = [] ∧ r.pbound = []
    let lo := (s.me.rpair rp).toNat % 2 ^ 32
    let hi := (s.me.rpair rp).toNat / 2 ^ 32
    let base := lo % 2 ^ 18
    let ns := hi / 2 ^ 8 % 2 ^ 8 + 1
    let sz := (hi % 2 ^ 8 + 1) * 64
    let win := hi / 2 ^ 16 % 2 = 1
    let fresh := (s.onHere fun c => c.onRing q.val fun _ =>
      { Ring.blank with base := base, sz := sz, ns := ns, win := decide win })
    let waits (i : Instr) (have_ : Nat) (w : Wait) := Clear i s → s.me.kind = .ordinary → m ≤ r.ns → acquireReady s.here s.cur.2 = true →
      (m ≤ have_ → exec i s = .next (moved s 4))
      ∧ (have_ < m → r.fail = false → exec i s = .next (s.onMe fun x => { x with status := .waiting w i }))
    (Clear (.qcfg q rp) s → unbound → lo < 2 ^ 18 → hi < 2 ^ 17 → base % 64 = 0 →
        spanOutside s.here.role [.ring] base (ns * sz) = none →
        exec (.qcfg q rp) s = .next (moved
          (if win then fresh.linkFrame s.cur.1 .west .control (.creditReset q.val ns) else fresh) 4))
    ∧ waits (.qwaitf q n ra) r.fill (.ringFilled q.val m)
    ∧ waits (.qwaite q n ra) (r.ns - r.fill) (.ringFree q.val m)
    ∧ (Clear (.qadvh q n ra) s → m ≤ r.fill → r.cbound = [] → releaseReady s.here s.cur.2 .core = true → ∃ t,
        exec (.qadvh q n ra) s = .next t ∧ t.me = { s.me with pc := s.me.pc + 4 }
        ∧ t.here.ring q.val = { r with head := (r.head + m) % max r.ns 1, fill := r.fill - m }
        ∧ (r.win = false → t.mesh = s.mesh))
    ∧ (Clear (.qadvt q n ra) s → m ≤ r.ns - r.fill → r.pb = false → releaseReady s.here s.cur.2 .core = true →
        exec (.qadvt q n ra) s = .next (moved (s.onHere fun c => c.onRing q.val fun r =>
          { r with tail := (r.tail + m) % max r.ns 1, fill := r.fill + m }) 4))
    ∧ Writes (.qstat q rd) s rd (BitVec.ofNat 32 ((if r.ns ≠ 0 then 2 ^ 31 else 0) + (if r.win then 2 ^ 30 else 0)
        + (if r.fail then 2 ^ 29 else 0) + (if r.pb then 2 ^ 28 else 0) + (if r.cbound ≠ [] then 2 ^ 27 else 0)
        + r.tail % 256 * 2 ^ 17 + r.head % 256 * 2 ^ 9 + r.fill % 512)) 4
    ∧ (Clear (.qreset q) s → unbound → exec (.qreset q) s = .next (moved (s.onHere fun c => c.onRing q.val fun r =>
        { r with head := 0, tail := 0, fill := 0, fail := false, landed := 0 }) 4))

namespace Sys2Proof.Claim

/-- Packet number s.num of the mesh is p, no earlier packet of its flow is still under way (R14), and t is the state
without it: the packet may land. In t the retries of the links into its core are counted (R404), and a message is progress
there (R202). -/
def Lands (s : State) (p : Packet) (t : State) : Prop :=
  takeAt s.mesh s.num = some (p, t.mesh) ∧ (∀ q ∈ s.mesh.take s.num, sameFlow p q = false)
  ∧ (let u := State.countRetries { s with mesh := t.mesh } p.dst
     t = if p.body.isMessage = true then u.onCore p.dst fun c => { c with progress := true } else u)

end Sys2Proof.Claim

/-- R303 to R306: a wave frame that lands at a WIN ring with a free slot is written at the tail and pushed, in one turn or some
16-byte lines at a time (R119): it is pushed with its last; no byte outside its own changes; credits are
added and set; a fail frame marks a WIN ring; each leaves the mesh, and one for no WIN ring is discarded and recorded. -/
def Obligations.WaveFramesLand : Prop :=
  ∀ (s t : State) (p : Packet) (q n : Nat) (bytes : List Byte), q < 16 → Lands s p t →
    let c := t.core p.dst
    let r := c.ring q
    let a := r.base + r.tail * r.sz + r.landed
    let rest := bytes.drop r.landed
    let line := 16 * s.cur.2.val - a % 16
    let whole := s.cur.2 = 0 ∨ rest.length ≤ line
    (p.body = .frame q bytes → r.win = true → bytes.length ≤ r.sz → r.fill < r.ns → absent c a rest.length = false →
      ∃ u, exec .waveFrame s = .next u
        ∧ u.mesh = (if whole then t.mesh else s.mesh)
        ∧ (u.core p.dst).ring q = (if whole then { r with tail := (r.tail + 1) % max r.ns 1, fill := r.fill + 1, landed := 0 }
            else { r with landed := r.landed + line })
        ∧ (let now := if whole then rest else rest.take line
           (c.scratch.mem.wf = true → (u.core p.dst).bytes a now.length = now)
           ∧ ∀ x, ¬ (a ≤ x ∧ x < a + now.length) → byteAt u p.dst x = byteAt s p.dst x))
    ∧ (p.body = .frame q bytes → r.win = false → exec .waveFrame s = .next (t.note (.waveMismatch p.dst q)))
    ∧ (p.body = .credit q n → ∃ u, exec .creditLands s = .next u ∧ u.mesh = t.mesh
        ∧ vget (u.core p.dst).tensor.credits q = vget c.tensor.credits q + n)
    ∧ (p.body = .creditReset q n → ∃ u, exec .creditReset s = .next u ∧ u.mesh = t.mesh
        ∧ vget (u.core p.dst).tensor.credits q = n)
    ∧ (p.body = .failFrame q → r.win = true → ∃ u, exec .failFrame s = .next u ∧ u.mesh = t.mesh
        ∧ (u.core p.dst).ring q = { r with fail := true })
    ∧ (p.body = .failFrame q → r.win = false → exec .failFrame s = .next (t.note (.waveMismatch p.dst q)))

/-! ## The tensor engine -/

/-- R311, R316: TGEOM writes one TG register from a pair; TSHAPE reads 64 bytes and, once they pass the checks of R315,
writes all eight. -/
def Obligations.TensorGeometry : Prop :=
  ∀ (s : State) (rb : XReg) (e : BitVec 8),
    let a := s.me.rx rb
    let g := words8 s.here a.toNat
    (Clear (.tgeom rb e) s → exec (.tgeom rb e) s
      = .next (moved (s.onMe fun x => { x with tg := vset x.tg e.toNat (x.rpair rb) }) 4))
    ∧ (Clear (.tshape rb e) s → Readable s a 8 64 → shapeFault s.here.role g e.toNat 0 = none →
        exec (.tshape rb e) s = .next (moved ((s.scrub s.cur.1 a.toNat 64).onMe fun x => { x with tg := g }) 4))

namespace Sys2Proof.Claim

/-- The tensor command the issuing context would queue: its number, its snapshot of TG0 to TG7 and its counter (R310). -/
def tensorCmd (s : State) (fn : TensorFn) (e : BitVec 8) : TensorCmd :=
  { id := s.here.nextCmd, ctx := s.cur.2, serial := s.me.serial, fn := fn, tg := s.me.tg
    counter := if e = 0x80 then none else some e.toNat }

/-- The command goes to the end of the tensor queue with the locks of its spans and binds the consumer side of its rings, and
its context goes on; where the lock table has no room it stalls (R118, R193, R296, R310). -/
def Queues (s : State) (i : Instr) (fn : TensorFn) (e : BitVec 8) (spans : List (Nat × Nat × Bool)) (rings : List Nat) : Prop :=
  let id := s.here.nextCmd
  let locks := (spans.map fun g => lockOf id g.1 g.2.1 g.2.2).flatten
  (s.here.locks.length + locks.length ≤ 32 →
    ∃ t, exec i s = .next t ∧ t.me = { s.me with pc := s.me.pc + 4 }
      ∧ t.here.tensor.queue = s.here.tensor.queue ++ [.cmd (tensorCmd s fn e)]
      ∧ (∀ q < 16, t.here.ring q = { s.here.ring q with
          cbound := (s.here.ring q).cbound ++ (rings.filter (· == q)).map fun _ => id })
      ∧ t.here.locks = s.here.locks ++ locks ∧ t.here.nextCmd = id + 1 ∧ t.here.scratch = s.here.scratch)
  ∧ (32 < s.here.locks.length + locks.length → exec i s = .next s)

end Sys2Proof.Claim

/-- R309, R310, R315, R322 to R334: every tensor command whose checks pass completes its issue: it is queued with its snapshot
and its locks, and MMA and MMAW bind the consumer side of their two rings (R296). -/
def Obligations.TensorCommandsQueue : Prop :=
  ∀ (s : State) (qa qb : RingNo) (rb : XReg) (e : BitVec 8) (slot : Fin 4) (n : BitVec 5),
    let g := s.me.tg
    let block (i : Instr) (fn target : Nat) (f : TensorFn) := Clear i s → shapeFault s.here.role g fn target = none →
      Queues s i f e (spansOf g fn) []
    let matrix (i : Instr) (fn : Nat) (east : Bool) := Clear i s → (s.here.ring qa.val).ns ≠ 0 → (s.here.ring qb.val).ns ≠ 0 →
      shapeFault s.here.role g fn 0 = none → rowBytes g ≤ (s.here.ring qa.val).sz →
      panelSlots g (s.here.ring qb.val).sz ≤ (s.here.ring qb.val).ns →
      (east = true → (launchNeighbour s s.cur.1 .east).isSome) →
      Queues s i (.mma qa qb east) e (spansOf g fn) [qa.val, qb.val]
    let a := (s.me.rx rb).toNat
    let none80 : BitVec 8 := 0x80
    let load (i : Instr) (len : Nat) (f : TensorFn) := Clear i s → a % 4 = 0 →
      (len = 0 ∨ inKind s.here.role [.data, .code] a len = true) → Queues s i f none80 [(a, len, false)] []
    matrix (.mma qa qb e) 2 false
    ∧ matrix (.mmaw qa qb e) 3 true
    ∧ block (.tqnt e) 4 0 .qnt
    ∧ block (.tdqnt e) 5 0 .dqnt
    ∧ block (.tstpair e) 6 0 .stpair
    ∧ block (.tdecay slot e) 7 0 (.decay none)
    ∧ block (.tdecaySweep slot e) 7 0 (.decay (some slot.val))
    ∧ (Clear (.tdecayDrop slot e) s → Queues s (.tdecayDrop slot e) (.drop slot.val) e [] [])
    ∧ block (.tsadd e) 8 0 .sadd
    ∧ block (.tnorm rb e) 9 a (.norm a)
    ∧ load (.tscl n rb e) (4 * (n.toNat + 1)) (.scl e.toNat (n.toNat + 1) a)
    ∧ load (.tfact rb e) (if e = 0 then 0 else 4 * (Nat.log2 e.toNat + 1)) (.fact e a)

namespace Sys2Proof.Claim

/-- The core of the current place runs: a launch holds it and it is not halted. -/
def Running (s : State) : Prop := s.here.live = true ∧ s.here.halted = false

end Sys2Proof.Claim

/-- R310, R89, R321, R322: the oldest entry of the tensor queue starts: an MTS writes its register then, of ACCOVF its bit 0; a
dropped sweep slot becomes invalid, with the command's add; TSCL and TFACT read their factors once no earlier lock delays
them, and give up their locks; any other command, a matrix command and a registration of a sweep too, becomes a started one
with the STEP, scales and factors of that moment. -/
def Obligations.TensorStarts : Prop :=
  ∀ (s : State) (m : TensorCmd) (id num n first cnt a : Nat) (k : CtxNo) (v : Word) (rest : List TensorItem) (mask : BitVec 8)
      (qa qb : RingNo) (east : Bool) (slot : Fin 4),
    let c := s.here
    let t := c.tensor
    let span := 4 * (Nat.log2 mask.toNat + 1)
    let starts (p : State → Prop) := ∃ u, exec .tensorStart s = .next u ∧ u.here.tensor.queue = rest
      ∧ u.here.ctxs = c.ctxs ∧ u.here.scratch = c.scratch ∧ p u
    let unlocked (u : State) := u.here.locks = c.locks.filter fun l => l.cmd != m.id
    Running s →
    (t.queue = .mts id k num v :: rest → starts fun u =>
        (num = 0x200 → u.here.tensor.qstat = v) ∧ (num = 0x201 → u.here.tensor.accovf = v &&& 1)
        ∧ (∀ j < 8, num = 0x220 + j → u.here.tensor.df = vset t.df j v)
        ∧ (∀ j < 64, num = 0x240 + j → u.here.tensor.sc = vset t.sc j v))
    ∧ (t.queue = .cmd m :: rest → m.fn = .drop n → n < 4 → starts fun u => (vget u.here.tensor.sweeps n).valid = false
        ∧ ∀ j, m.counter = some j → j < 64 → (c.counter j).value.toNat + 1 < 2 ^ 64 →
          (u.here.counter j).value = (c.counter j).value + 1)
    ∧ (t.queue = .cmd m :: rest → m.fn = .scl first cnt a → first + cnt ≤ 64 → held c m.id a (4 * cnt) false = false →
        absent c a (4 * cnt) = false → Sound c a (4 * cnt) → starts fun u => unlocked u
        ∧ (∀ j < cnt, vget u.here.tensor.sc (first + j) = c.word (a + 4 * j))
        ∧ ∀ j < 64, j < first ∨ first + cnt ≤ j → vget u.here.tensor.sc j = vget t.sc j)
    ∧ (t.queue = .cmd m :: rest → m.fn = .fact mask a → mask ≠ 0 → held c m.id a span false = false →
        absent c a span = false → Sound c a span → starts fun u => unlocked u
        ∧ ∀ j < 8, vget u.here.tensor.df j = if mask.getLsbD j then c.word (a + 4 * j) else vget t.df j)
    ∧ (t.queue = .cmd m :: rest → m.fn = .fact 0 a → held c m.id a 0 false = false → absent c a 0 = false →
        starts fun u => unlocked u ∧ u.here.tensor.df = t.df)
    ∧ (t.queue = .cmd m :: rest →
        m.fn ∈ [TensorFn.mma qa qb east, .qnt, .dqnt, .stpair, .decay none, .decay (some slot.val), .sadd, .norm n] →
        starts fun u => u.here.locks = c.locks ∧ u.here.tensor.run = t.run ++
          [{ cmd := m, step := BitVec.ofNat 16 c.step16, sc := t.sc, df := t.df, row := 0 }])

namespace Sys2Proof.Claim

/-- Phocy-A arithmetic (R38, R40, R41, R42): a block that is written is read back; growth leaves no lane at or above 2^46; a
fresh block takes the least exponent at which every value is below 2^40; a K-block of exact zeros leaves a fresh block fresh;
and one added to a block that holds a value adds each rounded partial to its lane, where no lane grows out. -/
def PhocyA (b : Acc) (p : List (Option Dy)) : Prop :=
  let rounded (x : Nat) (v : Dy) : Int := rneScale v.m (v.e + 2079 - (x : Int))
  let sums := b.lanes.zipWith laneAdd (p.map fun v => v.map (rounded b.x))
  (b.lanes.length = 16 → (∀ l ∈ b.lanes, ∀ v, l = some v → v.natAbs < 2 ^ 47) → b.x < 4095 → b.stamp < 2 ^ 16 →
    (b.fresh = true → b.x = 0 ∧ ∀ l ∈ b.lanes, l = some 0) → accOfNat (natOfBytes (accBytes b)) = b)
  ∧ (∀ l ∈ (accGrow growFuel b).1.lanes, ∀ v, l = some v → v.natAbs < 2 ^ 46)
  ∧ ((pickX p).2 = false → ∀ v, some v ∈ p → (rounded (pickX p).1 v).natAbs < 2 ^ 40)
  ∧ (∀ v, some v ∈ p → ∀ x < (pickX p).1, ∃ u, some u ∈ p ∧ 2 ^ 40 ≤ (rounded x u).natAbs)
  ∧ (b.fresh = true → (∀ v ∈ p, ∃ e, v = some ⟨0, e⟩) → accMac b p = (b, false))
  ∧ (b.fresh = false → (∀ l ∈ sums, ∀ v, l = some v → v.natAbs < 2 ^ 46) → accMac b p = ({ b with lanes := sums }, false))

/-- The bytes of a core after a write of `bytes` at a and of `more` at h, apart from one another: those, and every other as
before. -/
def Wrote2 (c d : Core) (a : Nat) (bytes : List Byte) (h : Nat) (more : List Byte) : Prop :=
  (∀ x, ¬ (a ≤ x ∧ x < a + bytes.length) → ¬ (h ≤ x ∧ x < h + more.length) →
    memGet d.scratch.mem x = memGet c.scratch.mem x)
  ∧ (c.scratch.mem.wf = true → (a + bytes.length ≤ h ∨ h + more.length ≤ a) →
      d.bytes a bytes.length = bytes ∧ d.bytes h more.length = more)

/-- What TQNT, TDQNT, TDECAY, TSADD and TNORM do to block n of a region, and TSTPAIR to a tile, on a core with no uncorrectable
error and no sweep of the block pending (R325 to R329, R332, R334). -/
def BlockResults (t : TArgs) (w : TWork) (n target : Nat) : Prop :=
  let c := w.c
  let g := t.g
  let a := tgWide g n
  let pk := tgPacked g n
  let h := tgHeader g n
  let cs := packSize (tgPfmt g)
  let eight := tgPfmt g == 1
  let sc := vget t.sc (tgChannel g n)
  let floats (at_ : Nat) : List Word := (List.range 16).map fun k => c.word (at_ + 4 * k)
  let acc (at_ : Nat) : Acc := accOfNat (c.nat at_ 104)
  let packed (x : List Word) (sc : Word) : List Byte × List Byte :=
    (bytesOfNat cs (packCodes (qblock x sc (tgHeld g) eight).1 eight), bytesOfNat 2 (qblock x sc (tgHeld g) eight).2.1)
  let counted (w' : TWork) (q : QCount) : Prop := w'.q = qadd w.q q ∧ w'.faults = w.faults
  let df := (vget t.df (tgDfn g)).toNat
  let one (p : Prop) [Decidable p] : QCount := if p then ⟨0, 16, 0⟩ else ⟨0, 0, 0⟩
  let age := (t.step + 2 ^ 16 - c.nat h 2) % 2 ^ 16
  let b := acc a
  let old := if b.stamped then (t.step + 2 ^ 16 - b.stamp) % 2 ^ 16 else 0
  let now := bytesOfNat 2 t.step
  let ga := a - tgWbase g + tgX2base g
  let empty : Acc := { lanes := List.replicate 16 (some 0), x := 0, fresh := true, stamped := true, stamp := t.step }
  let big (m d : Nat) : Bool := decide (2 ^ 46 ≤ m * 2 ^ d)
  let m := (b.lanes.filterMap id).foldl (fun m v => max m v.natAbs) 0
  c.scratch.bad = [] → (∀ j < 4, (vget c.tensor.sweeps j).pend = []) → t.step < 2 ^ 16 →
  ((tgPfmt g = 1 ∨ tgPfmt g = 2) →
    Wrote2 c (qntBlock t w n).c pk (packed (floats a) sc).1 h (packed (floats a) sc).2
    ∧ counted (qntBlock t w n) (qblock (floats a) sc (tgHeld g) eight).2.2)
  ∧ (tgPfmt g = 3 → (let p := (floats a).map fun v => fexact (fmul v sc).1
      Wrote2 c (qntBlock t w n).c pk (accBytes (accOfValues p).1) (pk + 104) []
      ∧ counted (qntBlock t w n) ⟨0, 0, (p.filter Option.isNone).length⟩))
  ∧ (let v (k : Nat) : Option Dy :=
       if tgPfmt g = 3 then laneVal (acc pk) ((acc pk).lanes.getD k none)
       else elemValue (c.nat pk (codeBytes eight) / 2 ^ (codeW eight * k) % 2 ^ codeW eight) (c.nat h 2) k eight
     let word (k : Nat) : Word := match v k with
       | none => 0x7FC00000
       | some x => if tgScl g then scaledWord (some x) sc else rneF32 (some x)
     Wrote2 c (dqntBlock t w n).c a ((List.range 16).flatMap fun k => bytesOfNat 4 (word k).toNat) (a + 64) []
     ∧ counted (dqntBlock t w n) ⟨0, 0, 0⟩)
  ∧ (let row (r : Nat) : List Word := floats (tgWide g r)
     let column (m : Nat) : List Word := (List.range 16).map fun r => (row r).getD m 0
     let s0 := vget t.sc (tgScb g)
     let apart (x y lx ly : Nat) : Prop := x + lx ≤ y ∨ y + ly ≤ x
     let d := (stpairAll t w).c
     (tgPfmt g = 1 ∨ tgPfmt g = 2) → c.scratch.mem.wf = true →
     apart (tgPbase g) (tgHbase g) (16 * cs) 32 → apart (tgPbase g) (tgX2base g) (16 * cs) (16 * cs) →
     apart (tgPbase g) (tgH2base g) (16 * cs) 32 → apart (tgHbase g) (tgX2base g) 32 (16 * cs) →
     apart (tgHbase g) (tgH2base g) 32 32 → apart (tgX2base g) (tgH2base g) (16 * cs) 32 →
     (∀ r < 16, d.bytes (tgPbase g + cs * r) cs = (packed (row r) s0).1 ∧ d.bytes (tgHbase g + 2 * r) 2 = (packed (row r) s0).2
       ∧ d.bytes (tgX2base g + cs * r) cs = (packed (column r) s0).1 ∧ d.bytes (tgH2base g + 2 * r) 2 = (packed (column r) s0).2)
     ∧ d.tensor.pairErr = c.tensor.pairErr)
  ∧ (tgWfmt g = 1 →
      (let lanes := (floats a).map fun v => if age < 2 ^ 15 then decayWord v age df else 0
       Wrote2 c (decayOne t w n).c a (lanes.flatMap fun v => bytesOfNat 4 v.toNat) h now
       ∧ counted (decayOne t w n) (one (2 ^ 15 ≤ age)))
      ∧ (let sum := ((floats a).zip (floats ga)).map fun x =>
           if age < 2 ^ 15 then rneSum (decayWord x.1 age df) x.2 else x.2
         Wrote2 c (saddOne t w n).c a (sum.flatMap fun v => bytesOfNat 4 v.toNat) h now
         ∧ counted (saddOne t w n) (one (2 ^ 15 ≤ age))))
  ∧ (tgWfmt g = 2 →
      (2 ^ 15 ≤ old → Wrote2 c (decayOne t w n).c a (accBytes empty) (a + 104) []
        ∧ counted (decayOne t w n) ⟨0, 16, 0⟩)
      ∧ (old < 2 ^ 15 → b.fresh = true → c.nat (a + 96) 8 < 2 ^ 30 →
          Wrote2 c (decayOne t w n).c (a + 96)
            (bytesOfNat 8 (2 ^ 29 + t.step * 2 ^ 13 + 2 ^ 12 + c.nat (a + 96) 8 % 2 ^ 12)) a [])
      ∧ (old < 2 ^ 15 → b.fresh = false → b.stamped = true →
          Wrote2 c (decayOne t w n).c a (accBytes { decayBlock b old df with stamp := t.step }) (a + 104) [])
      ∧ (old < 2 ^ 15 → b.fresh = false → b.stamped = false → (decayOne t w n).c = c)
      ∧ (let sum := if old < 2 ^ 15 then (accAdd (decayBlock b old df) (acc ga)).1 else acc ga
         Wrote2 c (saddOne t w n).c a (accBytes { sum with stamped := true, stamp := t.step }) (a + 104) []
         ∧ counted (saddOne t w n) (one (2 ^ 15 ≤ old))))
  ∧ (c.nat (a + 96) 8 < 2 ^ 30 → c.nat (a + 96) 8 % 2 ^ 12 ≠ 4095 →
      (b.fresh = true ∨ b.x ≤ target → (normOne t w target n).c = c)
      ∧ (b.fresh = false → target < b.x → b.lanes.all Option.isNone = true →
          Wrote2 c (normOne t w target n).c a (accBytes { b with x := target }) (a + 104) [])
      ∧ (∀ d, b.fresh = false → target < b.x → b.lanes.all Option.isNone = false → d ≤ b.x - target →
          (d = 0 ∨ big m d = false) → (∀ e, d < e → e ≤ b.x - target → big m e = true) →
          Wrote2 c (normOne t w target n).c a
            (accBytes { b with lanes := b.lanes.map fun l => l.map fun v => v * 2 ^ d, x := b.x - d }) (a + 104) []))

/-- What a row and a panel do to one C block (R42, R323, R324), on a core with no uncorrectable error: column 16 × cb + i of the
panel times the row goes into lane i, K-block after K-block. -/
def RowResult (c : Core) (t : TArgs) (w : TWork) (ra rb : Ring) (cb n : Nat) : Prop :=
  let g := t.g
  let kb := tgKb g
  let size (fmt : Nat) : Nat := if fmt = 1 then 16 else 12
  let csA := size (tgAfmt g)
  let csB := size (tgBfmt g)
  let nc := 16 * tgExt g 0
  let slot := ra.base + ra.head * ra.sz
  let panel (p len : Nat) : Nat := natOfBytes ((List.range len).map fun x =>
    memGet c.scratch.mem (rb.base + (rb.head + (p + x) / rb.sz) % rb.ns * rb.sz + (p + x) % rb.sz))
  let element (fmt codes hdr e : Nat) : Option Dy :=
    elemValue (codes / 2 ^ (codeW (fmt == 1) * e) % 2 ^ codeW (fmt == 1)) hdr e (fmt == 1)
  let x (j e : Nat) := element (tgAfmt g) (c.nat (slot + csA * j) csA) (c.nat (slot + kb * csA + 2 * j) 2) e
  let y (col j e : Nat) := element (tgBfmt g) (panel (csB * (col * kb + j)) csB)
    (panel (nc * kb * csB + 2 * (col * kb + j)) 2) e
  let partial_ (col j : Nat) : Option Dy := (List.range 16).foldl (fun p e => match p, x j e, y col j e with
    | some p, some u, some v => some (dyAdd p (dyMul u v))
    | _, _, _ => none) (some ⟨0, 0⟩)
  let start : Acc := if tgFresh g then { lanes := List.replicate 16 (some 0), x := 0, fresh := true, stamped := false, stamp := 0 }
    else accOfNat (w.c.nat (tgWide g n) 104)
  let step (p : Acc × Bool) (j : Nat) : Acc × Bool :=
    let q := accMac p.1 ((List.range 16).map fun i => partial_ (16 * cb + i) j)
    (q.1, p.2 || q.2)
  let r := (List.range kb).foldl step (start, false)
  let done := macBlock t (optBytes c slot ra.sz) (headSlots c rb (panelSlots g rb.sz)) w cb n
  c.scratch.bad = [] → w.c.scratch.bad = [] → 0 < rb.sz → 0 < rb.ns → kb * (csA + 2) ≤ ra.sz → cb < tgExt g 0 →
    Wrote2 w.c done.c (tgWide g n) (accBytes { r.1 with stamped := false, stamp := 0 }) (tgWide g n + 104) []
    ∧ done.q = w.q ∧ done.ovf = (w.ovf || r.2)

/-- What the rewrite of block n of a registration for the crossing C writes (R49, R331), on a core with no uncorrectable error: a
stamped block that is from 2^13 to 2^15 - 1 steps old decays to C and gets C as its stamp; no other is written. -/
def SweepResults (c : Core) (v : Sweep) (cross n : Nat) : Prop :=
  let g := v.tg
  let a := tgWide g n
  let h := tgHeader g n
  let age (stamp : Nat) : Nat := (cross + 2 ^ 16 - stamp) % 2 ^ 16
  let due (stamp : Nat) : Prop := 2 ^ 13 ≤ age stamp ∧ age stamp < 2 ^ 15
  let b := accOfNat (c.nat a 104)
  let writes := (sweepWrites ⟨c, [], ⟨0, 0, 0⟩, false⟩ v cross n).2
  c.scratch.bad = [] → cross < 2 ^ 16 →
  (tgWfmt g = 1 → writes = if due (c.nat h 2) then [(a, (List.range 16).flatMap fun k =>
      bytesOfNat 4 (decayWord (c.word (a + 4 * k)) (age (c.nat h 2)) v.df.toNat).toNat), (h, bytesOfNat 2 cross)] else [])
  ∧ (tgWfmt g ≠ 1 → writes = if b.stamped = true ∧ due b.stamp then
      [(a, accBytes { decayBlock b (age b.stamp) v.df.toNat with stamp := cross })] else [])

/-- A command has left the tensor engine: its locks, its rings and its place among the started commands are gone, and its
counter has its add (R118, R296, R310). -/
def Left (s u : State) (r : TensorRun) : Prop :=
  (∀ x ∈ u.here.tensor.run, x.cmd.id ≠ r.cmd.id) ∧ (∀ l ∈ u.here.locks, l.cmd ≠ r.cmd.id)
  ∧ (∀ q < 16, r.cmd.id ∉ (u.here.ring q).cbound)
  ∧ ∀ n, r.cmd.counter = some n → n < 64 → (s.here.counter n).value.toNat + 1 < 2 ^ 64 →
      (u.here.counter n).value = (s.here.counter n).value + 1

end Sys2Proof.Claim

/-- R42, R301 to R306, R313, R323 to R334: the started matrix command that binds both its rings first fires its next row when
row and panel are there, for MMAW with a credit, and no lock or absent page delays the C blocks of that row (R194): it writes
the C blocks of the row, pops one slot of ring A, and MMAW sends that slot east; with its rows done it pops its panel if it
must, gives up its locks and rings and makes its counter's add. A dry failed ring ends it failed. A block command makes the
writes of its blocks in ascending order, a block a turn, a TSTPAIR all at once, so that it can be halted between two (R336), and
with the last leaves in the same way; TDECAY op 01 registers its region first, once no sweep of its slot is pending. A valid sweep
slot with a crossing pending rewrites its next block when no command in flight locks it, line by line (R119). That
TSADD takes g as it stands where the old value reads as zero is log entry 32. -/
def Obligations.TensorRuns : Prop :=
  ∀ (s : State) (r : TensorRun) (qa qb : RingNo) (east : Bool) (cross : BitVec 16) (later : List (BitVec 16)) (slot : Fin 4)
      (t : TArgs) (w : TWork) (n cb target : Nat) (ra rb : Ring) (blk : Acc) (p : List (Option Dy)) (site : Site) (k : CtxNo)
      (turns : List Turn) (serial : Nat) (bytes : List Byte) (rest : List Late),
    let c := s.here
    let a := c.ring qa.val
    let b := c.ring qb.val
    let g := r.cmd.tg
    let need := panelSlots g b.sz
    let here := s.cur.1
    let matrix := Running s ∧ c.tensor.run[s.num]? = some r ∧ r.cmd.fn = .mma qa qb east
    let fires := matrix ∧ 0 < need ∧ r.row < tgExt g 1 ∧ a.cbound.head? = some r.cmd.id ∧ b.cbound.head? = some r.cmd.id
    let beam (cls : MeshClass) (d : Dir) (body : Body) : List Packet := match launchNeighbour s here d with
      | none => []
      | some q => [{ src := here, dst := q, cls := cls, ctx := 0, body := body }]
    let mac (w : TWork) (cb : Nat) := macBlock r.args (optBytes c (a.base + a.head * a.sz) a.sz) (headSlots c b need) w cb
      (cb + tgExt g 0 * r.row)
    let rowed := (List.range (tgExt g 0)).foldl mac ⟨c, [], ⟨0, 0, 0⟩, false⟩
    let block (f : TensorFn) (units : Nat) (one : TArgs → TWork → Nat → TWork) := Running s → c.tensor.run[s.num]? = some r →
      r.cmd.fn = f → r.row < units → tensorWaits c r = false →
      (let done := one r.args ⟨c, [], ⟨0, 0, 0⟩, false⟩ r.row
       ∃ u, exec .tensorComplete s = .next u ∧ u.here.scratch.mem = done.c.scratch.mem
         ∧ u.here.tensor.qstat = qstatAdd c.tensor.qstat done.q
         ∧ u.here.tensor.accovf = (if done.ovf then c.tensor.accovf ||| 1 else c.tensor.accovf)
         ∧ (∀ q ≠ here, u.core q = s.core q)
         ∧ (r.row + 1 < units → u.here.locks = c.locks ∧ u.here.tensor.sweeps = c.tensor.sweeps
             ∧ u.here.tensor.run[s.num]? = some { r with row := r.row + 1 })
         ∧ (r.row + 1 = units → match f with
           | .decay (some k) => if (vget c.tensor.sweeps k).pend = [] then Left s u r
                 ∧ (vget u.here.tensor.sweeps k).valid = true ∧ (vget u.here.tensor.sweeps k).tg = g
                 ∧ (vget u.here.tensor.sweeps k).df = vget r.df (tgDfn g) ∧ (vget u.here.tensor.sweeps k).pend = []
               else u.here.tensor.sweeps = c.tensor.sweeps ∧ (∀ l ∈ u.here.locks, l.cmd ≠ r.cmd.id)
                 ∧ u.here.tensor.run[s.num]? = some { r with row := units }
           | _ => Left s u r))
    let v := vget c.tensor.sweeps s.num
    let at_ := tgWide v.tg v.next
    let hd := tgHeader v.tg v.next
    let len := if tgWfmt v.tg = 1 then 2 else 0
    (fires → qa ≠ qb → 0 < a.fill → need ≤ b.fill → (east = true → 0 < vget c.tensor.credits qa.val) →
      (∀ k < tgExt g 0, let x := tgWide g (k + tgExt g 0 * r.row)
        held c r.cmd.id x 104 true = false ∧ absent c x 104 = false) → absent c a.base (a.ns * a.sz) = false → absent c b.base (b.ns * b.sz) = false →
      ∃ u, exec .mmaRow s = .next u ∧ u.here.scratch.mem = rowed.c.scratch.mem
        ∧ u.here.ring qa.val = { a with head := (a.head + 1) % max a.ns 1, fill := a.fill - 1 }
        ∧ u.here.tensor.run[s.num]? = some { r with row := r.row + 1 }
        ∧ vget u.here.tensor.credits qa.val = vget c.tensor.credits qa.val - (if east then 1 else 0)
        ∧ u.mesh = s.mesh ++ (if east then beam .sum .east (.frame qa.val (c.bytes (a.base + a.head * a.sz) a.sz)) else [])
            ++ (if a.win then beam .control .west (.credit qa.val 1) else []))
    ∧ (fires → (a.fill = 0 ∧ a.fail = true) ∨ (b.fill = 0 ∧ b.fail = true) → ∃ u, exec .mmaRow s = .next u
        ∧ (∀ n, r.cmd.counter = some n → n < 64 → (u.here.counter n).broken = true)
        ∧ (∀ x ∈ u.here.tensor.run, x.cmd.id ≠ r.cmd.id) ∧ (∀ l ∈ u.here.locks, l.cmd ≠ r.cmd.id)
        ∧ u.here.scratch = c.scratch ∧ u.mesh = s.mesh ++ if east then beam .sum .east (.failFrame qa.val) else [])
    ∧ (matrix → tgExt g 1 ≤ r.row → ∃ u, exec .tensorComplete s = .next u ∧ Left s u r ∧ u.here.scratch = c.scratch
        ∧ (let k := if tgPop g then need else 0
           (u.here.ring qb.val).head = (if tgPop g then (b.head + need) % max b.ns 1 else b.head)
           ∧ (u.here.ring qb.val).fill = b.fill - k
           ∧ u.mesh = s.mesh ++ if b.win ∧ 0 < k then beam .control .west (.credit qb.val k) else []))
    ∧ (let blocks := tgBlocks g
       block .qnt blocks qntBlock ∧ block .dqnt blocks dqntBlock ∧ block (.decay none) blocks decayOne
       ∧ block (.decay (some slot.val)) blocks decayOne ∧ block .sadd blocks saddOne
       ∧ block (.norm target) blocks (fun t w n => normOne t w target n) ∧ block .stpair 1 fun t w _ => stpairAll t w)
    ∧ (Running s → c.tensor.run[s.num]? = some r → r.cmd.fn = .decay (some slot.val) → tgBlocks g ≤ r.row →
        (vget c.tensor.sweeps slot.val).pend = [] → ∃ u, exec .tensorComplete s = .next u ∧ Left s u r
          ∧ (vget u.here.tensor.sweeps slot.val).valid = true ∧ (vget u.here.tensor.sweeps slot.val).tg = g)
    ∧ BlockResults t w n target ∧ RowResult c t w ra rb cb n ∧ PhocyA blk p ∧ SweepResults c v cross.toNat v.next
    ∧ (Running s → s.num < 4 → v.valid = true → v.pend = cross :: later →
        (∀ l ∈ c.locks, l.meets at_ (tgWB v.tg) = false ∧ l.meets hd len = false) → absent c at_ (tgWB v.tg) = false →
        absent c hd len = false → ∃ u, exec .decaySweep s = .next u
          ∧ u.here.scratch.mem = c.scratch.mem
          ∧ u.here.late = c.late ++ ((sweepWrites ⟨c, [], ⟨0, 0, 0⟩, false⟩ v cross.toNat v.next).2.flatMap linesOf).map
              (fun g => inFlight v.ctx v.serial (.rewrite [g]))
          ∧ vget u.here.tensor.sweeps s.num
            = if v.next + 1 < tgBlocks v.tg then { v with next := v.next + 1 } else { v with pend := later, next := 0 })
    ∧ (let c := s.core site
       s.agenda = .perform site 0 :: turns → c.live = true → c.late = inFlight k serial (.rewrite [(n, bytes)]) :: rest →
         absent c n bytes.length = false → Sound c n bytes.length →
         ∃ u, step s = .next u ∧ u.core site = ({ c with late := rest }).put n bytes ∧ ∀ q ≠ site, u.core q = s.core q)

/-! ## Messages -/

/-- R241 to R244, R252: MSEND, MPUT, MGET and MAMO, their descriptor readable and its checks passed, join the message queue and
the list of messages that await a reply, under a lock of their own bytes; MBIND binds or frees a tag entry with no occupied
slot and no waiting SEND; MRECV reads a word of the message that started its handler. -/
def Obligations.MessageCommands : Prop :=
  ∀ (s : State) (ra rb rd : XReg) (scope : Scope) (e : BitVec 8),
    let c := s.here
    let a := s.me.rx rb
    let d := descAt c a.toNat
    let queues (i : Instr) (kind tag aux : Nat) (arg extra : Word) :=
      let locks := lockOf c.nextCmd d.local_ d.len (kind == kGET || kind == kAMO)
      let h := msgHdr s d kind tag scope.code arg extra
      let seq := c.msg.nextSeq
      Clear i s → Readable s a 16 16 → descFault s i d kind aux = none → c.locks.length + locks.length ≤ 32 → exec i s = .next (moved ((s.scrub s.cur.1 a.toNat 16).onHere fun c => { c with
          locks := c.locks ++ locks
          msg := { c.msg with
            queue := c.msg.queue ++ [{ id := c.nextCmd, ctx := s.cur.2, serial := s.me.serial, hdr := h, src := d.local_
                                       seq := seq, rel := d.rel, early := [] }]
            out := c.msg.out ++ [{ rid := seq, id := c.nextCmd, ctx := s.cur.2, serial := s.me.serial, seq := seq
                                   slot := none, hdr := h, landed := 0 }]
            nextSeq := seq + 1 }
          nextCmd := c.nextCmd + 1 }) 4)
    let lo := (s.me.rpair rb).toNat % 2 ^ 32
    let hi := (s.me.rpair rb).toNat / 2 ^ 32
    let base := hi % 2 ^ 14 * 16
    let size := (hi / 2 ^ 14 % 2 ^ 4 + 1) * 32
    let count := hi / 2 ^ 18 % 2 ^ 4 + 1
    let bind := Instr.mbind rb e
    let free := (∀ g, vget c.msg.tags e.toNat = some g → g.pipe = false ∧ g.busy = []) ∧ sendWaits c e.toNat = false
    let bound (g : Option TagEntry) := exec bind s = .next (moved (s.onHere fun c => { c with
      msg := { c.msg with tags := vset c.msg.tags e.toNat g } }) 4)
    queues (.msend rb scope e) 0 e.toNat e.toNat d.d2 0
    ∧ queues (.mput rb scope) 1 0 0 0 0
    ∧ queues (.mget rb scope) 2 0 0 0 0
    ∧ queues (.mamo ra rb scope e) 3 e.toNat e.toNat (s.me.rx ra)
        (if e = 9 then (s.me.rpair ra).extractLsb' 32 32 else 0)
    ∧ (Clear bind s → free → 2 ^ 31 ≤ lo → lo / 2 ^ 16 % 2 ^ 15 = 0 → hi < 2 ^ 22 →
        inKind c.role [.code] (lo % 2 ^ 16 * 4) 4 = true → spanOutside c.role [.data, .ring] base (count * size) = none →
        bound (some { handler := lo % 2 ^ 16 * 4, base := base, size := size, count := count, owner := s.cur.2.val
                      pipe := false, busy := [] }))
    ∧ (Clear bind s → free → s.me.rpair rb = 0 → bound none)
    ∧ (s.me.kind = .handler → Writes (.mrecv rd e) s rd (vget s.me.hdr e.toNat) 4)

namespace Sys2Proof.Claim

/-- The counter a header names has been added to, if it names one and stays below 2^64 (R183). -/
def Added (c c' : Core) (h : Hdr) : Prop :=
  hdrCa h = true → (c.counter (hdrCnum h)).value.toNat + hdrInc h < 2 ^ 64 →
    (c'.counter (hdrCnum h)).value = (c.counter (hdrCnum h)).value + BitVec.ofNat 64 (hdrInc h)

end Sys2Proof.Claim

/-- R245, R248 to R255: the first queued message command of its context whose release and locks allow it is injected with its
payload, to a core of this module as a mesh packet; a request lands in a request queue of fewer than 16; an ACK ends its
message; a GETR or AMOR that no earlier lock delays writes what it brings, ends its lock and adds to its counter, a GETR in one
turn or some 16-byte lines at a time (R119, R247); a NACK of a
GET or AMO ends its lock and breaks its counter. An FSUM takes its contribution from memory, and a node without children sends
its blocks to its parent; a CBCAST of a tile in plane form begins its train. That an AMOR brings the old value in its w5, and that
FSUM and CBCAST are read at their injection, is log entry 25. -/
def Obligations.MessagesMove : Prop :=
  ∀ (s t : State) (p : Packet) (m : MsgCmd) (later : List MsgCmd) (r : Request) (h : Hdr) (payload : List Byte) (o : OutMsg) (f : SumCfg) (up : Dir) (g : CreamTag) (tr : Train),
    let c := s.here
    let kind := hdrKind m.hdr
    let n := if kind ≤ 1 then hdrLen m.hdr else 0
    let rid := o.rid
    let answer (kind : Nat) := Lands s p t ∧ p.body = .rep h payload (some rid) ∧ hdrKind h = kind
      ∧ ((t.core p.dst).msg.out.find? fun m => m.rid == rid) = some o ∧ o.slot = none
    let gone (c : Core) : Core := { c with msg := { c.msg with out := c.msg.out.filter fun m => m.rid != rid }, progress := true }
    let b := t.core p.dst
    let a := hdrHaddr o.hdr + o.landed
    let goes (bytes : List Byte) := held b o.id a bytes.length true = false ∧ absent b a bytes.length = false
      ∧ Sound b a bytes.length
    let line := 16 * s.cur.2.val - a % 16
    let whole (bytes : List Byte) := s.cur.2 = 0 ∨ bytes.length ≤ line
    let data (i : Instr) (bytes : List Byte) := goes bytes → ∃ u, exec i s = .next u ∧ u.mesh = t.mesh
        ∧ (u.core p.dst).msg.out = (b.msg.out.filter fun m => m.rid != rid)
        ∧ (u.core p.dst).locks = (b.locks.filter fun l => l.cmd != o.id)
        ∧ (b.scratch.mem.wf = true → (u.core p.dst).bytes a bytes.length = bytes) ∧ Added b (u.core p.dst) o.hdr
        ∧ (u.core p.dst).ctxs = b.ctxs
    let part := payload.drop o.landed
    let due := Running s ∧ takeAt c.msg.queue s.num = some (m, later) ∧ (∀ q ∈ c.msg.queue.take s.num, q.ctx ≠ m.ctx)
      ∧ (m.rel = true → releaseBefore c m.ctx m.seq (decide (3 ≤ hdrScope m.hdr)) = true)
    let reads (n : Nat) := held c m.id m.src n false = false ∧ absent c m.src n = false ∧ Sound c m.src n
    let tag := hdrTag m.hdr
    let sums := c.sum tag
    let blk (k : Nat) : Acc := accOfNat (c.nat (m.src + 104 * k) 104)
    let aligned (k : Nat) (x : Nat) : List Lane := (blk k).lanes.map fun l => accAlign l (blk k).x x
    let beat (k : BeatKind) (data : List Byte) : CreamBeat :=
      { tag := tag, gen := g.gen, p := g.p, src := s.cur.1, rect := g.rect, kind := k, data := data }
    (due → kind ≤ 3 → hdrDmod m.hdr = 0 → reads n → exec .injection s = .next ({ s.onHere (fun c => { c with
            msg := { c.msg with queue := later }
            locks := if kind ≤ 1 then c.locks.filter fun l => l.cmd != m.id else c.locks }) with
          mesh := s.mesh ++ [{ src := s.cur.1, dst := hdrDst m.hdr, cls := .request, ctx := m.ctx.val
                               body := .req { hdr := m.hdr, payload := overlay m.early m.src (c.bytes m.src n), rid := m.seq
                                              launch := some c.role.launch } }] }))
    ∧ (due → kind = 8 → tag < 4 → sums.cfg = some f → f.parent = some up → f.children = [] → f.own = true →
        sums.failed = false → sums.blks.length = f.nblk → reads (104 * f.nblk) →
        (∀ k j, sums.blks[k]? = some j → j.sent = false ∧ j.done = false ∧ j.req ≤ j.xa ∧ j.xa ≤ 4094
          ∧ ∀ l ∈ aligned k j.xa, ∀ v, l = some v → v.natAbs < 2 ^ 28) →
        ∃ u, exec .injection s = .next u ∧ u.here.msg.queue = later
          ∧ (u.here.sum tag).given = some ((List.range f.nblk).map blk) ∧ u.here.ctxs = c.ctxs ∧ u.here.scratch = c.scratch
          ∧ u.mesh = s.mesh ++ match launchNeighbour s s.cur.1 up with
            | none => []
            | some q => sums.blks.mapIdx fun k j =>
              { src := s.cur.1, dst := q, cls := .sum, ctx := 0
                body := .sum tag k sums.gen j.xa (j.p.zipWith laneAdd (aligned k j.xa)) (j.n + 1) })
    ∧ (due → kind = 13 → tag < 4 → vget m.hdr 3 = 0 → c.cream tag = g → g.train s.cur.1 = some tr → reads (96 + 32 * g.p) →
        ∃ u, exec .injection s = .next u ∧ u.here.msg.queue = later ∧ u.mesh = s.mesh ∧ u.here.ctxs = c.ctxs
          ∧ u.here.scratch = c.scratch ∧ ((u.here.cream tag).train s.cur.1).map (·.toSend) = some
            (beat .opn [] :: beat .exponents (c.bytes m.src 32 ++ List.replicate 32 0)
              :: ((List.range (g.p + 1)).map fun k => beat (.plane (k + 1)) (c.bytes (m.src + (64 + 32 * k)) 32))
              ++ [beat (.fin (g.p + 1)) []]))
    ∧ (Lands s p t → p.body = .req r → b.msg.requests.length < 16 →
        exec .requestArrival s = .next (t.onCore p.dst fun c => { c with
          msg := { c.msg with requests := c.msg.requests ++ [r] }, progress := true }))
    ∧ (answer 4 → exec .ackLands s = .next (t.onCore p.dst gone))
    ∧ (answer 5 → whole part → data .getrLands part)
    ∧ (answer 5 → ¬ whole part → goes part → ∃ u, exec .getrLands s = .next u ∧ u.mesh = s.mesh
        ∧ (u.core p.dst).msg.out
          = (b.msg.out.map fun m => if m.rid = rid then { m with landed := m.landed + line } else m)
        ∧ (u.core p.dst).locks = b.locks ∧ (u.core p.dst).ctxs = b.ctxs ∧ (u.core p.dst).sync = b.sync
        ∧ (b.scratch.mem.wf = true → (u.core p.dst).bytes a line = part.take line)
        ∧ ∀ x, x < a ∨ a + line ≤ x → byteAt u p.dst x = byteAt t p.dst x)
    ∧ (answer 6 → o.landed = 0 → data .amorLands (bytesOfNat 4 (vget h 5).toNat))
    ∧ (answer 7 → hdrKind o.hdr ≤ 1 → hdrDmod o.hdr = 0 → exec .nackLands s = .next (t.onCore p.dst gone))
    ∧ (answer 7 → hdrKind o.hdr = 2 ∨ hdrKind o.hdr = 3 → ∃ u, exec .nackLands s = .next u ∧ u.mesh = t.mesh
        ∧ (u.core p.dst).msg.out = (b.msg.out.filter fun m => m.rid != rid)
        ∧ (u.core p.dst).locks = (b.locks.filter fun l => l.cmd != o.id)
        ∧ (hdrCa o.hdr = true → ((u.core p.dst).counter (hdrCnum o.hdr)).broken = true))

/-- R245 to R251: the request at the head of a core's queue that nothing refuses, its lines unlocked, is performed and answered
to a requester in this module: a SEND takes a slot of its tag and starts the lowest dormant handler with the sender, the slot's
address, the length and w5; a PUT writes its bytes and a GET reads those it returns, in one turn or some 16-byte lines at a time (R119); an
AMO reads one word and writes what its operation makes of it (R127). SEND and PUT add to the counter their header names. That a
SEND starts the lowest of the dormant handlers, and that an AMOR carries the old value in w5, is log entry 25. -/
def Obligations.RequestsServed : Prop :=
  ∀ (s : State) (r : Request) (later : List Request),
    let p := s.cur.1
    let c := s.here
    let h := r.hdr
    let a := hdrLaddr h
    let n := hdrLen h
    let old := c.word a
    let op := hdrTag h
    let v := vget h 5
    let (base, begun) := c.msg.landing.getD (a, 0)
    let rest := r.payload.drop begun
    let to_ := base + begun
    let line := 16 * s.cur.2.val - to_ % 16
    let words : List (Nat × Word) := [(0, BitVec.ofInt 32 (old.toInt + v.toInt)), (1, old &&& v), (2, old ||| v), (3, old ^^^ v),
      (4, if v.toInt < old.toInt then v else old), (5, if old.toInt < v.toInt then v else old),
      (6, if v.toNat < old.toNat then v else old), (7, if old.toNat < v.toNat then v else old), (8, v)]
    let head (kind : Nat) := c.msg.requests = r :: later ∧ hdrKind h = kind ∧ refusalOf s p r = none ∧ hdrSmod h = 0
    let free (at_ len : Nat) (write : Bool) := lockFault c at_ len write = none ∧ absent c at_ len = false ∧ Sound c at_ len
    let served (i : Instr) (kind : Nat) (payload : List Byte) (word : Word) (more : State → Prop) := ∃ t q,
      exec i s = .next t ∧ t.here.msg.requests = later ∧ t.mesh = s.mesh ++ [q] ∧ q.src = p ∧ q.dst = hdrSrc h
        ∧ q.cls = .reply ∧ q.body = .rep (replyHdr p h kind payload.length word) payload (some r.rid)
        ∧ (∀ q ≠ p, t.core q = s.core q) ∧ t.here.locks = c.locks ∧ more t
    (∀ k g slot at_, head 0 → c.msg.landing = none → s.cur.2 = 0 → sendPlace c r = some (k, g, slot, at_) → free at_ r.payload.length true →
        served .sendServed 4 [] 0 fun t =>
          (t.here.ctx k).status = .ready ∧ (t.here.ctx k).pc = BitVec.ofNat 32 g.handler
          ∧ (t.here.ctx k).rx 1 = hdrSrcWord h ∧ (t.here.ctx k).rx 2 = BitVec.ofNat 32 at_
          ∧ (t.here.ctx k).rx 3 = BitVec.ofNat 32 n ∧ (t.here.ctx k).rx 4 = vget h 5 ∧ (t.here.ctx k).hdr = h
          ∧ (t.here.ctx k).slot = some (op, slot) ∧ (∀ j ≠ k, t.here.ctx j = c.ctx j)
          ∧ (op < 64 → vget t.here.msg.tags op = some { g with busy := slot :: g.busy })
          ∧ (c.scratch.mem.wf = true → t.here.bytes at_ r.payload.length = r.payload) ∧ Added c t.here h)
    ∧ (head 1 → free to_ rest.length true →
        (s.cur.2 = 0 ∨ rest.length ≤ line → served .putServed 4 [] 0 fun t => t.here.ctxs = c.ctxs
          ∧ (c.scratch.mem.wf = true → t.here.bytes to_ rest.length = rest) ∧ Added c t.here h)
        ∧ (s.cur.2 ≠ 0 → line < rest.length → ∃ t, exec .putServed s = .next t ∧ t.here.msg.requests = c.msg.requests
          ∧ t.here.msg.landing = some (base, begun + line) ∧ t.mesh = s.mesh ∧ t.here.ctxs = c.ctxs ∧ t.here.sync = c.sync
          ∧ (c.scratch.mem.wf = true → t.here.bytes to_ line = rest.take line)
          ∧ ∀ x, x < to_ ∨ to_ + line ≤ x → byteAt t p x = byteAt s p x))
    ∧ (let left := n - begun
       let had := c.msg.gathered.take begun
       head 2 → free to_ left false →
        (s.cur.2 = 0 ∨ left ≤ line → served .getServed 5 (had ++ c.bytes to_ left) 0 fun t => t.here.ctxs = c.ctxs
          ∧ t.here.scratch = c.scratch)
        ∧ (s.cur.2 ≠ 0 → line < left → ∃ t, exec .getServed s = .next t ∧ t.here.msg.requests = c.msg.requests
          ∧ t.here.msg.landing = some (base, begun + line) ∧ t.here.msg.gathered = had ++ c.bytes to_ line ∧ t.mesh = s.mesh
          ∧ t.here.ctxs = c.ctxs ∧ t.here.sync = c.sync ∧ t.here.scratch = c.scratch))
    ∧ (head 3 → free a 4 true → served .amoServed 6 [] old fun t => t.here.ctxs = c.ctxs
        ∧ (op = 9 → old ≠ v → t.here.scratch = c.scratch)
        ∧ (c.scratch.mem.wf = true → (op = 9 → old = v → t.here.word a = vget h 7)
          ∧ ∀ w ∈ words, op = w.1 → t.here.word a = w.2))

/-! ## Fabric sums -/

/-- R257, R258, R264, R265: FSCFG configures an idle tag in a new generation, its result locked at the root; FSUM locks the
node's contribution for reading and puts it in the queue of the messages (where it waits is log entry 25); FSRAISE asks for a
higher exponent, of a failed tag too: the request goes to the parent, and at the root the block restarts at that exponent and
its children hear of it; it does nothing for a block that is sent, done or already that high; FSRES reads a block's state. -/
def Obligations.FabricSumCommands : Prop :=
  ∀ (s : State) (rd rb : XReg) (e : BitVec 8),
    let c := s.here
    let t := e.toNat
    let a := s.me.rx rb
    let g := c.sum t
    let d := sumDesc (descAt c a.toNat)
    let locks := if d.dir = 4 then lockOf c.nextCmd d.res (104 * d.nblk) true else []
    let zeros : List Lane := List.replicate 16 (some 0)
    let start : SumBlk := { xa := d.xa0, req := d.xa0, p := zeros, n := 0, got := [], sent := false, done := false }
    let cfg : SumCfg :=
      { own := d.own, children := d.children, parent := dirOf d.dir, total := d.total, res := d.res, inc := d.inc
        counter := d.counter, nblk := d.nblk, ctx := s.cur.2, serial := s.me.serial
        resCmd := c.nextCmd, srcCmd := c.nextCmd }
    let fresh : SumTag :=
      { cfg := some cfg, gen := g.gen + 1, failed := false, busy := true, given := none
        blks := List.replicate d.nblk start }
    let b := a.toNat % 2 ^ 6
    let x := a.toNat / 2 ^ 16 % 2 ^ 12
    let bit (v : Bool) (n : Nat) : Nat := if v then 2 ^ n else 0
    let k := g.blk b
    (Clear (.fscfg rb e) s → Readable s a 16 16 → d.counter ≠ 63 → d.counter < c.role.counters → g.busy = false →
        sumDescBad s d = false → d.res % 8 = 0 → (d.dir = 4 → inKind c.role [.data] d.res (104 * d.nblk) = true) →
        c.locks.length + locks.length ≤ 32 →
        exec (.fscfg rb e) s = .next (moved ((s.scrub s.cur.1 a.toNat 16).onHere fun c => { c with
          locks := c.locks ++ locks
          nextCmd := c.nextCmd + 1
          msg := { c.msg with sums := vset c.msg.sums t fresh } }) 4))
    ∧ (∀ f, let locks := lockOf c.nextCmd a.toNat (104 * f.nblk) false
        Clear (.fsum rb e) s → g.cfg = some f → g.failed = false → f.own = true → g.given = none →
        sumQueued c t = false → a.toNat % 8 = 0 → oneRegion c.role s.cur.2 .load a.toNat (104 * f.nblk) = true →
        c.locks.length + locks.length ≤ 32 →
        exec (.fsum rb e) s = .next (moved (s.onHere fun c => { c with
          locks := c.locks ++ locks
          nextCmd := c.nextCmd + 1
          msg := { c.msg with
            queue := c.msg.queue ++ [{ id := c.nextCmd, ctx := s.cur.2, serial := s.me.serial
                                       hdr := #v[0x08000000, 0, BitVec.ofNat 32 t, 0, 0, 0, 0, 0]
                                       src := a.toNat, seq := c.msg.nextSeq, rel := false, early := [] }]
            sums := vset c.msg.sums t { g with cfg := some { f with srcCmd := c.nextCmd } } } }) 4))
    ∧ (∀ f j, Clear (.fsraise rb e) s → g.cfg = some f → g.blks[b]? = some j → a.toNat / 2 ^ 6 % 2 ^ 10 = 0 →
        a.toNat < 2 ^ 28 → x ≠ 4095 →
        ((j.sent = true ∨ j.done = true ∨ x ≤ j.req) → exec (.fsraise rb e) s = .next (moved s 4))
        ∧ (∀ up, j.sent = false → j.done = false → j.req < x → f.parent = some up →
            exec (.fsraise rb e) s = .next (moved
              ((s.onSum s.cur.1 t fun g => g.onBlk b fun j => { j with req := x }).linkFrame s.cur.1 up .control
                (.renup t b g.gen x)) 4))
        ∧ (t < 4 → j.sent = false → j.done = false → j.req < x → f.parent = none → f.own = true → g.given = none →
            ∃ u, exec (.fsraise rb e) s = .next u ∧ u.me = { s.me with pc := s.me.pc + 4 }
              ∧ (u.here.sum t).blks[b]? = some { j with xa := x, req := x, p := zeros, n := 0, got := [] }
              ∧ u.mesh = s.mesh ++ f.children.filterMap fun d => (launchNeighbour s s.cur.1 d).map fun q =>
                { src := s.cur.1, dst := q, cls := .control, ctx := 0, body := .rendn t b g.gen x }))
    ∧ Writes (.fsres rd rb e) s rd (BitVec.ofNat 32 ((match k with | some j => j.xa * 2 ^ 16 | none => 0)
        + g.gen.toNat * 2 ^ 8 + bit (k.any fun j => decide (j.xa < j.req)) 5 + bit g.failed 4
        + bit (g.cfg.isSome && g.blks.all fun j => j.done) 3 + bit (k.any fun j => j.done) 2
        + bit (k.any fun j => j.sent || j.done) 1 + bit g.cfg.isSome 0)) 4

/-- R260, R261, R263: a beat of the tag's generation from the right neighbour acts on its block: SUM at a high enough exponent
is added in, and with the last child's the node's own contribution is added and the beat goes to the parent; RENUP raises
the request, to the parent; RENDN from the parent restarts the block at its exponent and goes to the children; SUMDONE ends
the block and adds to the counter; SUMFAIL fails the tag, breaks the counter and ends its locks. At the root the last child's SUM
completes the block: with every contributor counted the result is written and SUMDONE goes to the children, and with another
count nothing is written, SUMFAIL goes to them and the context that configured the tag gets FSUM. -/
def Obligations.FabricSumBeats : Prop :=
  ∀ (s t : State) (p : Packet) (tag b xa cnt : Nat) (gen : BitVec 8) (lanes : List Lane) (f : SumCfg) (k : SumBlk) (d up : Dir),
    let q := p.dst
    let g := (t.core q).sum tag
    let zeros : List Lane := List.replicate 16 (some 0)
    let blk (t : State) (k : SumBlk) := t.onSum q tag fun g => g.onBlk b fun _ => k
    let onBeat := Lands s p t ∧ tag < 4 ∧ g.cfg = some f ∧ g.blks[b]? = some k ∧ g.gen = gen ∧ g.failed = false
      ∧ fromDir t q p.src = some d
    let sum := k.p.zipWith laneAdd lanes
    (onBeat → p.body = .sum tag b gen xa lanes cnt → f.children.contains d = true → k.done = false → k.xa ≤ xa →
        k.n + cnt ≤ 2 ^ 18 → f.parent = some up →
        ((∃ e ∈ f.children, e ∉ d :: k.got) → exec .sumLands s = .next (blk t { k with p := sum, n := k.n + cnt, got := d :: k.got }))
        ∧ (∀ own, (∀ e ∈ f.children, e ∈ d :: k.got) → f.own = true → g.given = some own → k.sent = false → k.req ≤ k.xa →
            let all := sum.zipWith laneAdd (sumLanes (own.getD b default) k.xa)
            exec .sumLands s = .next ((blk t { k with p := all, n := k.n + cnt + 1, got := d :: k.got, sent := true }).linkFrame
              q up .sum (.sum tag b gen k.xa all (k.n + cnt + 1)))))
    ∧ (onBeat → p.body = .sum tag b gen xa lanes cnt → f.children.contains d = true → k.done = false → k.sent = false →
        k.xa ≤ xa → k.req ≤ k.xa → k.n + cnt ≤ 2 ^ 18 → f.parent = none → (∀ e ∈ f.children, e ∈ d :: k.got) → sum.length = 16 →
        held (t.core q) f.resCmd (f.res + 104 * b) 104 true = false → absent (t.core q) (f.res + 104 * b) 104 = false →
        f.own = false → f.counter < 64 → ∃ u, exec .sumLands s = .next u
          ∧ u.mesh = t.mesh ++ (f.children.filterMap fun e => (launchNeighbour t q e).map fun r =>
            { src := q, dst := r, cls := .control, ctx := 0
              body := if k.n + cnt = f.total then .sumDone tag b gen else .sumFail tag b gen })
          ∧ (k.n + cnt = f.total → ((u.core q).sum tag).blks[b]?
                = some { k with p := sum, n := k.n + cnt, got := d :: k.got, done := true }
              ∧ ((t.core q).scratch.mem.wf = true → (u.core q).bytes (f.res + 104 * b) 104
                = accBytes { lanes := sum, x := k.xa, fresh := false, stamped := false, stamp := 0 })
              ∧ (((t.core q).counter f.counter).value.toNat + f.inc < 2 ^ 64 →
                ((u.core q).counter f.counter).value = ((t.core q).counter f.counter).value + BitVec.ofNat 64 f.inc)
              ∧ (u.core q).ctxs = (t.core q).ctxs)
          ∧ (k.n + cnt ≠ f.total → ((u.core q).sum tag).failed = true ∧ ((u.core q).sum tag).busy = false
              ∧ ((u.core q).counter f.counter).broken = true ∧ (∀ l ∈ (u.core q).locks, l.cmd ≠ f.resCmd ∧ l.cmd ≠ f.srcCmd)
              ∧ (u.core q).scratch = (t.core q).scratch
              ∧ (let x := (t.core q).ctx f.ctx
                 x.status ≠ .dormant → x.serial = f.serial → x.pending.length < 16 → (u.core q).ctx f.ctx = { x with
                   pending := x.pending ++ [{ code := 0x12, sub := 0, aux := tag, val := BitVec.ofNat 32 b }] })))
    ∧ (onBeat → p.body = .renup tag b gen xa → f.children.contains d = true → k.done = false → k.req < xa → f.parent = some up →
        exec .renupLands s = .next ((blk t { k with req := xa }).linkFrame q up .control (.renup tag b gen xa)))
    ∧ (onBeat → p.body = .rendn tag b gen xa → f.parent = some d → k.done = false → k.xa < xa → f.own = true → g.given = none →
        exec .rendnLands s = .next (sumDown
          (blk t { k with xa := xa, req := max k.req xa, p := zeros, n := 0, got := [], sent := false }) q f (.rendn tag b gen xa)))
    ∧ (onBeat → p.body = .sumDone tag b gen → f.parent = some d → k.done = false → f.counter < 64 →
        ((t.core q).counter f.counter).value.toNat + f.inc < 2 ^ 64 → ∃ u, exec .sumDoneLands s = .next u
          ∧ ((u.core q).sum tag).blks[b]? = some { k with done := true }
          ∧ ((u.core q).counter f.counter).value = ((t.core q).counter f.counter).value + BitVec.ofNat 64 f.inc
          ∧ (u.core q).ctxs = (t.core q).ctxs ∧ (u.core q).scratch = (t.core q).scratch)
    ∧ (onBeat → p.body = .sumFail tag b gen → f.parent = some d → f.counter < 64 → ∃ u, exec .sumFailLands s = .next u
        ∧ ((u.core q).sum tag).failed = true ∧ ((u.core q).sum tag).busy = false
        ∧ ((u.core q).counter f.counter).broken = true ∧ (∀ l ∈ (u.core q).locks, l.cmd ≠ f.resCmd ∧ l.cmd ≠ f.srcCmd)
        ∧ (u.core q).ctxs = (t.core q).ctxs ∧ (u.core q).scratch = (t.core q).scratch)

/-! ## Cream-order collectives -/

namespace Sys2Proof.Claim

/-- The words of a header beat of kind 13 that context k of node p sends (R269). -/
def headerWords (p : Site) (k : CtxNo) (b : CreamBeat) : Hdr :=
  let sub := match b.kind with
    | .fin _ => 1
    | .cut => 2
    | _ => 0
  let sent := match b.kind with
    | .fin n => n
    | _ => 0
  let cls := if sub = 2 then 3 else 2
  #v[BitVec.ofNat 32 (cls * 2 ^ 28 + 13 * 2 ^ 24), BitVec.ofNat 32 (3 * 2 ^ 27 + k.val * 2 ^ 24 + p.toNat),
    BitVec.ofNat 32 (b.gen.toNat * 2 ^ 22 + b.p * 2 ^ 16 + sub * 2 ^ 12 + b.tag), BitVec.ofNat 32 b.src.toNat,
    BitVec.ofNat 32 (b.rect.y0 * 2 ^ 9 + b.rect.x0), BitVec.ofNat 32 ((b.rect.h - 1) * 2 ^ 9 + (b.rect.w - 1)),
    BitVec.ofNat 32 sent, 0]

/-- The packet in which a beat leaves node p in direction d under train number n (R268); none past the edge of the launch. -/
def beatPacket (s : State) (p : Site) (k : CtxNo) (d : Dir) (n : Nat) (b : CreamBeat) : List Packet :=
  match launchNeighbour s p d with
  | none => []
  | some q => [{ src := p, dst := q, cls := .sum, ctx := 0, body := match b.kind with
      | .exponents => .trainBeat n 0 b.data
      | .plane idx => .trainBeat n idx b.data
      | _ => .creamHeader (headerWords p k b) n }]

/-- Every branch of a train that is open has a number on its link, one that OPEN has taken or, for an OPEN, one that is free;
no beat of the train waits there, and no other train waits to be opened (R268). -/
def Numbered (c : Core) (b : CreamBeat) (branches : List Branch) (number : Dir → Nat) : Prop :=
  (branches.map (·.dir)).Nodup ∧ ∀ r ∈ branches, r.cut = false → r.ended = false →
    let l := c.trainLink r.dir
    l.wait = [] ∧ if b.kind = .opn then l.number b = none ∧ l.freeNumber = some (number r.dir) else l.number b = some (number r.dir)

/-- The packets of a beat for every branch that is open, in order (R270). -/
def onBranches (s : State) (p : Site) (k : CtxNo) (number : Dir → Nat) (b : CreamBeat) (branches : List Branch) : List Packet :=
  branches.flatMap fun r => if r.cut || r.ended then [] else beatPacket s p k r.dir (number r.dir) b

end Sys2Proof.Claim

/-- R272 to R280: CBCAST, CJOIN and CGATH, their descriptor readable and its checks passed, begin a new generation of their tag
under their locks, and a source's tile joins the message queue; that the locks of a receive area and of a tile sent as it stands
reach 96 + 32P bytes, and that the CUT of CCUT carries SCTX, the context of the tag's command, and the number 64, is log entry
28, and the place in the message queue log entry 25. CPREC reads a tile's precision; CSKIM reads a block of a tile
from the planes there; CCUT cuts a tile, and a node whose branches are all cut says so to its parent. -/
def Obligations.CreamCommands : Prop :=
  ∀ (s : State) (vd : VReg) (rd rb : XReg) (e : BitVec 8) (tag : Fin 4),
    let c := s.here
    let t := e.toNat
    let here := s.cur.1
    let a := s.me.rx rb
    let begins (i : Instr) (mode : CreamMode) (n tiles : Nat) :=
      let d := creamDesc c a.toNat mode
      let recv := if tiles = 0 then [] else lockOf c.nextCmd d.recv ((tiles - 1) * (64 + 32 * d.p) + (96 + 32 * d.p)) true
      let reach := if d.fmt = 0 then 96 + 32 * d.p else if d.fmt = 1 then 1664 else 1024
      let src := if mode = .join then [] else lockOf (c.nextCmd + 1) d.a reach false
      Clear i s → t < 4 → Readable s a n n → creamFault s i t mode d = none → c.locks.length + (recv ++ src).length ≤ 32 → ∃ u, exec i s = .next u ∧ u.me = { s.me with pc := s.me.pc + 4 }
          ∧ (u.here.cream t).mode = mode ∧ (u.here.cream t).gen = (c.cream t).gen + 1 ∧ (u.here.cream t).busy = true
          ∧ (u.here.cream t).p = d.p ∧ (u.here.cream t).rect = d.rect ∧ (u.here.cream t).counter = d.counter
          ∧ (u.here.cream t).tiles.length = tiles ∧ (∀ w ∈ (u.here.cream t).tiles, w.count = 0 ∧ w.final = false)
          ∧ u.here.locks = c.locks ++ (recv ++ src) ∧ (∀ j ≠ t, u.here.cream j = c.cream j) ∧ u.mesh = s.mesh
          ∧ (if mode = .join then u.here.msg.queue = c.msg.queue
              else ∃ m, u.here.msg.queue = c.msg.queue ++ [m] ∧ hdrKind m.hdr = 13 ∧ hdrTag m.hdr = t ∧ m.src = d.a)
    let g := c.cream tag.val
    let v := a.toNat
    let kr := v / 2 ^ 25 % 2 ^ 6
    let b := v / 2 ^ 21 % 2 ^ 4
    let skim := Instr.cskim vd rd rb tag
    let k (w : Tile) := min kr (w.count - 1)
    let lines (w : Tile) := (w.base + 2 * b) :: (List.range (k w + 1)).map fun j => w.base + 64 + 32 * j + 2 * b
    let h := c.cream t
    let src := if h.mode = .gather then Site.mk (h.rect.x0 + v % h.rect.w) (h.rect.y0 + v / h.rect.w) else h.src
    let cut := s.onCream here t fun h => h.onTile v fun w => { w with cut := true }
    let one (p : Bool) (n : Nat) : Nat := if p then 2 ^ n else 0
    begins (.cbcast rb e) .bcast 16 0
    ∧ begins (.cjoin rb e) .join 16 1
    ∧ (let d := creamDesc c a.toNat .gather
       begins (.cgath rb e) .gather 32 (d.rect.w * d.rect.h))
    ∧ ((h.joined = false ∨ h.tiles[v]? = none) → Writes (.cprec rd rb e) s rd 0 4)
    ∧ (∀ w, h.joined = true → h.tiles[v]? = some w → Writes (.cprec rd rb e) s rd
        (BitVec.ofNat 32 (h.gen.toNat * 2 ^ 24 + one w.fail 23 + one w.final 22 + one w.cut 21 + 2 ^ 20 + h.p * 2 ^ 14 + w.count)) 4)
    ∧ (∀ w, Clear skim s → g.joined = true → v / 2 ^ 10 % 2 ^ 11 = 0 → (kr ≤ g.p ∨ kr = 63) → g.tiles[v % 2 ^ 10]? = some w →
        vecPending c s.cur.2 = false →
        (w.count = 0 → exec skim s
          = .next (s.onMe fun x => { (x.wv vd Token.zero).wx rd 0xFFFFFFFF with pc := x.pc + 4 }))
        ∧ (w.count ≠ 0 → (∀ l ∈ lines w, absent c l 2 = false ∧ Sound c l 2) →
            ∃ u, exec skim s = .next u ∧ u.me.pc = s.me.pc + 4 ∧ (rd ≠ 0 → u.me.rx rd = BitVec.ofNat 32 (k w))
              ∧ (∀ m < 16, (u.me.v.get vd).ok m = true
                ∧ (u.me.v.get vd).lane m = rneF32 (skimLane c w.base g.p b (k w) (v.testBit 31) m))
              ∧ (∀ r ≠ vd, u.me.v.get r = s.me.v.get r) ∧ u.here.scratch = c.scratch))
    ∧ (∀ w, Clear (.ccut rb e) s → t < 4 → h.joined = true → h.tiles[v]? = some w →
        (w.final = true ∨ w.cut = true → exec (.ccut rb e) s = .next (moved cut 4))
        ∧ (w.final = false → w.cut = false → ∀ r, h.train src = some r → r.branches.any (fun b => !b.cut) = true →
            exec (.ccut rb e) s = .next (moved cut 4))
        ∧ (w.final = false → w.cut = false → ∀ r up, h.train src = some r → r.branches.all (·.cut) = true →
            r.cutSent = false → src ≠ here → treeParent src here = some up → h.tileOf src = v →
            exec (.ccut rb e) s = .next (moved
              ((cut.onCream here t fun h => h.onTrain src fun r => { r with cutSent := true }).linkFrame here up .control
                (.creamHeader (headerWords here h.ctx
                  { tag := t, gen := h.gen, p := h.p, src := src, rect := h.rect, kind := .cut, data := [] }) 64)) 4)))

/-- R268 to R270, R273, R276, R280, R281, R283: an OPEN, a data beat or an END that a joined node gets from its parent goes on
to every open branch, each under its number there; data lands in the tile, or waits for its page with the beat forwarded all the
same; a counted plane counts, an END makes the tile final and closes the train; a train whose OPEN the node does not know is
discarded with every beat of it. A source sends the beats of its train in order, to every open branch, and under CGATH to its
own tile. A CUT cuts an open branch, which gets its END. A beat of a generation just past is discarded in silence, and one of a tag,
generation or source the node does not know with a record of it. A train that has ended on every branch ends; a lost link fails the
tiles whose trains came over it. That SCTX of a header is the context that issued the tag's command is log entry 28. -/
def Obligations.CreamBeats : Prop :=
  ∀ (s t : State) (p : Packet) (b : CreamBeat) (r : Train) (w : Tile) (d : Dir) (later : List CreamBeat) (q : Site)
      (h : Hdr) (m idx : Nat) (data : List Byte) (number : Dir → Nat) (br : Branch),
    let n := p.dst
    let c := t.core n
    let g := c.cream b.tag
    let num := g.tileOf b.src
    let at_ (b : CreamBeat) := g.tileAddr num + match b.kind with
      | .plane j => 32 + 32 * j
      | _ => 0
    let comes := Lands s p t ∧ b.tag < 4 ∧ b.gen = g.gen ∧ g.mode ≠ .idle ∧ g.train b.src = some r ∧ fromDir t n p.src = some d
    let tileOpen := g.tiles[num]? = some w ∧ w.final = false ∧ w.fail = false ∧ g.toLand = []
    let down := comes ∧ g.joined = true ∧ treeParent b.src n = some d ∧ tileOpen
    let passed (b : CreamBeat) (u : State) := u.mesh = t.mesh ++ onBranches t n g.ctx number b r.branches
    let tile (u : State) := ((u.core n).cream b.tag).tiles[num]?
    let beat : CreamBeat := { b with kind := if idx = 0 then .exponents else .plane idx, data := data }
    let free := 0 < data.length ∧ held c g.recvCmd (at_ beat) data.length true = false
    let here := s.cur.1
    let k := s.cur.2.val % 4
    let own := s.here.cream k
    let sends (i : Instr) := ∃ u, exec i s = .next u ∧ u.mesh = s.mesh ++ onBranches s here own.ctx number b r.branches
      ∧ ((u.here.cream k).train here).map (·.toSend) = some later ∧ u.here.ctxs = s.here.ctxs
    let done := s.here.cream s.num
    let gone := s.core q
    (down → p.body = .creamHeader h m → beatOfHdr h = b → b.kind = .opn → Numbered c b r.branches number →
      ∃ u, exec .openLands s = .next u ∧ passed b u ∧ u.trainOf n p.src m = some (some b) ∧ tile u = some w)
    ∧ (comes → g.joined = true → treeParent b.src n ≠ some d → p.body = .creamHeader h m → beatOfHdr h = b → b.kind = .opn →
        ∃ u, exec .openLands s = .next u ∧ u.mesh = t.mesh ∧ u.trainOf n p.src m = some none)
    ∧ (Lands s p t → p.body = .trainBeat m idx data → t.trainOf n p.src m = some none → exec .trainDataBeat s = .next t)
    ∧ (Lands s p t → p.body = .creamHeader h m → beatOfHdr h = b →
        (let stale := b.gen + 1 = g.gen
         let unknown := b.gen + 1 ≠ g.gen ∧ (b.gen ≠ g.gen ∨ g.mode = .idle ∨ g.train b.src = none)
         let noted := t.note (.creamMismatch n b.tag)
         (b.kind = .cut → (stale → exec .cutLands s = .next t) ∧ (unknown → exec .cutLands s = .next noted))
         ∧ (∀ j, b.kind = .fin j → t.trainOf n p.src m = none →
             (stale → exec .endLands s = .next t) ∧ (unknown → exec .endLands s = .next noted))
         ∧ (b.kind = .opn → fromDir t n p.src = some d → (stale ∨ unknown) → ∃ u, exec .openLands s = .next u
             ∧ u.trainOf n p.src m = some none ∧ u.mesh = t.mesh ∧ (u.core n).scratch = c.scratch
             ∧ (∀ k < 4, (u.core n).cream k = c.cream k) ∧ u.station = (if b.gen + 1 = g.gen then t else noted).station)))
    ∧ (down → p.body = .trainBeat m idx data → t.trainOf n p.src m = some (some b) → Numbered c beat r.branches number → free →
        (absent c (at_ beat) data.length = false → ∃ u, exec .trainDataBeat s = .next u ∧ passed beat u
          ∧ tile u = some (if idx = 0 then w else { w with count := w.count + 1 })
          ∧ (c.scratch.mem.wf = true → (u.core n).bytes (at_ beat) data.length = data)
          ∧ (idx ≠ 0 → g.counter < 64 → (c.counter g.counter).value.toNat + 1 < 2 ^ 64 →
              ((u.core n).counter g.counter).value = (c.counter g.counter).value + 1))
        ∧ (absent c (at_ beat) data.length = true → ∃ u, exec .trainDataBeat s = .next u ∧ passed beat u ∧ tile u = some w
          ∧ ((u.core n).cream b.tag).toLand = [beat] ∧ (u.core n).scratch = c.scratch))
    ∧ (down → p.body = .creamHeader h m → (∃ j, beatOfHdr h = { b with kind := .fin j, data := [] }) → b.data = [] →
        t.trainOf n p.src m = some (some b) →
        Numbered c (beatOfHdr h) r.branches number → ∃ u, exec .endLands s = .next u ∧ passed (beatOfHdr h) u
          ∧ tile u = some { w with final := true } ∧ u.trainOf n p.src m = none
          ∧ (g.mode = .join → g.tiles = [w] → ((u.core n).cream b.tag).busy = false ∧ ∀ l ∈ (u.core n).locks, l.cmd ≠ g.recvCmd))
    ∧ (Running s → s.mesh.length ≤ s.num → own.mode = .bcast → own.toLand = [] → own.train here = some r → r.toSend = b :: later →
        b.tag = k → b.src = here → b.gen = own.gen → Numbered s.here b r.branches number →
        (b.kind = .opn → sends .openLands) ∧ (b.kind = .exponents → sends .trainDataBeat)
        ∧ (∀ j, (b.kind = .plane j → sends .trainDataBeat) ∧ (b.kind = .fin j → sends .endLands)))
    ∧ (Running s → s.mesh.length ≤ s.num → own.mode = .gather → own.toLand = [] → own.train here = some r →
        r.toSend = beat :: later → b.tag = k → b.src = here → b.gen = own.gen → idx ≠ 0 → Numbered s.here beat r.branches number →
        (let a := own.tileAddr (own.tileOf here) + (32 + 32 * idx)
         own.tiles[own.tileOf here]? = some w → w.final = false → w.fail = false → held s.here own.recvCmd a data.length true = false →
         absent s.here a data.length = false → ∃ u, exec .trainDataBeat s = .next u
           ∧ u.mesh = s.mesh ++ onBranches s here own.ctx number beat r.branches
           ∧ (u.here.cream k).tiles[own.tileOf here]? = some { w with count := w.count + 1 }
           ∧ (s.here.scratch.mem.wf = true → u.here.bytes a data.length = data)))
    ∧ (comes → p.body = .creamHeader h m → beatOfHdr h = b → b.kind = .cut → r.branch d = some br →
        (let fin : CreamBeat := { tag := b.tag, gen := g.gen, p := g.p, src := b.src, rect := g.rect, kind := .fin br.sent, data := [] }
         let shut (u : State) := (((u.core n).cream b.tag).train b.src).bind (·.branch d) = some { br with cut := true, ended := true }
         let keeps := (∃ e ∈ r.branches, e.dir ≠ d ∧ e.cut = false) ∨ (b.src ≠ n ∧ (g.tiles[num]?).all (fun w => !w.cut) = true)
         (br.cut = false → br.ended = false → Numbered c fin r.branches number → keeps → ∃ u, exec .cutLands s = .next u
           ∧ shut u ∧ u.mesh = t.mesh ++ beatPacket t n g.ctx d (number d) fin)
         ∧ ((br.cut = true ∨ br.ended = true) → keeps → exec .cutLands s = .next t)))
    ∧ (s.num < 4 → done.busy = true → done.mode = .bcast → done.train here = some r → r.ended = false →
        creamQueued s.here s.num = false → (∀ e ∈ r.branches, e.ended = true ∧ (s.here.trainLink e.dir).wait = []) →
        ∃ u, exec .trainDone s = .next u
          ∧ (u.here.cream s.num).busy = false ∧ (∀ l ∈ u.here.locks, l.cmd ≠ done.srcCmd)
          ∧ (done.counter < 64 → (s.here.counter done.counter).value.toNat + 1 < 2 ^ 64 →
              (u.here.counter done.counter).value = (s.here.counter done.counter).value + 1))
    ∧ (∀ dir j, neighbour s here dir = some q → q ≠ here → neighbour s q (oppositeDir dir) = some here →
        (∀ i < 4, (s.here.cream i).trains = []) → j < 4 → (∀ i < 4, i ≠ j → (gone.cream i).trains = []) →
        (let e := gone.cream j
         e.trains = [r] → e.busy = true → e.joined = true → r.src ≠ q →
         treeParent r.src q = some (oppositeDir dir) → r.branch (oppositeDir dir) = none →
         e.tiles[e.tileOf r.src]? = some w → w.final = false → w.fail = false → ∃ u, exec (.meshLinkLoss dir) s = .next u
          ∧ ((u.core q).cream j).tiles[e.tileOf r.src]? = some { w with fail := true }
          ∧ (e.counter < 64 → ((u.core q).counter e.counter).broken = true)
          ∧ (∀ l ∈ (u.core q).locks, l.cmd ≠ e.recvCmd ∧ (e.mode = .gather → l.cmd ≠ e.srcCmd))))

/-! ## Counters, steps and fences -/

/-- R181, R182, R184, R185, R190, R191, R198: CADD and CRAISE join the synchronisation engine's queue and are performed in
their context's order once their release is satisfied; CREAD, CTEST and CBRK act on the counter after the context's own adds
to it; CWAIT, an acquire that comes after every release of its context, goes on, waits, or at a broken counter traps with EPC
the next instruction; STEPADV counts a step here and sends one to every other core of the launch; a step beat counts one;
FENCE and FENCEE go on once nothing is left to wait for. A CADD that would come to 2^64 adds nothing: the counter is broken and its
context gets an asynchronous COUNTER. A CBRK of a counter that is broken has no effect. What FENCEE waits for is log entry 24. -/
def Obligations.CounterResults : Prop :=
  ∀ (s t : State) (p : Packet) (ra rb rd : XReg) (scope : Scope) (e : BitVec 8) (o : SyncOp) (later : List SyncOp),
    let c := s.here
    let n := e.toNat
    let v := c.counter n
    let ready := ∀ o ∈ c.sync.queue, ¬ (o.ctx = s.cur.2 ∧ o.counter = n)
    let queues (i : Instr) (raise : Bool) (val : Nat) := Clear i s →
      exec i s = .next (moved (s.onHere fun c => { c with sync := { c.sync with queue := c.sync.queue ++
        [{ ctx := s.cur.2, serial := s.me.serial, raise := raise, counter := n, val := val, after := c.msg.nextSeq
           wide := wideScope scope }] } }) 4)
    let wait := Instr.cwait ra rb scope e
    let goal := (s.me.rx ra).toNat * 2 ^ 32 + (s.me.rx rb).toNat
    let w := c.counter o.counter
    let due := Running s ∧ takeAt c.sync.queue s.num = some (o, later) ∧ o.counter < 64
      ∧ (∀ q ∈ c.sync.queue.take s.num, q.ctx ≠ o.ctx)
      ∧ (∀ m ∈ c.msg.out, m.ctx = o.ctx → m.slot = none → o.after ≤ m.seq)
      ∧ (o.wide = true → edgeReading c o.ctx o.after = false)
    let performed (value : Nat) := ∃ u, exec .caddPerformed s = .next u ∧ u.here.sync.queue = later
      ∧ u.here.counter o.counter = { w with value := BitVec.ofNat 64 value }
      ∧ (∀ j ≠ o.counter, u.here.counter j = c.counter j) ∧ u.here.ctxs = c.ctxs ∧ u.here.scratch = c.scratch
    let ro := c.role
    let others := (ro.launchRects.flatMap Rect.sites).filter (· ≠ s.cur.1)
    queues (.cadd rb scope e) false (s.me.rx rb).toNat
    ∧ queues (.craise ra rb scope e) true goal
    ∧ (ready → Clear (.cread rd e) s →
        exec (.cread rd e) s = .next (s.onMe fun x => { x.wpair rd v.value with pc := x.pc + 4 }))
    ∧ (ready → Writes (.ctest rd rb e) s rd
        (BitVec.ofNat 32 ((if v.broken then 2 else 0) + if (s.me.rx rb).toNat ≤ v.value.toNat then 1 else 0)) 4)
    ∧ (ready → Clear (.cbrk e) s → v.broken = true → exec (.cbrk e) s = .next (moved s 4))
    ∧ (ready → Clear (.cbrk e) s → v.broken = false → exec (.cbrk e) s = .next (moved (s.onHere fun c => { c with
        sync := { c.sync with counters := vset c.sync.counters n { v with broken := true } }, progress := true }) 4))
    ∧ (¬ ready → ∀ i ∈ [Instr.cread rd e, .ctest rd rb e, .cbrk e], Clear i s → exec i s = .next s)
    ∧ (Clear wait s → s.me.kind = .ordinary → acquireReady c s.cur.2 = false → exec wait s = .next s)
    ∧ (Clear wait s → s.me.kind = .ordinary → acquireReady c s.cur.2 = true →
        (v.broken = false → goal ≤ v.value.toNat →
          exec wait s = .next (s.onMe fun x => { x with pc := x.pc + 4, status := .ready }))
        ∧ (v.broken = false → v.value.toNat < goal →
          exec wait s = .next (s.onMe fun x => { x with status := .waiting (.counter n goal) wait }))
        ∧ (v.broken = true → exec wait s = .next (s.takeTrap s.cur.1 s.cur.2 false
            { code := 0x0E, sub := 0, aux := n, val := v.value.extractLsb' 0 32 } (s.me.pc + 4))))
    ∧ (Clear wait s → s.me.kind ≠ .ordinary → exec wait s = .next (s.takeTrap s.cur.1 s.cur.2 false
        { code := 0x09, sub := 0, aux := 0, val := (encode wait).headD 0 } s.me.pc))
    ∧ (due → o.raise = true → performed (max w.value.toNat o.val))
    ∧ (due → o.raise = false → w.value.toNat + o.val < 2 ^ 64 → performed (w.value.toNat + o.val))
    ∧ (due → o.raise = false → 2 ^ 64 ≤ w.value.toNat + o.val → ∃ u, exec .caddPerformed s = .next u ∧ u.here.sync.queue = later
        ∧ u.here.counter o.counter = { w with broken := true } ∧ (∀ j ≠ o.counter, u.here.counter j = c.counter j)
        ∧ u.here.scratch = c.scratch ∧ (∀ k ≠ o.ctx, u.here.ctx k = c.ctx k)
        ∧ (let x := c.ctx o.ctx
           x.status ≠ .dormant → x.serial = o.serial → x.pending.length < 16 → u.here.ctx o.ctx = { x with pending := x.pending
             ++ [{ code := 0x0E, sub := 1, aux := o.counter, val := w.value.extractLsb' 0 32 }] }))
    ∧ (Clear .stepadv s → s.cur.1 = ro.stepSource → releaseReady c s.cur.2 .device = true →
        exec .stepadv s = .next (moved { s.stepOn s.cur.1 with mesh := s.mesh ++ others.map fun q =>
          { src := s.cur.1, dst := q, cls := .control, ctx := 0, body := .step } } 4))
    ∧ (Clear .stepadv s → s.cur.1 ≠ ro.stepSource → exec .stepadv s = .next (s.takeTrap s.cur.1 s.cur.2 false
        { code := 0x0E, sub := 2, aux := 63, val := 0 } s.me.pc))
    ∧ Writes (.steprd rd) s rd ((c.counter 63).value.extractLsb' 0 32) 4
    ∧ (Lands s p t → p.body = .step → exec .stepBeat s = .next (t.stepOn p.dst))
    ∧ (((t.core p.dst).counter 63).value.toNat + 1 < 2 ^ 64 →
        (((t.stepOn p.dst).core p.dst).counter 63).value = ((t.core p.dst).counter 63).value + 1)
    ∧ (Clear (.fence scope) s → releaseReady c s.cur.2 scope = true → acquireReady c s.cur.2 = true → exec (.fence scope) s = .next (moved s 4))
    ∧ (Clear .fencee s → engineBusy c s.cur.2 = false → exec .fencee s = .next (moved s 4))

/-! ## Barriers -/

/-- R186 to R189, R198: BARCFG gives an idle barrier its rectangle and restarts its generation; BARRIVE records this core's
arrival; BARWAIT, once its context's releases have been made, goes on if its generation has come, with a trap where it was
released failed, and else waits; BARTAP ties a barrier to a stream. An arrival beat is held; an arrival whose release is
satisfied goes on once the beats it needs are held, with the last of them where it came first, west to the west column and south
along it, and at the south-west corner releases the generation; a release sets GEN and goes on, north and east in the west column, east elsewhere, to the rectangle's
end. -/
def Obligations.BarrierResults : Prop :=
  ∀ (s t : State) (p : Packet) (rb : XReg) (scope : Scope) (e : BitVec 8) (bar slot : Fin 8) (beat : Beat) (r : Rect)
      (gen : Word) (failed : Bool),
    let c := s.here
    let here := s.cur.1
    let n := e.toNat
    let b := c.bar n
    let lo := (s.me.rpair rb).toNat % 2 ^ 32
    let hi := (s.me.rpair rb).toNat / 2 ^ 32
    let box : Rect := ⟨lo % 2 ^ 9, lo / 2 ^ 9 % 2 ^ 9, hi % 2 ^ 9 + 1, hi / 2 ^ 9 % 2 ^ 9 + 1⟩
    let wait := Instr.barwait rb scope e
    let goal := (s.me.rx rb).toNat
    let word := (encode wait).headD 0
    let free (b : Barrier) := b.configured = true ∧ b.arrived = false ∧ b.tap = none
    let q := p.dst
    let there := t.core q
    let m := s.num
    let mine := c.bar m
    let box' := mine.rect
    let east (r : Rect) (p : Site) := p.x + 1 < r.x0 + r.w
    let north (r : Rect) (p : Site) := p.x = r.x0 ∧ p.y + 1 < r.y0 + r.h
    let due := Running s ∧ m < 8 ∧ mine.configured = true ∧ mine.arrived = true ∧ mine.sent = false
      ∧ (match mine.arriver with
        | none => mine.counted = true
        | some (k, _, seq) => releaseBefore c k seq mine.wide = true)
      ∧ (east box' here → mine.east ≠ none) ∧ (north box' here → mine.north ≠ none)
    let failing := mine.failed || mine.east.any (·.failed) || mine.north.any (·.failed)
    let beatTo (p : Site) (d : Dir) (b : Body) : List Packet := match neighbour s p d with
      | none => []
      | some q => [{ src := p, dst := q, cls := .control, ctx := 0, body := b }]
    let passOn (p : Site) (r : Rect) (b : Body) : List Packet :=
      (if p.x = r.x0 ∧ p.y + 1 < r.y0 + r.h then beatTo p .north b else []) ++ if p.x + 1 < r.x0 + r.w then beatTo p .east b else []
    let sends (d : Dir) := ∃ u, exec .barrierArrivalSent s = .next u
      ∧ u.here.bar m = { mine with counted := true, east := none, north := none, sent := true }
      ∧ u.mesh = s.mesh ++ beatTo here d (.arrival m { rect := box', failed := failing }) ∧ u.here.ctxs = c.ctxs
    (Clear (.barcfg rb e) s → n < 8 → lo < 2 ^ 18 → hi < 2 ^ 18 → box.x0 + box.w ≤ 512 → box.y0 + box.h ≤ s.meshH →
        box.inside c.role.partRect = true → box.has here = true → b.arrived = false → b.east = none → b.north = none →
        exec (.barcfg rb e) s = .next (moved (s.onHere fun c => { c.onBar n (fun b => { b with
          configured := true, rect := box, gen := 0, sent := false, failed := false, failedGens := [] }) with
          progress := c.progress || b.gen != 0 }) 4))
    ∧ (Clear (.barrive scope e) s → free b → b.gen ≠ 0xFFFFFFFF →
        exec (.barrive scope e) s = .next (moved (s.onHere fun c => { c.onBar n fun b => { b with
          arrived := true, arriver := some (s.cur.2, s.me.serial, c.msg.nextSeq), wide := wideScope scope, counted := false, failed := false } with
          msg := { c.msg with nextSeq := c.msg.nextSeq + 1 } }) 4))
    ∧ (Clear wait s → s.me.kind = .ordinary → b.configured = true → acquireReady c s.cur.2 = false → exec wait s = .next s)
    ∧ (Clear wait s → s.me.kind = .ordinary → b.configured = true → acquireReady c s.cur.2 = true →
        (goal ≤ b.gen.toNat → (∀ g ∈ b.failedGens, ¬ (goal ≤ g ∧ g ≤ b.gen.toNat)) →
          exec wait s = .next (s.onMe fun x => { x with pc := x.pc + 4, status := .ready }))
        ∧ (goal ≤ b.gen.toNat → (∃ g ∈ b.failedGens, goal ≤ g ∧ g ≤ b.gen.toNat) →
          exec wait s = .next (s.takeTrap here s.cur.2 false { code := 0x0F, sub := 0, aux := n, val := word } s.me.pc))
        ∧ (b.gen.toNat < goal → exec wait s = .next (s.onMe fun x => { x with status := .waiting (.barrier n goal) wait })))
    ∧ (Clear (.bartap bar slot) s → free (c.bar bar.val) → (∀ b ∈ c.sync.barriers.toList, b.tap ≠ some slot.val) →
        exec (.bartap bar slot) s
          = .next (moved (s.onHere fun c => c.onBar bar.val fun b => { b with tap := some slot.val }) 4))
    ∧ (Lands s p t → p.body = .arrival n beat → n < 8 → (there.bar n).configured = true → beat.rect = (there.bar n).rect →
        (let b := there.bar n
         let r := b.rect
         let fromEast := neighbour t q .east = some p.src
         let held := if fromEast then { b with east := some beat } else { b with north := some beat }
         let goes := b.arrived = true ∧ b.counted = true ∧ b.sent = false ∧ (east r q → held.east ≠ none) ∧ (north r q → held.north ≠ none)
         let failing := b.failed || held.east.any (·.failed) || held.north.any (·.failed)
         let relays (d : Dir) := ∃ u, exec .arrivalBeat s = .next u
           ∧ (u.core q).bar n = { held with east := none, north := none, sent := true }
           ∧ u.mesh = t.mesh ++ beatTo q d (.arrival n { rect := r, failed := failing }) ∧ (u.core q).ctxs = there.ctxs
         (if fromEast then b.east = none else b.north = none) →
          (¬ goes → exec .arrivalBeat s = .next (t.onCore q fun c => { c.onBar n (fun _ => held) with progress := true }))
          ∧ (goes → r.x0 < q.x → relays .west) ∧ (goes → r.x0 = q.x → r.y0 < q.y → relays .south)
          ∧ (goes → r.x0 = q.x → r.y0 = q.y → ∃ u, exec .arrivalBeat s = .next u
            ∧ ((u.core q).bar n).gen = b.gen + 1 ∧ ((u.core q).bar n).arrived = false
            ∧ ((u.core q).bar n).failedGens = (if failing then (b.gen + 1).toNat :: b.failedGens else b.failedGens)
            ∧ u.mesh = t.mesh ++ passOn q r (.release n r (b.gen + 1) failing))))
    ∧ (Lands s p t → p.body = .release n r gen failed → n < 8 → (there.bar n).configured = true → (there.bar n).rect = r →
        ∃ u, exec .releaseBeat s = .next u ∧ ((u.core q).bar n).gen = gen ∧ ((u.core q).bar n).arrived = false
          ∧ ((u.core q).bar n).failedGens
            = (if failed then gen.toNat :: (there.bar n).failedGens else (there.bar n).failedGens)
          ∧ u.mesh = t.mesh ++ passOn q r (.release n r gen failed) ∧ (u.core q).ctxs = there.ctxs)
    ∧ (due → box'.x0 < here.x → sends .west)
    ∧ (due → box'.x0 = here.x → box'.y0 < here.y → sends .south)
    ∧ (due → box'.x0 = here.x → box'.y0 = here.y → ∃ u, exec .barrierArrivalSent s = .next u
        ∧ (u.here.bar m).gen = mine.gen + 1 ∧ (u.here.bar m).arrived = false
        ∧ (u.here.bar m).failedGens = (if failing then (mine.gen + 1).toNat :: mine.failedGens else mine.failedGens)
        ∧ u.mesh = s.mesh ++ passOn here box' (.release m box' (mine.gen + 1) failing))

/-! ## Edge reversal -/

/-- R221, R225 to R228, R230, R231: ERINIT makes an invalid entry valid, its PINNED as it was (R10), and sends its handshake, a
release that it waits for, at core scope where the partner is on the same core and at device scope elsewhere (R220 has it block
never: that wait, and those of ERDONE and ERHALT, are log entry 24); ERDONE, ERPASS and ERHALT end a firing: every entry the
context owns counts an end, ERDONE and ERPASS turn the gates that are not pinned and send a flip for each, ERHALT pins them all,
retires the context and sends halts, and the context is dormant; a partner on the same core is turned or pinned at once (an entry
that is not paired yet is turned with the others, as R225's pseudocode has it: log entry 39); ERCHK tells whether an entry is
paired; ERSTAT reads it. -/
def Obligations.EdgeReversalResults : Prop :=
  ∀ (s : State) (rd rb : XReg) (scope : Scope) (e : BitVec 8),
    let c := s.here
    let here := s.cur.1
    let k := s.cur.2
    let n := e.toNat
    let lo := (s.me.rpair rb).toNat % 2 ^ 32
    let hi := (s.me.rpair rb).toNat / 2 ^ 32
    let octx := lo / 2 ^ 26 % 2 ^ 3
    let pk := lo / 2 ^ 21 % 2 ^ 5
    let pctx := lo / 2 ^ 18 % 2 ^ 3
    let q : Site := BitVec.ofNat 18 (lo % 2 ^ 18)
    let base := hi % 2 ^ 14 * 16
    let len1 := hi / 2 ^ 14 % 2 ^ 14
    let x := c.crossingAt n
    let new : Crossing := { Crossing.blank with
      valid := true, octx := octx, pk := pk, pctx := pctx, partner := q, base := base, len1 := len1, pinned := x.pinned }
    let wide : Scope := if q = here then .core else .device
    let mine := ownedBy c k
    let near (j : Nat) : Bool := (c.crossingAt j).partner == here
    let apart := ∀ j ∈ mine, near j = true → (c.crossingAt j).pk ∉ mine
    let ends (i : Instr) (face pinned : Crossing → Bool) (retired : Bool) (told : Crossing → Option Body)
        (hit : Crossing → Crossing) := ∃ t,
      exec i s = .next t ∧ t.me.status = .dormant ∧ t.me.retired = (s.me.retired || retired) ∧ t.me.kind = s.me.kind
        ∧ (∀ j ∈ mine, t.here.crossingAt j = { c.crossingAt j with
            ends := (c.crossingAt j).ends + 1, face := face (c.crossingAt j), pinned := pinned (c.crossingAt j) })
        ∧ (∀ j < 32, j ∉ mine → t.here.crossingAt j
            = if (mine.any fun m => near m && (c.crossingAt m).pk == j && (told (c.crossingAt m)).isSome) = true
              then hit (c.crossingAt j) else c.crossingAt j)
        ∧ t.mesh = s.mesh ++ (mine.filter fun j => !near j).filterMap (fun j => (told (c.crossingAt j)).map fun b =>
            { src := here, dst := (c.crossingAt j).partner, cls := .control, ctx := 0, body := b })
        ∧ ∀ i ≠ k, t.here.ctx i = c.ctx i
    let turns (i : Instr) := ends i (fun y => y.pinned && y.face) (·.pinned) false
      (fun y => if y.pinned then none else some (.flip y.pk)) fun y => { y with face := true }
    let idle := s.me.kind = .edgeReversal ∧ vecPending c k = false ∧ apart
    let one (p : Bool) (n : Nat) : Nat := if p then 2 ^ n else 0
    let may := Clear (.erinit rb e) s ∧ x.valid = false ∧ lo < 2 ^ 29 ∧ hi < 2 ^ 28 ∧ c.role.ord ≤ octx
      ∧ octx < c.role.ord + c.role.er ∧ (∃ r ∈ c.role.launchRects, r.has q = true) ∧ ¬ (q = here ∧ pk = n)
      ∧ inKind c.role [.data] base ((len1 + 1) * 16) = true
    (may → releaseReady c k wide = false → exec (.erinit rb e) s = .next s)
    ∧ (may → q = here → x.held = none → x.clash = false → releaseReady c k wide = true → pk < c.role.crossings →
        (c.crossingAt pk).valid = false → (c.crossingAt pk).held = none → exec (.erinit rb e) s
          = .next (moved ((s.onHere fun c => c.onCrossing n fun _ => new).onHere fun c => c.onCrossing pk fun y => { y with
              held := some { site := here, ctx := octx, entry := n, rank := (vget c.errank octx).toNat % 2 ^ 16
                             partnerCtx := pctx } }) 4))
    ∧ (may → x.held = none → x.clash = false → q ≠ here → releaseReady c k wide = true →
        exec (.erinit rb e) s = .next (moved ((s.onHere fun c => c.onCrossing n fun _ => new).send
          { src := here, dst := q, cls := .control, ctx := 0
            body := .handshake pk { site := here, ctx := octx, entry := n
                                    rank := (vget c.errank octx).toNat % 2 ^ 16, partnerCtx := pctx } }) 4))
    ∧ (Clear (.erdone scope) s → idle → (∀ j ∈ mine, inScope here (c.crossingAt j).partner scope = true) →
        releaseReady c k scope = true → turns (.erdone scope))
    ∧ (Clear .erpass s → idle → turns .erpass)
    ∧ (Clear .erhalt s → idle → releaseReady c k .device = true →
        ends .erhalt (fun _ => false) (fun _ => true) true (fun y => some (.halt y.pk))
          fun y => { y with face := true, pinned := true })
    ∧ (x.valid = true → x.mismatch = false →
        (x.paired = false → Writes (.erchk rd e) s rd 1 4)
        ∧ (x.paired = true → x.initFace = keyLt (ownKey c here x) (partnerKey x) → Writes (.erchk rd e) s rd 0 4)
        ∧ (x.paired = true → x.initFace ≠ keyLt (ownKey c here x) (partnerKey x) → Clear (.erchk rd e) s →
            exec (.erchk rd e) s = .next (s.takeTrap here k false
              { code := 0x10, sub := 0, aux := n, val := (encode (.erchk rd e)).headD 0 } s.me.pc)))
    ∧ Writes (.erstat rd e) s rd (BitVec.ofNat 32 (x.ends.toNat * 2 ^ 16 + one x.mismatch 7 + one x.held.isSome 6
        + one x.pinned 5 + one x.face 3 + one x.initFace 2 + one x.paired 1 + one x.valid 0)) 4

/-- R222 to R225, R227, R55, R143, R181, R188, R294: a handshake that names its partner pairs a valid entry, which faces the end
with the lower key, and is held by an invalid one; a mismatch, a flip and a halt set their bits; an edge-reversal context with
every gate facing it fires, its accesses performed and its releases made (R132, R198; those of its entries that no ERINIT has
made valid do not count: the model's choice, log entry 39); a waiting context whose wait is over goes on, or takes the trap its
wait ends in, at a counter that is broken, a generation released failed and a failed ring run dry, unless releases of it are
still under way (R198) or a fault is held for it that abandons the wait. -/
def Obligations.EdgeReversalAndWakeRows : Prop :=
  ∀ (s t : State) (p : Packet) (n g : Nat) (h : Handshake) (i : Instr),
    let q := p.dst
    let there := t.core q
    let x := there.crossingAt n
    let set (f : Crossing → Crossing) := t.onCore q fun c => c.onCrossing n f
    let faces := keyLt (ownKey there q x) (h.rank, x.partner.toNat, x.pctx)
    let c := s.here
    let k := s.cur.2
    let number := k.val - c.role.ord
    let wakes := Running s ∧ acquireReady c k = true ∧ (s.me.tlevel ≠ 0 ∨ s.me.pending = [])
    let goes := s.onMe fun y => { y with pc := y.pc + 4, status := .ready }
    let trap (code sub aux : Nat) (v pc : Word) :=
      s.takeTrap s.cur.1 k false { code := code, sub := sub, aux := aux, val := v } pc
    let v := c.counter n
    let b := c.bar n
    let r := c.ring n
    (Lands s p t → p.body = .handshake n h → n < there.role.crossings →
        (x.valid = true → x.partner = h.site → x.pctx = h.ctx → x.pk = h.entry → x.octx = h.partnerCtx → x.mismatch = false →
          exec .handshakeLands s = .next (set fun _ => { x with
            paired := true, partnerRank := h.rank, face := faces, initFace := faces }))
        ∧ (x.valid = false → x.held = none → exec .handshakeLands s = .next (set fun x => { x with held := some h })))
    ∧ (Lands s p t → p.body = .mismatch n → exec .mismatchBeat s = .next (set fun x => { x with mismatch := true }))
    ∧ (Lands s p t → p.body = .flip n → exec .flipLands s = .next (set fun x => { x with face := true }))
    ∧ (Lands s p t → p.body = .halt n → exec .haltLands s = .next (set fun x => { x with face := true, pinned := true }))
    ∧ (Running s → s.me.kind = .edgeReversal → s.me.status = .dormant → s.me.retired = false → ownedBy c k ≠ [] →
        (∀ e ∈ c.late, e.ctx = k → e.op.isRewrite = true) → acquireReady c k = true →
        (∀ j ∈ ownedBy c k, (c.crossingAt j).paired = true ∧ (c.crossingAt j).mismatch = false
          ∧ (c.crossingAt j).face = true ∧ absent c (c.crossingAt j).base (((c.crossingAt j).len1 + 1) * 16) = false) →
        ∃ u, exec .fire s = .next u ∧ u.me.status = .ready ∧ u.me.pc = BitVec.ofNat 32 (c.role.erTasks.getD number 0)
          ∧ u.me.rx 1 = BitVec.ofNat 32 number ∧ u.me.tlevel = 0 ∧ u.me.kind = .edgeReversal
          ∧ (∀ j ≠ k, u.here.ctx j = c.ctx j) ∧ u.here.scratch = c.scratch)
    ∧ (Running s → (acquireReady c k = false ∨ (s.me.tlevel = 0 ∧ s.me.pending ≠ [])) → exec .wake s = .next s)
    ∧ (wakes → s.me.status = .waiting (.counter n g) i → v.broken = false → g ≤ v.value.toNat → exec .wake s = .next goes)
    ∧ (wakes → s.me.status = .waiting (.counter n g) i → v.broken = true →
        exec .wake s = .next (trap 0x0E 0 n (v.value.extractLsb' 0 32) (s.me.pc + 4)))
    ∧ (wakes → s.me.status = .waiting (.barrier n g) i → g ≤ b.gen.toNat →
        (∀ f ∈ b.failedGens, ¬ (g ≤ f ∧ f ≤ b.gen.toNat)) → exec .wake s = .next goes)
    ∧ (wakes → s.me.status = .waiting (.barrier n g) i → g ≤ b.gen.toNat → (∃ f ∈ b.failedGens, g ≤ f ∧ f ≤ b.gen.toNat) →
        exec .wake s = .next (trap 0x0F 0 n ((encode i).headD 0) s.me.pc))
    ∧ (wakes → s.me.status = .waiting (.ringFilled n g) i → g ≤ r.fill → exec .wake s = .next goes)
    ∧ (wakes → s.me.status = .waiting (.ringFilled n g) i → r.fill < g → r.fail = true →
        exec .wake s = .next (trap 0x0D 1 n (BitVec.ofNat 32 g) s.me.pc))
    ∧ (wakes → s.me.status = .waiting (.ringFree n g) i → g ≤ r.ns - r.fill → exec .wake s = .next goes)

/-! ## Streams, edge memory and links -/

/-- R340, R343 to R348, R351, R353 to R357: SGEOM writes one SG register or all eight; a transfer command, its descriptor readable,
its checks passed and its slot idle, takes the slot with a snapshot of SG0 to SG7 and of its descriptor, under its locks, ACTIVE
or HELD by an SBAR; SFEED binds the producer side of its ring and SDRAIN the consumer side, behind the commands bound there, and no
other ring changes (R296); SBAR, SCANCEL, SRESUME and SSTAT act on the slots. -/
def Obligations.StreamCommands : Prop :=
  ∀ (s : State) (ra rb rd : XReg) (scope : Scope) (e mask : BitVec 8),
    let c := s.here
    let n := e.toNat
    let a := s.me.rx rb
    let g := s.me.sg
    let slot := vget c.slots n
    let starts (i : Instr) (m : StreamCmd) (spans : List (Int × Nat × Bool)) (ring : Nat) (more : StreamJob → Prop) :=
      let locks := spans.flatMap fun r => lockOf c.nextCmd r.1.toNat r.2.1 r.2.2
      n < 8 → slot.state = .idle → c.locks.length + locks.length ≤ 32 → ∃ u j, exec i s = .next u
        ∧ u.me = { s.me with pc := s.me.pc + 4 } ∧ u.here.locks = c.locks ++ locks ∧ u.here.nextCmd = c.nextCmd + 1
        ∧ vget u.here.slots n = { slot with
            state := if sbarWaits c n = [] then .active else .held, fail := false, cmd := m.code, gran := 0, job := some j }
        ∧ (∀ k ≠ n, vget u.here.slots k = vget c.slots k)
        ∧ (∀ q < 16, u.here.ring q = if m = .sfeed ∧ q = ring then { c.ring q with pbound := (c.ring q).pbound ++ [c.nextCmd] }
            else if m = .sdrain ∧ q = ring then { c.ring q with cbound := (c.ring q).cbound ++ [c.nextCmd] } else c.ring q)
        ∧ j.id = c.nextCmd ∧ j.cmd = m ∧ j.ctx = s.cur.2 ∧ j.serial = s.me.serial ∧ j.sg = g ∧ j.waits = sbarWaits c n
        ∧ j.next = 0 ∧ j.start = 0 ∧ j.busy = false ∧ more j
    let d := streamDesc c a.toNat
    let does (i : Instr) (m : StreamCmd) (scope : Scope) := Clear i s → Readable s a 32 32 →
      streamFault s i a n m d g = none →
      starts i m (localSpans m d (remoteSide m s.cur.1 d.dsite) g) d.ring fun j => j.scope = scope ∧ j.dsite = d.dsite
        ∧ j.daddr = d.daddr ∧ j.counter = d.counter ∧ j.inc = d.inc ∧ j.nc = d.nc ∧ j.bytes = d.bytes ∧ j.rca = d.rca
        ∧ j.rcounter = d.rcounter ∧ j.rinc = d.rinc ∧ j.ring = d.ring ∧ j.rop = d.rop ∧ j.edge = edgeSide m d.edge
        ∧ j.port = if d.named then some d.port else none
    let v := (s.me.rx ra).toNat
    let off := a.toNat
    let img := Instr.simg ra rb e
    let inEdge := v.testBit 7
    let src : List (Int × Nat × Bool) := if inEdge = true ∨ sgLen g = 0 then [] else [((sgSpan g).1, (sgSpan g).2, false)]
    let before := (List.range 8).filterMap fun k => if mask.getLsbD k then (vget c.slots k).job.map (·.id) else none
    let bit (p : Bool) (n : Nat) : Nat := if p then 2 ^ n else 0
    (n < 8 → Clear (.sgeom rb e) s → exec (.sgeom rb e) s
        = .next (moved (s.onMe fun x => { x with sg := vset x.sg n (x.rpair rb) }) 4))
    ∧ (n = 8 → Clear (.sgeom rb e) s → Readable s a 8 64 → exec (.sgeom rb e) s
        = .next (moved ((s.scrub s.cur.1 a.toNat 64).onMe fun x => { x with
            sg := Vector.ofFn fun k => BitVec.ofNat 64 (c.nat (a.toNat + 8 * k.val) 8) }) 4))
    ∧ does (.scopy rb scope e) .scopy scope
    ∧ does (.sload rb scope e) .sload scope
    ∧ does (.sstore rb scope e) .sstore scope
    ∧ does (.sfeed rb e) .sfeed .core
    ∧ does (.sdrain rb e) .sdrain .core
    ∧ does (.sred rb scope e) .sred scope
    ∧ does (.sxput rb scope e) .sxput scope
    ∧ (∀ r, Clear img s → v.testBit 15 = false → v / 2 ^ 2 % 2 ^ 5 = 0 →
        (v.testBit 14 = true → v / 2 ^ 16 = 0 ∧ v / 2 ^ 8 % 2 ^ 6 = 0) → sgBad g (!inEdge) = false → v / 2 ^ 8 % 2 ^ 6 ≠ 63 →
        (v / 2 ^ 8 % 2 ^ 6 < c.role.counters ∨ v.testBit 14 = true) →
        (c.role.regions.filter fun r => r.kind == .code)[v % 4]? = some r → off % 4 = 0 → off + sgLen g ≤ r.size →
        (∀ q ∈ src, localOutside c.role streamReads q.1 q.2.1 = none) →
        starts img .simg (src ++ if sgLen g = 0 then [] else [(((r.base + off : Nat) : Int), sgLen g, true)]) 0 fun j =>
          j.daddr = r.base + off ∧ j.counter = v / 2 ^ 8 % 2 ^ 6 ∧ j.inc = v / 2 ^ 16 ∧ j.nc = v.testBit 14 ∧ j.edge = inEdge)
    ∧ (Clear (.sbar mask) s → exec (.sbar mask) s = .next (moved (s.onHere fun c =>
        if before = [] then c else { c with sbars := c.sbars ++ [{ mask := mask, before := before }] }) 4))
    ∧ (Clear (.scancel e) s → slot.job = none → exec (.scancel e) s = .next (moved s 4))
    ∧ (∀ j, Clear (.scancel e) s → n < 8 → slot.job = some j → granuleBegun s s.cur.1 n j = false →
        ∃ u, exec (.scancel e) s = .next u ∧ u.me = { s.me with pc := s.me.pc + 4 }
          ∧ (vget u.here.slots n).state = .idle ∧ (vget u.here.slots n).fail = true ∧ (vget u.here.slots n).job = none
          ∧ (∀ l ∈ u.here.locks, l.cmd ≠ j.id) ∧ u.here.scratch = c.scratch
          ∧ (j.bytes = true → sgLen j.sg ≤ j.start → j.last ≠ 0 → j.counter < 64 →
              (c.counter j.counter).value.toNat + j.last < 2 ^ 64 →
              (u.here.counter j.counter).value = (c.counter j.counter).value + BitVec.ofNat 64 j.last)
          ∧ (∀ q ∈ u.edgeReqs, ¬ (q.site = s.cur.1 ∧ q.slot = n ∧ q.id = j.id)))
    ∧ (Clear (.sresume e) s → slot.state = .faulted → (slot.fsub = 1 ∨ slot.fsub = 2) → exec (.sresume e) s
        = .next (moved (s.onHere fun c => c.onSlot n fun t => { t with state := .active }) 4))
    ∧ (a = 0 → Writes (.sstat rd rb e) s rd (BitVec.ofNat 32 (slot.state.code * 2 ^ 29 + bit slot.fail 28
        + bit (c.sync.barriers.toList.any fun b => b.tap == some n) 27 + slot.cmd * 2 ^ 20 + slot.gran)) 4)
    ∧ (a = 1 → Writes (.sstat rd rb e) s rd slot.fval 4)
    ∧ (a = 2 → Writes (.sstat rd rb e) s rd (BitVec.ofNat 32 (slot.fsub * 2 ^ 24 + slot.fvah.toNat)) 4)
    ∧ (3 ≤ a.toNat → Writes (.sstat rd rb e) s rd 0 4)

/-- R348 to R351, R360, R369, R370, R378, R379: a HELD stream that waits for nothing becomes ACTIVE; an ACTIVE one moves its
granule (a local copy: the bytes at its address to the dense side), and at its end makes its END add and frees its slot; a home
port performs an edge request and the granule is delivered: it reads or writes the bytes; on an alias page it reads each element
as BF16, and quantises each block anew from the elements written and, where the block is written in part, those that stand
there; for an SRED it adds each word, or adds a block's lanes aligned at the target's X, or rejects the block (subcode 8); the
switch takes all contributions of a granule together (R377), begins, adds to and forwards a merge of ROP 0, and the home port adds it to the word, unless the memory reports an error,
which is counted (R406). That contributions of different ROP merge apart is log entry 31. -/
def Obligations.StreamRows : Prop :=
  ∀ (s : State) (j : StreamJob) (r : EdgeReq) (rs : List EdgeReq) (bytes : List Byte) (q : Contribution)
      (qs : List Contribution) (m : Merge) (ms : List Merge) (rejected : Bool) (size base off a : Nat),
    let c := s.here
    let n := s.num
    let slot := vget c.slots n
    let len := granuleLen j.sg j.start
    let va := sgAddr j.sg j.start
    let dest := j.daddr + j.start
    let works (st : SlotState) := Running s ∧ n < 8 ∧ slot.state = st ∧ slot.job = some j
    let done (j : StreamJob) : StreamJob := { j with
      next := j.next + 1, start := j.start + granuleLen j.sg j.start, off := j.start + granuleLen j.sg j.start
      last := granuleLen j.sg j.start, buf := [], dest := none, busy := false }
    let b := s.core r.site
    let comes := takeAt s.edgeReqs n = some (r, rs) ∧ r.slot < 8 ∧ b.jobOf r.slot r.id = some j ∧ j.cancel = false ∧ j.bytes = false
    let asks := comes ∧ r.aliasPg = none
    let job (u : State) := (vget (u.core r.site).slots r.slot).job = some (done j)
    let codeAt_ (e : Nat) := base + e
    let hdrAt (b : Nat) := base + size / 2 + 2 * b
    let elem (e : Nat) : Word := rneF32 (elemValue (memGet s.edge (codeAt_ e)).toNat (readNat s.edge (hdrAt (e / 16)) 2) (e % 16) true)
    let given (e : Nat) : Word :=
      if off ≤ 2 * e ∧ 2 * e + 2 ≤ off + bytes.length then
        BitVec.ofNat 32 (natOfBytes ((bytes.drop (2 * e - off)).take 2) * 2 ^ 16)
      else elem e
    let block (b : Nat) := qblock ((List.range 16).map fun k => given (16 * b + k)) 0x3F800000 false true
    let aliased := comes ∧ r.aliasPg = some (size, base, off) ∧ size % 64 = 0 ∧ off % 2 = 0 ∧ r.len % 2 = 0 ∧ off + r.len ≤ size
      ∧ ∀ b, off / 32 ≤ b → 32 * b < off + max r.len 1 → deviceBad s (codeAt_ (16 * b)) 16 = false ∧ deviceBad s (hdrAt b) 2 = false
    let T := readNat s.edge a 104
    let C := accOfNat (natOfBytes bytes)
    let tx : Nat := T / 2 ^ 768 % 2 ^ 12
    let add (k : Nat) : Lane := accAlign (C.lanes.getD k none) C.x tx
    let sum (k : Nat) : Lane := laneAdd ((accOfNat T).lanes.getD k none) (add k)
    let fits := T / 2 ^ 798 = 0 ∧ tx ≠ 4095 ∧ ∀ k < 16, (∀ v, add k = some v → v.natAbs < 2 ^ 28)
      ∧ ∀ v, sum k = some v → v.natAbs < 2 ^ 46
    let reduces (rop k : Nat) := asks ∧ r.op = .reduce rop [{ pieces := [(a, k)], data := bytes, va := r.va }]
      ∧ bytes.length = k ∧ deviceBad s a k = false
    let elsewhere (u : State) (k : Nat) := ∀ b, b < a ∨ a + k ≤ b → memGet u.edge b = memGet s.edge b
    (works .held → j.waits = [] →
        exec .streamActivate s = .next (s.onHere fun c => c.onSlot n fun t => { t with state := .active }))
    ∧ (works .active → j.busy = false → streamOver j = false → exec .granule s = .next (granule s s.cur.1 n j))
    ∧ (works .active → j.busy = false → streamOver j = false → j.cmd = .scopy → j.remote = false → j.cancel = false →
        j.bytes = false → streamReady c j va len false = true → streamReady c j dest len true = true → Sound c va len →
        Sound c dest len → ∃ u, exec .granule s = .next u ∧ (vget u.here.slots n).job = some (done j)
          ∧ (c.scratch.mem.wf = true → u.here.bytes dest len = c.bytes va len)
          ∧ (∀ a, a < dest ∨ dest + len ≤ a → byteAt u s.cur.1 a = byteAt s s.cur.1 a) ∧ u.here.ctxs = c.ctxs)
    ∧ (works .active → j.busy = false → streamOver j = true → j.bytes = false → j.nc = false → j.counter < 64 →
        (c.counter j.counter).value.toNat + j.inc < 2 ^ 64 → ∃ u, exec .streamEnd s = .next u
          ∧ (vget u.here.slots n).state = .idle ∧ (vget u.here.slots n).fail = false ∧ (vget u.here.slots n).job = none
          ∧ (u.here.counter j.counter).value = (c.counter j.counter).value + BitVec.ofNat 64 j.inc
          ∧ (∀ l ∈ u.here.locks, l.cmd ≠ j.id) ∧ u.here.scratch = c.scratch ∧ u.here.ctxs = c.ctxs)
    ∧ (asks → r.op = .read → j.cmd = .sload → deviceBad s r.dev r.len = false → streamReady b j dest r.len true = true →
        Sound b dest r.len → ∃ u, exec .homePortAccess s = .next u ∧ u.edgeReqs = rs ∧ u.edge = s.edge
          ∧ (vget (u.core r.site).slots r.slot).job = some (done j)
          ∧ (b.scratch.mem.wf = true → (u.core r.site).bytes dest r.len = readBytes s.edge r.dev r.len))
    ∧ (asks → r.op = .write bytes → edgeBadPart s r.dev r.len = false → ∃ u, exec .homePortAccess s = .next u
        ∧ u.edgeReqs = rs ∧ (vget (u.core r.site).slots r.slot).job = some (done j)
        ∧ (s.edge.wf = true → readBytes u.edge r.dev bytes.length = bytes)
        ∧ (∀ a, a < r.dev ∨ r.dev + bytes.length ≤ a → memGet u.edge a = memGet s.edge a))
    ∧ (aliased → r.op = .read → j.cmd = .sload → streamReady b j dest r.len true = true → Sound b dest r.len →
        ∃ u, exec .homePortAccess s = .next u ∧ u.edgeReqs = rs ∧ u.edge = s.edge ∧ job u
          ∧ (b.scratch.mem.wf = true → ∀ k, 2 * k < r.len → (u.core r.site).bytes (dest + 2 * k) 2
            = bytesOfNat 2 (f32ToBf16 (elem (off / 2 + k))).1.toNat))
    ∧ (aliased → r.op = .write bytes → bytes.length = r.len → 0 < r.len → ∃ u, exec .homePortAccess s = .next u
        ∧ u.edgeReqs = rs ∧ job u
        ∧ (s.edge.wf = true → ∀ b, off / 32 ≤ b → 32 * b < off + r.len →
            readBytes u.edge (codeAt_ (16 * b)) 16 = bytesOfNat 16 (packCodes (block b).1 true)
            ∧ readBytes u.edge (hdrAt b) 2 = bytesOfNat 2 (block b).2.1)
        ∧ ∀ x, (∀ b, off / 32 ≤ b → 32 * b < off + r.len → (x < codeAt_ (16 * b) ∨ codeAt_ (16 * b) + 16 ≤ x)
            ∧ (x < hdrAt b ∨ hdrAt b + 2 ≤ x)) → memGet u.edge x = memGet s.edge x)
    ∧ (reduces 0 4 → ∃ u, exec .homePortAccess s = .next u ∧ u.edgeReqs = rs ∧ job u ∧ elsewhere u 4
        ∧ (s.edge.wf = true → readBytes u.edge a 4
          = bytesOfNat 4 (rneSum (BitVec.ofNat 32 (readNat s.edge a 4)) (BitVec.ofNat 32 (natOfBytes bytes))).toNat))
    ∧ (reduces 1 104 → fits → ∃ u, exec .homePortAccess s = .next u ∧ u.edgeReqs = rs ∧ job u ∧ elsewhere u 104
        ∧ (s.edge.wf = true → (∀ k < 16, readBytes u.edge (a + 6 * k) 6 = bytesOfNat 6 (laneNat (sum k)))
          ∧ readNat u.edge (a + 96) 8 = T / 2 ^ 768 - T / 2 ^ 780 % 2 * 2 ^ 12))
    ∧ (reduces 1 104 → ¬ fits → (vget b.slots r.slot).state = .active → ∃ u, exec .homePortAccess s = .next u
        ∧ u.edgeReqs = rs ∧ job u ∧ u.edge = s.edge ∧ (vget (u.core r.site).slots r.slot).fsub = 8
        ∧ (vget (u.core r.site).slots r.slot).fval = BitVec.ofNat 32 r.va)
    ∧ (takeAt s.contributions n = some (q, qs) → (vget s.links q.link).state = .up → ∃ u, exec .windowContribution s = .next u
        ∧ u.contributions = s.contributions.filter fun g => !(g.site == q.site && g.slot == q.slot && g.id == q.id))
    ∧ (takeAt s.contributions n = some (q, qs) → (vget s.links q.link).state = .up → q.rop = 0 →
        (∀ g ∈ qs, ¬ (g.site = q.site ∧ g.slot = q.slot ∧ g.id = q.id)) →
        (let same (m : Merge) := m.window = q.window ∧ m.rop = 0 ∧ m.target = q.target
         let v := BitVec.ofNat 32 (natOfBytes q.data)
         ((∀ m ∈ s.merges, ¬ same m) → exec .windowContribution s = .next { s with
            contributions := qs
            merges := s.merges ++ [{ window := q.window, rop := 0, target := q.target, word := v, lanes := [], parts := [q] }] })
         ∧ (s.merges = m :: ms → same m → (∀ m ∈ ms, ¬ same m) → exec .windowContribution s = .next { s with
            contributions := qs
            merges := ms ++ [{ m with word := rneSum (BitVec.ofNat 32 m.word.toNat) v, parts := m.parts ++ [q] }] })))
    ∧ (takeAt s.merges n = some (m, ms) →
        exec .holdTimeExpiry s = .next { s with merges := ms, merged := s.merged ++ [m] })
    ∧ (takeAt s.merged n = some (m, ms) → m.window.home = s.sysNum → m.rop = 0 →
        (∀ q ∈ m.parts, q.source ≠ s.sysNum) →
        (deviceBad s m.target 4 = false → exec (.mergedContribution rejected) s = .next ({ s with merged := ms }.edgePut
          m.target (bytesOfNat 4 (rneSum (BitVec.ofNat 32 (readNat s.edge m.target 4)) m.word).toNat)))
        ∧ (deviceBad s m.target 4 = true →
          exec (.mergedContribution rejected) s = .next ({ s with merged := ms }.countError (homeSite m.target))))

/-- R375 to R377, R381: a link takes a flit in SEQ order whose CRC is right, makes the acknowledge flit for it, and injects a
packet whose flits are all there, or holds it for a core that is halted or saved, or as a reply that a saved launch still awaits
(which replies these are is log entry 25); an acknowledge frees the flits up to its SEQ; a link that loses lock, or has replayed
one flit 16 times, retrains; it comes back and replays, or goes down with nothing held. What an acknowledge flit holds, that
every held flit counts the replay and that a retrain sets those counts to zero, is log entry 18. -/
def Obligations.LinkRows : Prop :=
  ∀ (s : State) (f : Flit) (seq : BitVec 12) (first : List Flit) (rest : List Flit) (p : Packet),
    let n := s.num
    let l := vget s.links n
    let set (l : Link) : State := { s with links := vset s.links n l }
    let part := if flitType f = 0 then [f] else if l.part = [] then [] else l.part ++ [f]
    let size := match part with
      | [] => 0
      | h :: _ => h.data.toNat / 2 ^ 272 % 2 ^ 4
    let ack := some (ackFlit f)
    let takes := n < 32 ∧ l.state = .up ∧ flitGood f = true ∧ flitType f < 2 ∧ flitSeq f = l.recvSeq
    (takes → (part = [] ∨ part.length < size) →
        exec (.flitArrives f) s = .next (set { l with recvSeq := l.recvSeq + 1, part := part, ack := ack }))
    ∧ (takes → part ≠ [] → size ≤ part.length → unpack s n part = some p →
        (let whole := set { l with recvSeq := l.recvSeq + 1, part := [], ack := ack }
         let saved := ∃ m ∈ s.station.launches, m.phase = .saved ∧ ∃ x ∈ m.roles, p.dst ∈ x.info.rect.sites
         let due := alike p s.heldArrivals < (awaited s p).length
         ((s.core p.dst).halted = false → ((s.core p.dst).live = true ∨ ¬ saved) → ¬ due → exec (.flitArrives f) s = .next (whole.send p))
         ∧ ((s.core p.dst).halted = true ∨ ((s.core p.dst).live = false ∧ saved) ∨ due →
            exec (.flitArrives f) s = .next { whole with heldArrivals := s.heldArrivals ++ [p] })))
    ∧ (takes → (ackFlit f).ctl.toNat / 2 ^ 16 = flitClass f * 2 ^ 14 + 2 * 2 ^ 12 + (flitSeq f).toNat ∧ flitGood (ackFlit f) = true)
    ∧ (n < 32 → l.state = .up → l.held = first ++ f :: rest → flitSeq f = seq → (∀ g ∈ first, flitSeq g ≠ seq) →
        exec (.acknowledge seq) s = .next (set { l with
          held := rest, replays := l.replays.drop (first.length + 1), packets := l.packets.filter fun o => rest.any fun g => flitSeq g == o.last }))
    ∧ (n < 32 → l.state = .up → exec .lossOfLock s = .next (set { l with state := .retraining }))
    ∧ (n < 32 → l.state = .up → l.held ≠ [] → exec .flitReplay s = .next (set { l with
        replays := l.replays.map (· + 1), state := if ∃ k ∈ l.replays, 16 ≤ k + 1 then .retraining else .up }))
    ∧ (n < 32 → l.state = .retraining →
        exec .retrainComplete s = .next (set { l with state := .up, replays := l.replays.map fun _ => 0 }))
    ∧ (n < 32 → l.state = .retraining → ∃ u, exec .retrainTimeout s = .next u
        ∧ vget u.links n = { l with state := .down, held := [], packets := [], part := [], replays := [] }
        ∧ ∀ k ≠ n, vget u.links k = vget s.links k)

/-! ## Host ports and launches -/

/-- R385, R386: SUBMIT takes effect when the queue has room, and otherwise sets ERR and clears EN; enabling sets EN, clears ERR
and names the port; disabling clears EN; QBASE and QCTL but for EN are written while EN is clear. That a host write is of 8
bytes, and that a write of QCTL reaches the model as the rows QUEUE_ENABLE and QUEUE_DISABLE for its bit 31 and as
REGISTER_WRITE for its other fields, is log entry 33. After a failed signature check FWLEN alone of them is written (R412); that
a length above 0x8_0000 is written as 0x8_0000 is log entry 36. -/
def Obligations.QueueRegisters : Prop :=
  ∀ (s : State) (val : DWord) (port : Fin 2),
    let n := s.num
    let q := s.queue n
    let v := val.toNat
    let set (i : Instr) (q : Queue) := exec i s = .next (s.onQueue n fun _ => q)
    (∀ i ∈ [Instr.submit val, .queueEnable port, .queueDisable, .registerWrite (0x200000 + 64 * n) val],
      uploadOnly s = true → n < 32768 → exec i s = .next s)
    ∧ (uploadOnly s = true → exec (.registerWrite 8 val) s
      = .next { s with station := { s.station with fwLen := min (v % 2 ^ 20) 0x80000 } })
    ∧ (uploadOnly s = false → n < 32768 →
    (q.submit.toNat ≤ v → v - q.taken.toNat ≤ 2 ^ q.log2 → set (.submit val) { q with submit := val })
    ∧ (q.submit.toNat ≤ v → 2 ^ q.log2 < v - q.taken.toNat → set (.submit val) { q with err := true, en := false })
    ∧ (v < q.submit.toNat → exec (.submit val) s = .next s)
    ∧ set (.queueEnable port) { q with en := true, err := false, port := port.val }
    ∧ set .queueDisable { q with en := false }
    ∧ (q.en = false → set (.registerWrite (0x200000 + 64 * n) val) { q with base := BitVec.ofNat 64 (v / 8 * 8) })
    ∧ (q.en = false → set (.registerWrite (0x200000 + 64 * n + 8) val)
        { q with log2 := v / 2 ^ 16 % 2 ^ 4, prio := v / 2 ^ 8 % 2 ^ 3, part := v % 2 ^ 6 })
    ∧ (q.en = true → set (.registerWrite (0x200000 + 64 * n) val) q))

namespace Sys2Proof.Claim

/-- What is left of a launch's place: no launch has its number any more. -/
def Ended (s : State) (id : Nat) : Prop := ∀ m ∈ s.station.launches, m.id ≠ id

end Sys2Proof.Claim

/-- R386, R387, R390, R67, R57, R71, R374, R399: the station reads the oldest record of a queue that holds none back, when no
queue of higher priority has one to be read and it is the turn of this one among those of its priority, and gives it the next
LAUNCH (R400; that it does so when the record's checks end, and where a round of the queues starts, is log entry 33): it waits
to be placed, or is rejected with its reason and counts as done; a launch that waits is placed on all its cores at once when
they are free and no request waits there, with the links that are in use then (not while its partition is another rectangle than
at its record's checks, the model's choice, log entry 33); its entry tasks start; a quiescent one completes
and frees its cores. -/
def Obligations.LaunchRows : Prop :=
  ∀ (s : State) (a : Nat) (l : Launch),
    let q := s.num
    let port := (s.queue q).port
    let r := s.hostRead port a (max 64 (min 16384 (natOfBytes (s.hostRead port (a + 4) 4))))
    let roles := roleRecs s port r
    let why := recordReason s q r roles
    let on (p : Site) (x : RoleLoad) := x ∈ l.roles ∧ p ∈ x.info.rect.sites
    let prio := (s.queue q).prio
    let first := ∀ e ∈ s.station.queues, queueDue s e.1 = true →
      e.2.prio < prio ∨ (e.2.prio = prio ∧ queueAfter s q ≤ queueAfter s e.1)
    (¬ first → nextRecord s q = some a → exec .launchRecord s = .next s)
    ∧ (q ≠ 0 → nextRecord s q = some a → queueHeld s q = false → first → recordReadable r = true →
        ∃ u, exec .launchRecord s = .next u ∧ (u.queue q).taken = (s.queue q).taken + 1
          ∧ assocGet u.station.served prio = some q
          ∧ u.station.nextLaunch = (s.station.nextLaunch + 1) % 2 ^ 32
          ∧ (why = none → (u.queue q).done = (s.queue q).done
            ∧ u.station.launches = s.station.launches ++ [recordLaunch s q r roles] ∧ u.host = s.host)
          ∧ (why ≠ none → (u.queue q).done = (s.queue q).done + 1 ∧ u.station.launches = s.station.launches)
          ∧ u.cores = s.cores)
    ∧ (s.launch s.num = some l → l.phase = .waiting → serving s = true → behind s l = false → rectsFree s l = true →
        pagesFree s l = true → (∀ p ∈ l.sites, (s.core p).msg.requests = []) → ∃ u, exec .launchPlacement s = .next u
          ∧ (u.launch s.num).map (·.phase) = some .placed
          ∧ (∀ p ∈ l.sites, (u.core p).live = true ∧ (∃ x, on p x ∧ (u.core p).role = { x.info with links := s.linksIn })
            ∧ (∀ k, ((u.core p).ctx k).status = .dormant) ∧ ((u.core p).counter 63).value = l.step)
          ∧ (∀ p, p ∉ l.sites → u.core p = s.core p))
    ∧ (s.launch s.num = some l → l.phase = .placed → serving s = true → ∃ u, exec .launchStart s = .next u
        ∧ (u.launch s.num).map (·.phase) = some .running
        ∧ (∀ p x, on p x → (∀ y, on p y → y = x) → ∀ k : CtxNo, k.val < x.info.starts →
            ((u.core p).ctx k).status = .ready ∧ ((u.core p).ctx k).pc = BitVec.ofNat 32 (x.info.tasks.getD k.val 0)
            ∧ ((u.core p).ctx k).rx 1 = x.info.arg ∧ ((u.core p).ctx k).rx 2 = BitVec.ofNat 32 k.val
            ∧ ((u.core p).ctx k).tlevel = 0)
        ∧ (∀ p, p ∉ l.sites → u.core p = s.core p))
    ∧ (s.launch s.num = some l → l.phase = .running → launchQuiescent s l = true → ∃ u, exec .launchComplete s = .next u
        ∧ Ended u s.num ∧ (u.queue l.queue).done = (s.queue l.queue).done + 1 ∧ (∀ p ∈ l.sites, (u.core p).live = false)
        ∧ (∀ p, p ∉ l.sites → u.core p = s.core p))

/-- R147 to R149, R394 to R398: a launch that waits for cores that only lower ones run on, and whose pool has room for what it
displaces, has them halted, when no access of theirs is in flight that a halted core could not perform (that it waits for these is
log entry 35); a drained one that is not complete is saved once its pool has room, each core with all its state but its
scratchpad, in the shadow storage, from which the state of another launch goes to the pool; a saved one comes back as it was
saved, but a context whose saved state the shadow storage lost is killed; a wanted page of a saved launch goes to the pool,
sealed under its ASID's key, and comes back when its bytes are those written, else every context of the core is killed. How
large a saved state is and whose an offset of it is are free values (log entry 35). -/
def Obligations.PreemptionRows : Prop :=
  ∀ (s : State) (l : Launch) (g : Page) (slot : Nat) (e : Evicted),
    let p := s.cur.1
    let n := s.num
    let c := s.here
    let a := (poolOf s l.partition).1 + 1024 * slot
    let plain := c.bytes (1024 * n) 1024
    let cipher := bytesOfNat 1024 (Config.sealPage (keyOf s l.asid) l.asid slot plain).toNat
    let from_ := (poolOf s e.part).1 + 1024 * e.slot
    let room := spillOf s l + (poolUsed s l.partition).length ≤ poolSlots s l.partition
    let back := s.launch n = some l ∧ l.phase = .saved ∧ serving s = true ∧ behind s l = false ∧ rectsFree s l = true
      ∧ (∀ p ∈ l.sites, (s.core p).msg.requests = [])
      ∧ ∀ d ∈ s.station.evicted, d.launch = l.id → 256 ≤ d.page → poolGood s d = true
    let page := assocGet c.scratch.pages n = some g ∧ g.absent = true ∧ g.owner = none ∧ c.live = true
      ∧ (s.station.evicted.find? fun e => e.launch == c.role.launch && e.site == p.toNat && e.page == n) = some e
    (s.launch n = some l → l.phase = .waiting → serving s = true → behind s l = false → fieldsServe s l = true →
        (∀ m ∈ inTheWay s l, m.prio < l.prio ∧ m.phase ≠ .placed ∧ (m.phase = .running → ∀ p ∈ m.sites, lateStuck (s.core p) = false)) →
        poolHolds s l (inTheWay s l) = true → ∃ u, exec .preempt s = .next u
          ∧ (∀ m ∈ inTheWay s l, m.phase = .running → (∀ p ∈ m.sites, (u.core p).halted = true)
            ∧ ∃ m' ∈ u.station.launches, m'.id = m.id ∧ m'.phase = .draining)
          ∧ ∀ p, (u.core p).ctxs = (s.core p).ctxs ∧ (u.core p).scratch = (s.core p).scratch)
    ∧ (s.launch n = some l → l.phase = .draining → drained s l = true → l.cancelled = none → launchQuiescent s l = false →
        (¬ room → exec .drainDone s = .next s)
        ∧ (room → ∃ u, exec .drainDone s = .next u
          ∧ (∃ m ∈ u.station.launches, m.id = l.id ∧ m.phase = .saved ∧ m.saved = l.sites.map fun p => (p.toNat, (s.core p).toSave))
          ∧ ∀ p ∈ l.sites, (u.core p).shadow = some l.id))
    ∧ (back → (∀ e ∈ l.saved, (s.core (BitVec.ofNat 18 e.1)).shadowBad = []) → ∃ u, exec .resume s = .next u
          ∧ (∃ m ∈ u.station.launches, m.id = l.id ∧ m.phase = .running)
          ∧ ∀ e ∈ l.saved, (∀ f ∈ l.saved, BitVec.ofNat 18 f.1 = BitVec.ofNat 18 e.1 → f = e) →
            let d := u.core (BitVec.ofNat 18 e.1)
            d.ctxs = e.2.ctxs ∧ d.halted = false ∧ d.sync = e.2.sync ∧ d.tensor = e.2.tensor ∧ d.slots = e.2.slots)
    ∧ (∀ site core off, back → l.saved = [(site, core)] → (s.core (BitVec.ofNat 18 site)).shadow = some l.id →
        (s.core (BitVec.ofNat 18 site)).shadowBad = [off] → (core.ctx (Config.shadowOwner off)).status ≠ .dormant →
        ∃ u, exec .resume s = .next u ∧ (∃ m ∈ u.station.launches, m.id = l.id ∧ m.phase = .running)
          ∧ ((u.core (BitVec.ofNat 18 site)).ctx (Config.shadowOwner off)).status = .dormant
          ∧ ∀ k ≠ Config.shadowOwner off, (u.core (BitVec.ofNat 18 site)).ctx k = core.ctx k)
    ∧ (assocGet c.scratch.pages n = some g → g.owner.bind s.launch = some l → l.phase = .saved → pageWanted s p n g = true →
        freePoolSlot s l.partition = some slot → ∃ u, exec .pageEviction s = .next u
          ∧ (∃ d, u.station.evicted = d :: s.station.evicted ∧ d.launch = l.id ∧ d.site = p.toNat ∧ d.page = n
            ∧ d.slot = slot ∧ d.plain = plain ∧ d.cipher = cipher)
          ∧ (s.edge.wf = true → readBytes u.edge a 1024 = cipher) ∧ u.here.ctxs = c.ctxs)
    ∧ (page → poolGood s e = false → (∀ k, vecPending c k = false) → ∃ u, exec .pageRestore s = .next u
        ∧ (∀ k, (u.here.ctx k).status = .dormant) ∧ u.here.scratch.mem = c.scratch.mem)
    ∧ (page → readBytes s.edge from_ 1024 = e.cipher → deviceBad s from_ 1024 = false → e.bad = [] →
        ∃ u, exec .pageRestore s = .next u
          ∧ assocGet u.here.scratch.pages n = some { owner := some c.role.launch, absent := false }
          ∧ (c.scratch.mem.wf = true → u.here.bytes (1024 * n) e.plain.length = e.plain)
          ∧ u.station.evicted = s.station.evicted.filter (· != e) ∧ u.here.ctxs = c.ctxs)

/-- R361, R378, R388, R391, R399, R414, R416: the oldest record of queue 0 is performed and answered at its COMPL with status 0:
partitions are configured, translations dropped, a window written, an ASID retired, a measurement register extended, a report
signed, a launch cancelled: one that waits ends at once, one that runs has its contexts killed, and a LAUNCH that names none is
refused with reason 16. Where the arguments stand in a record is the model's choice (log entry 34). -/
def Obligations.AdministrationCommands : Prop :=
  ∀ (s t : State) (a : Nat) (l : Launch) (ps : List Partition),
    let r := s.hostRead (s.queue 0).port a adminBytes
    let is (code : Nat) := nextRecord s 0 = some a ∧ queueTurn s 0 = true ∧ adminReadable r = true ∧ fieldAt r 4 4 = code
    let answered (u : State) : State := (u.take 0).completion 0 (fieldAt r 8 8) 64 0 0 0 []
    let asid := fieldAt r 16 4
    let start := fieldAt r 24 8
    let len := fieldAt r 32 8
    let v := fieldAt r 48 4
    let window : Window :=
      { base := fieldAt r 16 8, size := fieldAt r 24 8, home := fieldAt r 32 8, hbase := fieldAt r 40 8
        rop := v % 2 ^ 2, xw := v / 2 ^ 2 % 2 ^ 12, k := v / 2 ^ 14 % 2 ^ 18 + 1 }
    let nonce := (r.drop 16).take 32
    let body := attestBody s.station nonce
    (is 1 → recPartitions r = some ps → configure s r = some (t, none) →
        exec .configurePartitions s = .next (answered t) ∧ t.station.partitions = ps)
    ∧ (is 2 → asid < 8192 → translatedFor s asid = false →
        exec .invalidateTranslations s = .next (answered { s with caches := s.caches.filter fun c =>
          !(c.asid == asid && (len == 0 || decide (c.page < start + len ∧ start < c.page + c.size))) }))
    ∧ (is 3 → window.rop ≤ 1 → window.k ≤ 2 ^ 17 → window.home ∈ s.modules → exec .writeReductionWindow s
        = .next (answered { s with windows := window :: s.windows.filter fun u =>
            !(u.base == window.base && u.size == window.size) }))
    ∧ (is 4 → s.launch asid = none →
        exec .cancelLaunch s = .next ((s.take 0).completion 0 (fieldAt r 8 8) 64 0 1 16 []))
    ∧ (is 4 → s.launch asid = some l → l.phase = .waiting →
        exec .cancelLaunch s = .next (answered (s.finish l 2 0)) ∧ Ended (answered (s.finish l 2 0)) asid)
    ∧ (is 4 → s.launch asid = some l → l.phase = .running → launchBusy s l = false → ∃ w u, exec .cancelLaunch s = .next u
        ∧ u = answered w ∧ w.host = s.host ∧ (∃ m ∈ u.station.launches, m.id = l.id ∧ m.cancelled.isSome = true)
        ∧ ∀ p ∈ l.sites, ∀ k, ((u.core p).ctx k).status = .dormant)
    ∧ (is 5 → asid < 8192 → (∀ l ∈ s.station.launches, l.asid = asid → l.resident = false ∧ l.phase ≠ .saved) →
        exec .retireAsid s = .next (answered { s with
          station := { s.station with asids := s.station.asids.filter fun x => x.1 != asid }
          caches := s.caches.filter fun c => c.asid != asid }))
    ∧ (is 6 → fieldAt r 48 8 % 64 = 0 → exec .attest s = .next (answered (s.hostWrite (s.queue 0).port (fieldAt r 48 8)
        (body ++ (bytesOfNat 96 (Config.attestSignature body).toNat).reverse))))
    ∧ (is 7 → 3 ≤ asid → asid ≤ 7 → exec .extend s = .next (answered { s with station := { s.station with
        mr := vset s.station.mr asid (Config.sha384 (digestBytes (vget s.station.mr asid) ++ (r.drop 20).take 48)) } }))

/-! ## The stations -/

/-- R12, R202, R407 to R413: an operating point moves with the occupancy of the seams, down for all fields at too much power;
while that clamp holds no other field moves up at the end of a self-test, and in full service fields left at 0.55 GHz go to 1.1
GHz when the clamp ends (log entry 36); a field under test enters service with at most one bad column a half, and else is
withdrawn; GO and power-on reset verify an image and bring the module up or leave it failed; a watchdog interval with progress
begins anew, and one with none is reported; a coolant fault fails the module and halts its launches, and those not started never
start; a lost field is withdrawn, every launch on it or routed through it ends, and another goes on (which fields a launch is
routed through is log entry 21). -/
def Obligations.StationRows : Prop :=
  ∀ (s : State) (occ watts amps : Nat) (test : SelfTest) (q : Partition),
    let n := s.num
    let f := s.field n
    let st := s.station
    let img := readBytes st.window 0 st.fwLen
    let verified : Station := if imageAccepted st img then bringUp s.variant st img else { st with fwBad := true }
    let blank : Station := Station.extend { Station.reset with minSvn := st.minSvn, firmware := st.firmware } 0 Config.loaderMeasure
    let cores := s.cores.filter fun e => e.2.live && (partRectOf q).has (BitVec.ofNat 18 e.1)
    let lower (g : Field) : Field := if g.state = .service ∧ g.opp ≤ 10 then { g with opp := g.opp - 1 } else g
    let full (g : Field) : Field := if g.state = .service ∧ g.opp = 15 then { g with opp := 10 } else g
    let level0 := ∀ e ∈ cores, ∀ k, (e.2.ctx k).tlevel = 0
    let entries := (cores.flatMap fun e => waitEntries e.1 e.2) ++ cores.flatMap fun e => heldEntries e.1 e.2
    (n < 64 → st.state = .full → f.state = .service → f.opp ≤ 10 →
        (49152 < occ → st.clamped = false →
          exec (.governor occ) s = .next (s.onField n fun f => { f with opp := min 10 (f.opp + 1) }))
        ∧ (occ < 16384 → exec (.governor occ) s = .next (s.onField n fun f => { f with opp := f.opp - 1 }))
        ∧ (16384 ≤ occ → occ ≤ 49152 → exec (.governor occ) s = .next s))
    ∧ ((8000 < watts ∨ 16000 < amps) → ∃ u, exec (.powerSample watts amps) s = .next u ∧ u.station.clamped = true
        ∧ ∀ k < 64, vget u.station.fields k = lower (s.field k))
    ∧ (watts < 7600 → amps ≤ 16000 → ∃ u, exec (.powerSample watts amps) s = .next u
        ∧ u.station.fields = (if st.state = .full ∧ st.clamped = true ∧ 100 ≤ st.lowSamples + 1 then st.fields.map full else st.fields)
        ∧ (u.station.clamped = true ↔ st.clamped = true ∧ st.lowSamples + 1 < 100))
    ∧ (n < 64 → f.state = .testing → ∃ u, exec (.fieldSelfTest test) s = .next u
        ∧ (u.field n).state = (if test.west.eraseDups.length ≤ 1 ∧ test.east.eraseDups.length ≤ 1 then .service else .withdrawn)
        ∧ (st.clamped = true → ∀ k < 64, k ≠ n → u.field k = s.field k))
    ∧ (uploadOnly s = true → exec .go s = .next { s with station := verified })
    ∧ (∃ u, exec .powerOnReset s = .next u ∧ u.cores = [] ∧ u.mesh = [] ∧ u.edge = s.edge ∧ u.host = s.host
        ∧ (imageAccepted blank st.firmware = true → u.station.state = .reduced ∧ u.station.sigOk = true
          ∧ ∀ k < 64, presentField s.variant k = true → (u.field k).state = .testing)
        ∧ (imageAccepted blank st.firmware = false → u.station.state = .failed ∧ u.station.sigOk = false ∧ uploadOnly u = true))
    ∧ (uploadOnly s = false → exec .go s = .next s)
    ∧ (st.partitions[n]? = some q → level0 → (∀ e ∈ cores, e.2.progress = false) → entries ≠ [] →
        exec .progressWatchdog s = .next { s with station := { st with reports := (n, entries.take 64) :: st.reports } })
    ∧ (st.partitions[n]? = some q → (∃ e ∈ cores, e.2.progress = true) → ∃ u, exec .progressWatchdog s = .next u
        ∧ (∀ e ∈ cores, (u.core (BitVec.ofNat 18 e.1)).progress = false) ∧ u.station = st)
    ∧ (∃ u, exec .coolantFault s = .next u ∧ u.station.state = .failed
        ∧ ∀ l ∈ st.launches, l.resident = true → (∀ p ∈ l.sites, (u.core p).halted = true)
          ∧ ∃ m ∈ u.station.launches, m.id = l.id ∧ (l.phase ≠ .placed → m.phase = .draining)
            ∧ (l.phase = .placed → m.phase = .placed ∧ (s.launch l.id = some l → exec .launchStart { u with num := l.id } = .next { u with num := l.id })))
    ∧ (n < 64 → f.state = .service → ∃ u, exec .fieldLoss s = .next u ∧ (u.field n).state = .withdrawn
        ∧ (∀ l ∈ st.launches, l.resident = true → (∃ r ∈ l.rects ++ l.reach s, r.meets (fieldRect n) = true) → Ended u l.id)
        ∧ (∀ l ∈ st.launches, l.phase = .saved → (∃ r ∈ l.rects ++ l.reach (s.unsaved l), r.meets (fieldRect n) = true) → Ended u l.id)
        ∧ ∀ l ∈ st.launches, l.resident = true → (∀ m ∈ st.launches, m.id = l.id → m = l) →
            (∀ r ∈ l.reach s, r.meets (fieldRect n) = false) → ∃ m ∈ u.station.launches, m.id = l.id ∧ m.phase = l.phase)
end

