-- ==== Sys2Proof/Laws/Mem.lean ====
section
/-!
SUPPORT. Association lists, memories and their canonical form: a read after a write, and that every memory operation keeps
the form.
-/
set_option Elab.async false
set_option linter.unusedSimpArgs false

namespace Sys2Proof.Machine
open Sys2Proof

/-! ## Association lists -/

@[simp] theorem assocGet_assocSet_self {α : Type} (l : List (Nat × α)) (k : Nat) (v : α) :
    assocGet (assocSet l k v) k = some v := by
  induction l with
  | nil => simp [assocSet, assocGet]
  | cons e l ih =>
    obtain ⟨j, w⟩ := e
    unfold assocSet
    split
    · simp [assocGet]
    · split
      · simp [assocGet]
      · simp [assocGet, *]

theorem assocGet_assocSet_ne {α : Type} (l : List (Nat × α)) (k m : Nat) (v : α) (h : m ≠ k) :
    assocGet (assocSet l k v) m = assocGet l m := by
  induction l with
  | nil => simp [assocSet, assocGet, h.symm]
  | cons e l ih =>
    obtain ⟨j, w⟩ := e
    unfold assocSet
    split
    · simp [assocGet, h.symm]
    · split
      · subst_vars; simp [assocGet, h.symm]
      · simp [assocGet, ih]

/-! ## The canonical form -/

theorem memWfFrom_mono {m : Mem} {a b : Nat} (h : memWfFrom b m = true) (le : a ≤ b) : memWfFrom a m = true := by
  cases m with
  | nil => rfl
  | cons e l =>
    obtain ⟨j, c⟩ := e
    simp only [memWfFrom, Bool.and_eq_true, decide_eq_true_eq] at h ⊢
    exact ⟨⟨by omega, h.1.2⟩, h.2⟩

/-- A write from an address on keeps the form from any lower address on. -/
theorem memWfFrom_memSet {m : Mem} {lo a : Nat} {b : Byte} (h : memWfFrom lo m = true) (le : lo ≤ a) :
    memWfFrom lo (memSet m a b) = true := by
  induction m generalizing lo with
  | nil => by_cases hb : b = 0#8 <;> simp [memSet, memWfFrom, hb, le]
  | cons e l ih =>
    obtain ⟨j, c⟩ := e
    simp only [memWfFrom, Bool.and_eq_true, decide_eq_true_eq] at h
    obtain ⟨⟨hj, hc⟩, hl⟩ := h
    unfold memSet
    split
    · rename_i hlt
      by_cases hb : b = 0#8
      · simp [hb, memWfFrom, hj, hl]; simpa using hc
      · simp only [show ¬ (b = 0) from hb, if_false, memWfFrom, Bool.and_eq_true, decide_eq_true_eq, bne_iff_ne]
        exact ⟨⟨le, hb⟩, ⟨by omega, by simpa using hc⟩, hl⟩
    · split
      · subst_vars
        by_cases hb : b = 0#8
        · subst hb
          exact memWfFrom_mono hl (by omega)
        · simp only [show ¬ (b = 0) from hb, if_false, memWfFrom, Bool.and_eq_true, decide_eq_true_eq, bne_iff_ne]
          exact ⟨⟨le, hb⟩, hl⟩
      · simp only [memWfFrom, Bool.and_eq_true, decide_eq_true_eq]
        exact ⟨⟨hj, hc⟩, ih hl (by omega)⟩

theorem wf_memSet {m : Mem} (a : Nat) (b : Byte) (h : m.wf = true) : (memSet m a b).wf = true :=
  memWfFrom_memSet h (Nat.zero_le a)

theorem wf_writeBytes {m : Mem} (a : Nat) (bs : List Byte) (h : m.wf = true) : (writeBytes m a bs).wf = true := by
  induction bs generalizing m a with
  | nil => exact h
  | cons b bs ih => exact ih (a + 1) (wf_memSet a b h)

theorem wf_writeNat {m : Mem} (a n v : Nat) (h : m.wf = true) : (writeNat m a n v).wf = true := wf_writeBytes a _ h

/-! ## Reading after writing -/

theorem assocGet_none_of_wf {m : Mem} {lo a : Nat} (h : memWfFrom lo m = true) (lt : a < lo) : assocGet m a = none := by
  induction m generalizing lo with
  | nil => rfl
  | cons e l ih =>
    obtain ⟨j, c⟩ := e
    simp only [memWfFrom, Bool.and_eq_true, decide_eq_true_eq] at h
    have : j ≠ a := by omega
    simp only [assocGet, if_neg this]
    exact ih h.2 (by omega)

theorem memGet_memSet_self_from {m : Mem} {lo : Nat} (a : Nat) (b : Byte) (h : memWfFrom lo m = true) :
    memGet (memSet m a b) a = b := by
  induction m generalizing lo with
  | nil => by_cases hb : b = 0#8 <;> simp [memGet, memSet, assocGet, hb]
  | cons e l ih =>
    obtain ⟨j, c⟩ := e
    simp only [memWfFrom, Bool.and_eq_true, decide_eq_true_eq] at h
    unfold memSet
    split
    · rename_i hlt
      by_cases hb : b = 0#8
      · have hn := assocGet_none_of_wf h.2 (show a < j + 1 by omega)
        simp [hb, memGet, assocGet, hn, show j ≠ a by omega]
      · simp [hb, memGet, assocGet]
    · split
      · subst_vars
        by_cases hb : b = 0#8
        · have hn := assocGet_none_of_wf h.2 (show j < j + 1 by omega)
          simp [hb, memGet, hn]
        · simp [hb, memGet, assocGet]
      · rename_i h1 h2
        have := ih h.2
        simpa [memGet, assocGet, h2] using this

/-- A byte just written reads as written. -/
theorem memGet_memSet_self {m : Mem} (a : Nat) (b : Byte) (h : m.wf = true) : memGet (memSet m a b) a = b :=
  memGet_memSet_self_from a b h

/-- A write leaves every other byte alone. -/
theorem memGet_memSet_ne (m : Mem) (a c : Nat) (b : Byte) (h : c ≠ a) : memGet (memSet m a b) c = memGet m c := by
  induction m with
  | nil => by_cases hb : b = 0#8 <;> simp [memGet, memSet, assocGet, hb, h.symm]
  | cons e l ih =>
    obtain ⟨j, d⟩ := e
    unfold memSet
    split
    · by_cases hb : b = 0#8 <;> simp [memGet, assocGet, hb, h.symm]
    · split
      · subst_vars
        by_cases hb : b = 0#8 <;> simp [memGet, assocGet, hb, h.symm]
      · by_cases hj : j = c
        · simp [memGet, assocGet, hj]
        · simpa [memGet, assocGet, hj] using ih

/-- Writing n bytes from a leaves every byte outside them alone. -/
theorem memGet_writeBytes_outside (m : Mem) (a c : Nat) (bs : List Byte) (h : c < a ∨ a + bs.length ≤ c) :
    memGet (writeBytes m a bs) c = memGet m c := by
  induction bs generalizing m a with
  | nil => rfl
  | cons b bs ih =>
    simp only [List.length_cons] at h
    rw [writeBytes, ih _ _ (by omega), memGet_memSet_ne _ _ _ _ (by omega)]

/-- The bytes written are read back. -/
theorem readBytes_writeBytes {m : Mem} (a : Nat) (bs : List Byte) (h : m.wf = true) :
    readBytes (writeBytes m a bs) a bs.length = bs := by
  induction bs generalizing m a with
  | nil => rfl
  | cons b bs ih =>
    simp only [List.length_cons, readBytes, writeBytes]
    rw [memGet_writeBytes_outside _ _ _ _ (by omega), memGet_memSet_self a b h, ih (a + 1) (wf_memSet a b h)]

theorem readBytes_congr {m n : Mem} (a k : Nat) (h : ∀ c, a ≤ c → c < a + k → memGet m c = memGet n c) :
    readBytes m a k = readBytes n a k := by
  induction k generalizing a with
  | zero => rfl
  | succ k ih =>
    simp only [readBytes]
    rw [h a (by omega) (by omega), ih (a + 1) fun c h1 h2 => h c (by omega) (by omega)]

/-- Bytes read outside those written are as before. -/
theorem readBytes_writeBytes_outside (m : Mem) (a c k : Nat) (bs : List Byte) (h : c + k ≤ a ∨ a + bs.length ≤ c) :
    readBytes (writeBytes m a bs) c k = readBytes m c k :=
  readBytes_congr c k fun d h1 h2 => memGet_writeBytes_outside m a d bs (by omega)

@[simp] theorem length_readBytes (m : Mem) (a n : Nat) : (readBytes m a n).length = n := by
  induction n generalizing a with
  | zero => rfl
  | succ n ih => simp [readBytes, ih]

/-! ## Numbers and bytes -/

@[simp] theorem length_bytesOfNat (n v : Nat) : (bytesOfNat n v).length = n := by
  induction n generalizing v with
  | zero => rfl
  | succ n ih => simp [bytesOfNat, ih]

theorem natOfBytes_bytesOfNat (n v : Nat) : natOfBytes (bytesOfNat n v) = v % 256 ^ n := by
  induction n generalizing v with
  | zero => simp [bytesOfNat, natOfBytes, Nat.mod_one]
  | succ n ih =>
    have h : v % 256 % 2 ^ 8 = v % 256 := by omega
    rw [bytesOfNat, natOfBytes, ih, BitVec.toNat_ofNat, h, Nat.pow_succ', Nat.mod_mul]

/-- The number stored reads back, modulo its width. -/
theorem readNat_writeNat {m : Mem} (a n v : Nat) (h : m.wf = true) : readNat (writeNat m a n v) a n = v % 256 ^ n := by
  have := readBytes_writeBytes a (bytesOfNat n v) h
  rw [length_bytesOfNat] at this
  rw [readNat, writeNat, this, natOfBytes_bytesOfNat]

end Sys2Proof.Machine
end

