-- ==== Sys2Proof/Laws/State.lean ====
section
/-!
SUPPORT. What each update of the state, of a core and of a context leaves as it was: one lemma for each field, true by
unfolding, so that no later proof unfolds a record update.
-/
set_option Elab.async false

namespace Sys2Proof.Machine
open Sys2Proof

@[simp] theorem State.setCore_variant (s : State) (p : Site) (c : Core) : (s.setCore p c).variant = s.variant := rfl
@[simp] theorem State.setCore_sysNum (s : State) (p : Site) (c : Core) : (s.setCore p c).sysNum = s.sysNum := rfl
@[simp] theorem State.setCore_modules (s : State) (p : Site) (c : Core) : (s.setCore p c).modules = s.modules := rfl
@[simp] theorem State.setCore_mesh (s : State) (p : Site) (c : Core) : (s.setCore p c).mesh = s.mesh := rfl
@[simp] theorem State.setCore_heldArrivals (s : State) (p : Site) (c : Core) : (s.setCore p c).heldArrivals = s.heldArrivals := rfl
@[simp] theorem State.setCore_links (s : State) (p : Site) (c : Core) : (s.setCore p c).links = s.links := rfl
@[simp] theorem State.setCore_windows (s : State) (p : Site) (c : Core) : (s.setCore p c).windows = s.windows := rfl
@[simp] theorem State.setCore_contributions (s : State) (p : Site) (c : Core) : (s.setCore p c).contributions = s.contributions := rfl
@[simp] theorem State.setCore_merges (s : State) (p : Site) (c : Core) : (s.setCore p c).merges = s.merges := rfl
@[simp] theorem State.setCore_merged (s : State) (p : Site) (c : Core) : (s.setCore p c).merged = s.merged := rfl
@[simp] theorem State.setCore_edge (s : State) (p : Site) (c : Core) : (s.setCore p c).edge = s.edge := rfl
@[simp] theorem State.setCore_portSize (s : State) (p : Site) (c : Core) : (s.setCore p c).portSize = s.portSize := rfl
@[simp] theorem State.setCore_edgeBad (s : State) (p : Site) (c : Core) : (s.setCore p c).edgeBad = s.edgeBad := rfl
@[simp] theorem State.setCore_edgeReqs (s : State) (p : Site) (c : Core) : (s.setCore p c).edgeReqs = s.edgeReqs := rfl
@[simp] theorem State.setCore_caches (s : State) (p : Site) (c : Core) : (s.setCore p c).caches = s.caches := rfl
@[simp] theorem State.setCore_host (s : State) (p : Site) (c : Core) : (s.setCore p c).host = s.host := rfl
@[simp] theorem State.setCore_station (s : State) (p : Site) (c : Core) : (s.setCore p c).station = s.station := rfl
@[simp] theorem State.setCore_cur (s : State) (p : Site) (c : Core) : (s.setCore p c).cur = s.cur := rfl
@[simp] theorem State.setCore_num (s : State) (p : Site) (c : Core) : (s.setCore p c).num = s.num := rfl
@[simp] theorem State.setCore_agenda (s : State) (p : Site) (c : Core) : (s.setCore p c).agenda = s.agenda := rfl
@[simp] theorem State.setCore_freeCount (s : State) (p : Site) (c : Core) : (s.setCore p c).freeCount = s.freeCount := rfl

@[simp] theorem State.onCore_variant (s : State) (p : Site) (f : Core → Core) : (s.onCore p f).variant = s.variant := rfl
@[simp] theorem State.onCore_sysNum (s : State) (p : Site) (f : Core → Core) : (s.onCore p f).sysNum = s.sysNum := rfl
@[simp] theorem State.onCore_modules (s : State) (p : Site) (f : Core → Core) : (s.onCore p f).modules = s.modules := rfl
@[simp] theorem State.onCore_mesh (s : State) (p : Site) (f : Core → Core) : (s.onCore p f).mesh = s.mesh := rfl
@[simp] theorem State.onCore_heldArrivals (s : State) (p : Site) (f : Core → Core) : (s.onCore p f).heldArrivals = s.heldArrivals := rfl
@[simp] theorem State.onCore_links (s : State) (p : Site) (f : Core → Core) : (s.onCore p f).links = s.links := rfl
@[simp] theorem State.onCore_windows (s : State) (p : Site) (f : Core → Core) : (s.onCore p f).windows = s.windows := rfl
@[simp] theorem State.onCore_contributions (s : State) (p : Site) (f : Core → Core) : (s.onCore p f).contributions = s.contributions := rfl
@[simp] theorem State.onCore_merges (s : State) (p : Site) (f : Core → Core) : (s.onCore p f).merges = s.merges := rfl
@[simp] theorem State.onCore_merged (s : State) (p : Site) (f : Core → Core) : (s.onCore p f).merged = s.merged := rfl
@[simp] theorem State.onCore_edge (s : State) (p : Site) (f : Core → Core) : (s.onCore p f).edge = s.edge := rfl
@[simp] theorem State.onCore_portSize (s : State) (p : Site) (f : Core → Core) : (s.onCore p f).portSize = s.portSize := rfl
@[simp] theorem State.onCore_edgeBad (s : State) (p : Site) (f : Core → Core) : (s.onCore p f).edgeBad = s.edgeBad := rfl
@[simp] theorem State.onCore_edgeReqs (s : State) (p : Site) (f : Core → Core) : (s.onCore p f).edgeReqs = s.edgeReqs := rfl
@[simp] theorem State.onCore_caches (s : State) (p : Site) (f : Core → Core) : (s.onCore p f).caches = s.caches := rfl
@[simp] theorem State.onCore_host (s : State) (p : Site) (f : Core → Core) : (s.onCore p f).host = s.host := rfl
@[simp] theorem State.onCore_station (s : State) (p : Site) (f : Core → Core) : (s.onCore p f).station = s.station := rfl
@[simp] theorem State.onCore_cur (s : State) (p : Site) (f : Core → Core) : (s.onCore p f).cur = s.cur := rfl
@[simp] theorem State.onCore_num (s : State) (p : Site) (f : Core → Core) : (s.onCore p f).num = s.num := rfl
@[simp] theorem State.onCore_agenda (s : State) (p : Site) (f : Core → Core) : (s.onCore p f).agenda = s.agenda := rfl
@[simp] theorem State.onCore_freeCount (s : State) (p : Site) (f : Core → Core) : (s.onCore p f).freeCount = s.freeCount := rfl

@[simp] theorem State.onHere_variant (s : State) (f : Core → Core) : (s.onHere f).variant = s.variant := rfl
@[simp] theorem State.onHere_sysNum (s : State) (f : Core → Core) : (s.onHere f).sysNum = s.sysNum := rfl
@[simp] theorem State.onHere_modules (s : State) (f : Core → Core) : (s.onHere f).modules = s.modules := rfl
@[simp] theorem State.onHere_mesh (s : State) (f : Core → Core) : (s.onHere f).mesh = s.mesh := rfl
@[simp] theorem State.onHere_heldArrivals (s : State) (f : Core → Core) : (s.onHere f).heldArrivals = s.heldArrivals := rfl
@[simp] theorem State.onHere_links (s : State) (f : Core → Core) : (s.onHere f).links = s.links := rfl
@[simp] theorem State.onHere_windows (s : State) (f : Core → Core) : (s.onHere f).windows = s.windows := rfl
@[simp] theorem State.onHere_contributions (s : State) (f : Core → Core) : (s.onHere f).contributions = s.contributions := rfl
@[simp] theorem State.onHere_merges (s : State) (f : Core → Core) : (s.onHere f).merges = s.merges := rfl
@[simp] theorem State.onHere_merged (s : State) (f : Core → Core) : (s.onHere f).merged = s.merged := rfl
@[simp] theorem State.onHere_edge (s : State) (f : Core → Core) : (s.onHere f).edge = s.edge := rfl
@[simp] theorem State.onHere_portSize (s : State) (f : Core → Core) : (s.onHere f).portSize = s.portSize := rfl
@[simp] theorem State.onHere_edgeBad (s : State) (f : Core → Core) : (s.onHere f).edgeBad = s.edgeBad := rfl
@[simp] theorem State.onHere_edgeReqs (s : State) (f : Core → Core) : (s.onHere f).edgeReqs = s.edgeReqs := rfl
@[simp] theorem State.onHere_caches (s : State) (f : Core → Core) : (s.onHere f).caches = s.caches := rfl
@[simp] theorem State.onHere_host (s : State) (f : Core → Core) : (s.onHere f).host = s.host := rfl
@[simp] theorem State.onHere_station (s : State) (f : Core → Core) : (s.onHere f).station = s.station := rfl
@[simp] theorem State.onHere_cur (s : State) (f : Core → Core) : (s.onHere f).cur = s.cur := rfl
@[simp] theorem State.onHere_num (s : State) (f : Core → Core) : (s.onHere f).num = s.num := rfl
@[simp] theorem State.onHere_agenda (s : State) (f : Core → Core) : (s.onHere f).agenda = s.agenda := rfl
@[simp] theorem State.onHere_freeCount (s : State) (f : Core → Core) : (s.onHere f).freeCount = s.freeCount := rfl

@[simp] theorem State.onMe_variant (s : State) (f : Ctx → Ctx) : (s.onMe f).variant = s.variant := rfl
@[simp] theorem State.onMe_sysNum (s : State) (f : Ctx → Ctx) : (s.onMe f).sysNum = s.sysNum := rfl
@[simp] theorem State.onMe_modules (s : State) (f : Ctx → Ctx) : (s.onMe f).modules = s.modules := rfl
@[simp] theorem State.onMe_mesh (s : State) (f : Ctx → Ctx) : (s.onMe f).mesh = s.mesh := rfl
@[simp] theorem State.onMe_heldArrivals (s : State) (f : Ctx → Ctx) : (s.onMe f).heldArrivals = s.heldArrivals := rfl
@[simp] theorem State.onMe_links (s : State) (f : Ctx → Ctx) : (s.onMe f).links = s.links := rfl
@[simp] theorem State.onMe_windows (s : State) (f : Ctx → Ctx) : (s.onMe f).windows = s.windows := rfl
@[simp] theorem State.onMe_contributions (s : State) (f : Ctx → Ctx) : (s.onMe f).contributions = s.contributions := rfl
@[simp] theorem State.onMe_merges (s : State) (f : Ctx → Ctx) : (s.onMe f).merges = s.merges := rfl
@[simp] theorem State.onMe_merged (s : State) (f : Ctx → Ctx) : (s.onMe f).merged = s.merged := rfl
@[simp] theorem State.onMe_edge (s : State) (f : Ctx → Ctx) : (s.onMe f).edge = s.edge := rfl
@[simp] theorem State.onMe_portSize (s : State) (f : Ctx → Ctx) : (s.onMe f).portSize = s.portSize := rfl
@[simp] theorem State.onMe_edgeBad (s : State) (f : Ctx → Ctx) : (s.onMe f).edgeBad = s.edgeBad := rfl
@[simp] theorem State.onMe_edgeReqs (s : State) (f : Ctx → Ctx) : (s.onMe f).edgeReqs = s.edgeReqs := rfl
@[simp] theorem State.onMe_caches (s : State) (f : Ctx → Ctx) : (s.onMe f).caches = s.caches := rfl
@[simp] theorem State.onMe_host (s : State) (f : Ctx → Ctx) : (s.onMe f).host = s.host := rfl
@[simp] theorem State.onMe_station (s : State) (f : Ctx → Ctx) : (s.onMe f).station = s.station := rfl
@[simp] theorem State.onMe_cur (s : State) (f : Ctx → Ctx) : (s.onMe f).cur = s.cur := rfl
@[simp] theorem State.onMe_num (s : State) (f : Ctx → Ctx) : (s.onMe f).num = s.num := rfl
@[simp] theorem State.onMe_agenda (s : State) (f : Ctx → Ctx) : (s.onMe f).agenda = s.agenda := rfl
@[simp] theorem State.onMe_freeCount (s : State) (f : Ctx → Ctx) : (s.onMe f).freeCount = s.freeCount := rfl

@[simp] theorem State.advance_variant (s : State) (i : Instr) : (s.advance i).variant = s.variant := rfl
@[simp] theorem State.advance_sysNum (s : State) (i : Instr) : (s.advance i).sysNum = s.sysNum := rfl
@[simp] theorem State.advance_modules (s : State) (i : Instr) : (s.advance i).modules = s.modules := rfl
@[simp] theorem State.advance_mesh (s : State) (i : Instr) : (s.advance i).mesh = s.mesh := rfl
@[simp] theorem State.advance_heldArrivals (s : State) (i : Instr) : (s.advance i).heldArrivals = s.heldArrivals := rfl
@[simp] theorem State.advance_links (s : State) (i : Instr) : (s.advance i).links = s.links := rfl
@[simp] theorem State.advance_windows (s : State) (i : Instr) : (s.advance i).windows = s.windows := rfl
@[simp] theorem State.advance_contributions (s : State) (i : Instr) : (s.advance i).contributions = s.contributions := rfl
@[simp] theorem State.advance_merges (s : State) (i : Instr) : (s.advance i).merges = s.merges := rfl
@[simp] theorem State.advance_merged (s : State) (i : Instr) : (s.advance i).merged = s.merged := rfl
@[simp] theorem State.advance_edge (s : State) (i : Instr) : (s.advance i).edge = s.edge := rfl
@[simp] theorem State.advance_portSize (s : State) (i : Instr) : (s.advance i).portSize = s.portSize := rfl
@[simp] theorem State.advance_edgeBad (s : State) (i : Instr) : (s.advance i).edgeBad = s.edgeBad := rfl
@[simp] theorem State.advance_edgeReqs (s : State) (i : Instr) : (s.advance i).edgeReqs = s.edgeReqs := rfl
@[simp] theorem State.advance_caches (s : State) (i : Instr) : (s.advance i).caches = s.caches := rfl
@[simp] theorem State.advance_host (s : State) (i : Instr) : (s.advance i).host = s.host := rfl
@[simp] theorem State.advance_station (s : State) (i : Instr) : (s.advance i).station = s.station := rfl
@[simp] theorem State.advance_cur (s : State) (i : Instr) : (s.advance i).cur = s.cur := rfl
@[simp] theorem State.advance_num (s : State) (i : Instr) : (s.advance i).num = s.num := rfl
@[simp] theorem State.advance_agenda (s : State) (i : Instr) : (s.advance i).agenda = s.agenda := rfl
@[simp] theorem State.advance_freeCount (s : State) (i : Instr) : (s.advance i).freeCount = s.freeCount := rfl

@[simp] theorem State.setPc_variant (s : State) (pc : Word) : (s.setPc pc).variant = s.variant := rfl
@[simp] theorem State.setPc_sysNum (s : State) (pc : Word) : (s.setPc pc).sysNum = s.sysNum := rfl
@[simp] theorem State.setPc_modules (s : State) (pc : Word) : (s.setPc pc).modules = s.modules := rfl
@[simp] theorem State.setPc_mesh (s : State) (pc : Word) : (s.setPc pc).mesh = s.mesh := rfl
@[simp] theorem State.setPc_heldArrivals (s : State) (pc : Word) : (s.setPc pc).heldArrivals = s.heldArrivals := rfl
@[simp] theorem State.setPc_links (s : State) (pc : Word) : (s.setPc pc).links = s.links := rfl
@[simp] theorem State.setPc_windows (s : State) (pc : Word) : (s.setPc pc).windows = s.windows := rfl
@[simp] theorem State.setPc_contributions (s : State) (pc : Word) : (s.setPc pc).contributions = s.contributions := rfl
@[simp] theorem State.setPc_merges (s : State) (pc : Word) : (s.setPc pc).merges = s.merges := rfl
@[simp] theorem State.setPc_merged (s : State) (pc : Word) : (s.setPc pc).merged = s.merged := rfl
@[simp] theorem State.setPc_edge (s : State) (pc : Word) : (s.setPc pc).edge = s.edge := rfl
@[simp] theorem State.setPc_portSize (s : State) (pc : Word) : (s.setPc pc).portSize = s.portSize := rfl
@[simp] theorem State.setPc_edgeBad (s : State) (pc : Word) : (s.setPc pc).edgeBad = s.edgeBad := rfl
@[simp] theorem State.setPc_edgeReqs (s : State) (pc : Word) : (s.setPc pc).edgeReqs = s.edgeReqs := rfl
@[simp] theorem State.setPc_caches (s : State) (pc : Word) : (s.setPc pc).caches = s.caches := rfl
@[simp] theorem State.setPc_host (s : State) (pc : Word) : (s.setPc pc).host = s.host := rfl
@[simp] theorem State.setPc_station (s : State) (pc : Word) : (s.setPc pc).station = s.station := rfl
@[simp] theorem State.setPc_cur (s : State) (pc : Word) : (s.setPc pc).cur = s.cur := rfl
@[simp] theorem State.setPc_num (s : State) (pc : Word) : (s.setPc pc).num = s.num := rfl
@[simp] theorem State.setPc_agenda (s : State) (pc : Word) : (s.setPc pc).agenda = s.agenda := rfl
@[simp] theorem State.setPc_freeCount (s : State) (pc : Word) : (s.setPc pc).freeCount = s.freeCount := rfl

@[simp] theorem State.result_variant (s : State) (i : Instr) (rd : XReg) (v : Word) : (s.result i rd v).variant = s.variant := rfl
@[simp] theorem State.result_sysNum (s : State) (i : Instr) (rd : XReg) (v : Word) : (s.result i rd v).sysNum = s.sysNum := rfl
@[simp] theorem State.result_modules (s : State) (i : Instr) (rd : XReg) (v : Word) : (s.result i rd v).modules = s.modules := rfl
@[simp] theorem State.result_mesh (s : State) (i : Instr) (rd : XReg) (v : Word) : (s.result i rd v).mesh = s.mesh := rfl
@[simp] theorem State.result_heldArrivals (s : State) (i : Instr) (rd : XReg) (v : Word) : (s.result i rd v).heldArrivals = s.heldArrivals := rfl
@[simp] theorem State.result_links (s : State) (i : Instr) (rd : XReg) (v : Word) : (s.result i rd v).links = s.links := rfl
@[simp] theorem State.result_windows (s : State) (i : Instr) (rd : XReg) (v : Word) : (s.result i rd v).windows = s.windows := rfl
@[simp] theorem State.result_contributions (s : State) (i : Instr) (rd : XReg) (v : Word) : (s.result i rd v).contributions = s.contributions := rfl
@[simp] theorem State.result_merges (s : State) (i : Instr) (rd : XReg) (v : Word) : (s.result i rd v).merges = s.merges := rfl
@[simp] theorem State.result_merged (s : State) (i : Instr) (rd : XReg) (v : Word) : (s.result i rd v).merged = s.merged := rfl
@[simp] theorem State.result_edge (s : State) (i : Instr) (rd : XReg) (v : Word) : (s.result i rd v).edge = s.edge := rfl
@[simp] theorem State.result_portSize (s : State) (i : Instr) (rd : XReg) (v : Word) : (s.result i rd v).portSize = s.portSize := rfl
@[simp] theorem State.result_edgeBad (s : State) (i : Instr) (rd : XReg) (v : Word) : (s.result i rd v).edgeBad = s.edgeBad := rfl
@[simp] theorem State.result_edgeReqs (s : State) (i : Instr) (rd : XReg) (v : Word) : (s.result i rd v).edgeReqs = s.edgeReqs := rfl
@[simp] theorem State.result_caches (s : State) (i : Instr) (rd : XReg) (v : Word) : (s.result i rd v).caches = s.caches := rfl
@[simp] theorem State.result_host (s : State) (i : Instr) (rd : XReg) (v : Word) : (s.result i rd v).host = s.host := rfl
@[simp] theorem State.result_station (s : State) (i : Instr) (rd : XReg) (v : Word) : (s.result i rd v).station = s.station := rfl
@[simp] theorem State.result_cur (s : State) (i : Instr) (rd : XReg) (v : Word) : (s.result i rd v).cur = s.cur := rfl
@[simp] theorem State.result_num (s : State) (i : Instr) (rd : XReg) (v : Word) : (s.result i rd v).num = s.num := rfl
@[simp] theorem State.result_agenda (s : State) (i : Instr) (rd : XReg) (v : Word) : (s.result i rd v).agenda = s.agenda := rfl
@[simp] theorem State.result_freeCount (s : State) (i : Instr) (rd : XReg) (v : Word) : (s.result i rd v).freeCount = s.freeCount := rfl

@[simp] theorem State.start_variant (s : State) (p : Site) (k : CtxNo) (pc : Nat) (x1 x2 x3 x4 : Word) : (s.start p k pc x1 x2 x3 x4).variant = s.variant := rfl
@[simp] theorem State.start_sysNum (s : State) (p : Site) (k : CtxNo) (pc : Nat) (x1 x2 x3 x4 : Word) : (s.start p k pc x1 x2 x3 x4).sysNum = s.sysNum := rfl
@[simp] theorem State.start_modules (s : State) (p : Site) (k : CtxNo) (pc : Nat) (x1 x2 x3 x4 : Word) : (s.start p k pc x1 x2 x3 x4).modules = s.modules := rfl
@[simp] theorem State.start_mesh (s : State) (p : Site) (k : CtxNo) (pc : Nat) (x1 x2 x3 x4 : Word) : (s.start p k pc x1 x2 x3 x4).mesh = s.mesh := rfl
@[simp] theorem State.start_heldArrivals (s : State) (p : Site) (k : CtxNo) (pc : Nat) (x1 x2 x3 x4 : Word) : (s.start p k pc x1 x2 x3 x4).heldArrivals = s.heldArrivals := rfl
@[simp] theorem State.start_links (s : State) (p : Site) (k : CtxNo) (pc : Nat) (x1 x2 x3 x4 : Word) : (s.start p k pc x1 x2 x3 x4).links = s.links := rfl
@[simp] theorem State.start_windows (s : State) (p : Site) (k : CtxNo) (pc : Nat) (x1 x2 x3 x4 : Word) : (s.start p k pc x1 x2 x3 x4).windows = s.windows := rfl
@[simp] theorem State.start_contributions (s : State) (p : Site) (k : CtxNo) (pc : Nat) (x1 x2 x3 x4 : Word) : (s.start p k pc x1 x2 x3 x4).contributions = s.contributions := rfl
@[simp] theorem State.start_merges (s : State) (p : Site) (k : CtxNo) (pc : Nat) (x1 x2 x3 x4 : Word) : (s.start p k pc x1 x2 x3 x4).merges = s.merges := rfl
@[simp] theorem State.start_merged (s : State) (p : Site) (k : CtxNo) (pc : Nat) (x1 x2 x3 x4 : Word) : (s.start p k pc x1 x2 x3 x4).merged = s.merged := rfl
@[simp] theorem State.start_edge (s : State) (p : Site) (k : CtxNo) (pc : Nat) (x1 x2 x3 x4 : Word) : (s.start p k pc x1 x2 x3 x4).edge = s.edge := rfl
@[simp] theorem State.start_portSize (s : State) (p : Site) (k : CtxNo) (pc : Nat) (x1 x2 x3 x4 : Word) : (s.start p k pc x1 x2 x3 x4).portSize = s.portSize := rfl
@[simp] theorem State.start_edgeBad (s : State) (p : Site) (k : CtxNo) (pc : Nat) (x1 x2 x3 x4 : Word) : (s.start p k pc x1 x2 x3 x4).edgeBad = s.edgeBad := rfl
@[simp] theorem State.start_edgeReqs (s : State) (p : Site) (k : CtxNo) (pc : Nat) (x1 x2 x3 x4 : Word) : (s.start p k pc x1 x2 x3 x4).edgeReqs = s.edgeReqs := rfl
@[simp] theorem State.start_caches (s : State) (p : Site) (k : CtxNo) (pc : Nat) (x1 x2 x3 x4 : Word) : (s.start p k pc x1 x2 x3 x4).caches = s.caches := rfl
@[simp] theorem State.start_host (s : State) (p : Site) (k : CtxNo) (pc : Nat) (x1 x2 x3 x4 : Word) : (s.start p k pc x1 x2 x3 x4).host = s.host := rfl
@[simp] theorem State.start_station (s : State) (p : Site) (k : CtxNo) (pc : Nat) (x1 x2 x3 x4 : Word) : (s.start p k pc x1 x2 x3 x4).station = s.station := rfl
@[simp] theorem State.start_cur (s : State) (p : Site) (k : CtxNo) (pc : Nat) (x1 x2 x3 x4 : Word) : (s.start p k pc x1 x2 x3 x4).cur = s.cur := rfl
@[simp] theorem State.start_num (s : State) (p : Site) (k : CtxNo) (pc : Nat) (x1 x2 x3 x4 : Word) : (s.start p k pc x1 x2 x3 x4).num = s.num := rfl
@[simp] theorem State.start_agenda (s : State) (p : Site) (k : CtxNo) (pc : Nat) (x1 x2 x3 x4 : Word) : (s.start p k pc x1 x2 x3 x4).agenda = s.agenda := rfl
@[simp] theorem State.start_freeCount (s : State) (p : Site) (k : CtxNo) (pc : Nat) (x1 x2 x3 x4 : Word) : (s.start p k pc x1 x2 x3 x4).freeCount = s.freeCount := rfl

@[simp] theorem State.note_variant (s : State) (n : Note) : (s.note n).variant = s.variant := rfl
@[simp] theorem State.note_sysNum (s : State) (n : Note) : (s.note n).sysNum = s.sysNum := rfl
@[simp] theorem State.note_modules (s : State) (n : Note) : (s.note n).modules = s.modules := rfl
@[simp] theorem State.note_cores (s : State) (n : Note) : (s.note n).cores = s.cores := rfl
@[simp] theorem State.note_mesh (s : State) (n : Note) : (s.note n).mesh = s.mesh := rfl
@[simp] theorem State.note_heldArrivals (s : State) (n : Note) : (s.note n).heldArrivals = s.heldArrivals := rfl
@[simp] theorem State.note_links (s : State) (n : Note) : (s.note n).links = s.links := rfl
@[simp] theorem State.note_windows (s : State) (n : Note) : (s.note n).windows = s.windows := rfl
@[simp] theorem State.note_contributions (s : State) (n : Note) : (s.note n).contributions = s.contributions := rfl
@[simp] theorem State.note_merges (s : State) (n : Note) : (s.note n).merges = s.merges := rfl
@[simp] theorem State.note_merged (s : State) (n : Note) : (s.note n).merged = s.merged := rfl
@[simp] theorem State.note_edge (s : State) (n : Note) : (s.note n).edge = s.edge := rfl
@[simp] theorem State.note_portSize (s : State) (n : Note) : (s.note n).portSize = s.portSize := rfl
@[simp] theorem State.note_edgeBad (s : State) (n : Note) : (s.note n).edgeBad = s.edgeBad := rfl
@[simp] theorem State.note_edgeReqs (s : State) (n : Note) : (s.note n).edgeReqs = s.edgeReqs := rfl
@[simp] theorem State.note_caches (s : State) (n : Note) : (s.note n).caches = s.caches := rfl
@[simp] theorem State.note_host (s : State) (n : Note) : (s.note n).host = s.host := rfl
@[simp] theorem State.note_cur (s : State) (n : Note) : (s.note n).cur = s.cur := rfl
@[simp] theorem State.note_num (s : State) (n : Note) : (s.note n).num = s.num := rfl
@[simp] theorem State.note_agenda (s : State) (n : Note) : (s.note n).agenda = s.agenda := rfl
@[simp] theorem State.note_freeCount (s : State) (n : Note) : (s.note n).freeCount = s.freeCount := rfl

@[simp] theorem State.addRecord_variant (s : State) (l : Nat) (r : Vector Word 16) : (s.addRecord l r).variant = s.variant := rfl
@[simp] theorem State.addRecord_sysNum (s : State) (l : Nat) (r : Vector Word 16) : (s.addRecord l r).sysNum = s.sysNum := rfl
@[simp] theorem State.addRecord_modules (s : State) (l : Nat) (r : Vector Word 16) : (s.addRecord l r).modules = s.modules := rfl
@[simp] theorem State.addRecord_cores (s : State) (l : Nat) (r : Vector Word 16) : (s.addRecord l r).cores = s.cores := rfl
@[simp] theorem State.addRecord_mesh (s : State) (l : Nat) (r : Vector Word 16) : (s.addRecord l r).mesh = s.mesh := rfl
@[simp] theorem State.addRecord_heldArrivals (s : State) (l : Nat) (r : Vector Word 16) : (s.addRecord l r).heldArrivals = s.heldArrivals := rfl
@[simp] theorem State.addRecord_links (s : State) (l : Nat) (r : Vector Word 16) : (s.addRecord l r).links = s.links := rfl
@[simp] theorem State.addRecord_windows (s : State) (l : Nat) (r : Vector Word 16) : (s.addRecord l r).windows = s.windows := rfl
@[simp] theorem State.addRecord_contributions (s : State) (l : Nat) (r : Vector Word 16) : (s.addRecord l r).contributions = s.contributions := rfl
@[simp] theorem State.addRecord_merges (s : State) (l : Nat) (r : Vector Word 16) : (s.addRecord l r).merges = s.merges := rfl
@[simp] theorem State.addRecord_merged (s : State) (l : Nat) (r : Vector Word 16) : (s.addRecord l r).merged = s.merged := rfl
@[simp] theorem State.addRecord_edge (s : State) (l : Nat) (r : Vector Word 16) : (s.addRecord l r).edge = s.edge := rfl
@[simp] theorem State.addRecord_portSize (s : State) (l : Nat) (r : Vector Word 16) : (s.addRecord l r).portSize = s.portSize := rfl
@[simp] theorem State.addRecord_edgeBad (s : State) (l : Nat) (r : Vector Word 16) : (s.addRecord l r).edgeBad = s.edgeBad := rfl
@[simp] theorem State.addRecord_edgeReqs (s : State) (l : Nat) (r : Vector Word 16) : (s.addRecord l r).edgeReqs = s.edgeReqs := rfl
@[simp] theorem State.addRecord_caches (s : State) (l : Nat) (r : Vector Word 16) : (s.addRecord l r).caches = s.caches := rfl
@[simp] theorem State.addRecord_host (s : State) (l : Nat) (r : Vector Word 16) : (s.addRecord l r).host = s.host := rfl
@[simp] theorem State.addRecord_cur (s : State) (l : Nat) (r : Vector Word 16) : (s.addRecord l r).cur = s.cur := rfl
@[simp] theorem State.addRecord_num (s : State) (l : Nat) (r : Vector Word 16) : (s.addRecord l r).num = s.num := rfl
@[simp] theorem State.addRecord_agenda (s : State) (l : Nat) (r : Vector Word 16) : (s.addRecord l r).agenda = s.agenda := rfl
@[simp] theorem State.addRecord_freeCount (s : State) (l : Nat) (r : Vector Word 16) : (s.addRecord l r).freeCount = s.freeCount := rfl

@[simp] theorem State.countError_variant (s : State) (p : Site) : (s.countError p).variant = s.variant := rfl
@[simp] theorem State.countError_sysNum (s : State) (p : Site) : (s.countError p).sysNum = s.sysNum := rfl
@[simp] theorem State.countError_modules (s : State) (p : Site) : (s.countError p).modules = s.modules := rfl
@[simp] theorem State.countError_cores (s : State) (p : Site) : (s.countError p).cores = s.cores := rfl
@[simp] theorem State.countError_mesh (s : State) (p : Site) : (s.countError p).mesh = s.mesh := rfl
@[simp] theorem State.countError_heldArrivals (s : State) (p : Site) : (s.countError p).heldArrivals = s.heldArrivals := rfl
@[simp] theorem State.countError_links (s : State) (p : Site) : (s.countError p).links = s.links := rfl
@[simp] theorem State.countError_windows (s : State) (p : Site) : (s.countError p).windows = s.windows := rfl
@[simp] theorem State.countError_contributions (s : State) (p : Site) : (s.countError p).contributions = s.contributions := rfl
@[simp] theorem State.countError_merges (s : State) (p : Site) : (s.countError p).merges = s.merges := rfl
@[simp] theorem State.countError_merged (s : State) (p : Site) : (s.countError p).merged = s.merged := rfl
@[simp] theorem State.countError_edge (s : State) (p : Site) : (s.countError p).edge = s.edge := rfl
@[simp] theorem State.countError_portSize (s : State) (p : Site) : (s.countError p).portSize = s.portSize := rfl
@[simp] theorem State.countError_edgeBad (s : State) (p : Site) : (s.countError p).edgeBad = s.edgeBad := rfl
@[simp] theorem State.countError_edgeReqs (s : State) (p : Site) : (s.countError p).edgeReqs = s.edgeReqs := rfl
@[simp] theorem State.countError_caches (s : State) (p : Site) : (s.countError p).caches = s.caches := rfl
@[simp] theorem State.countError_host (s : State) (p : Site) : (s.countError p).host = s.host := rfl
@[simp] theorem State.countError_cur (s : State) (p : Site) : (s.countError p).cur = s.cur := rfl
@[simp] theorem State.countError_num (s : State) (p : Site) : (s.countError p).num = s.num := rfl
@[simp] theorem State.countError_agenda (s : State) (p : Site) : (s.countError p).agenda = s.agenda := rfl
@[simp] theorem State.countError_freeCount (s : State) (p : Site) : (s.countError p).freeCount = s.freeCount := rfl

@[simp] theorem State.countCorrected_variant (s : State) (p : Site) (n : Nat) : (s.countCorrected p n).variant = s.variant := rfl
@[simp] theorem State.countCorrected_sysNum (s : State) (p : Site) (n : Nat) : (s.countCorrected p n).sysNum = s.sysNum := rfl
@[simp] theorem State.countCorrected_modules (s : State) (p : Site) (n : Nat) : (s.countCorrected p n).modules = s.modules := rfl
@[simp] theorem State.countCorrected_mesh (s : State) (p : Site) (n : Nat) : (s.countCorrected p n).mesh = s.mesh := rfl
@[simp] theorem State.countCorrected_heldArrivals (s : State) (p : Site) (n : Nat) : (s.countCorrected p n).heldArrivals = s.heldArrivals := rfl
@[simp] theorem State.countCorrected_links (s : State) (p : Site) (n : Nat) : (s.countCorrected p n).links = s.links := rfl
@[simp] theorem State.countCorrected_windows (s : State) (p : Site) (n : Nat) : (s.countCorrected p n).windows = s.windows := rfl
@[simp] theorem State.countCorrected_contributions (s : State) (p : Site) (n : Nat) : (s.countCorrected p n).contributions = s.contributions := rfl
@[simp] theorem State.countCorrected_merges (s : State) (p : Site) (n : Nat) : (s.countCorrected p n).merges = s.merges := rfl
@[simp] theorem State.countCorrected_merged (s : State) (p : Site) (n : Nat) : (s.countCorrected p n).merged = s.merged := rfl
@[simp] theorem State.countCorrected_edge (s : State) (p : Site) (n : Nat) : (s.countCorrected p n).edge = s.edge := rfl
@[simp] theorem State.countCorrected_portSize (s : State) (p : Site) (n : Nat) : (s.countCorrected p n).portSize = s.portSize := rfl
@[simp] theorem State.countCorrected_edgeBad (s : State) (p : Site) (n : Nat) : (s.countCorrected p n).edgeBad = s.edgeBad := rfl
@[simp] theorem State.countCorrected_edgeReqs (s : State) (p : Site) (n : Nat) : (s.countCorrected p n).edgeReqs = s.edgeReqs := rfl
@[simp] theorem State.countCorrected_caches (s : State) (p : Site) (n : Nat) : (s.countCorrected p n).caches = s.caches := rfl
@[simp] theorem State.countCorrected_host (s : State) (p : Site) (n : Nat) : (s.countCorrected p n).host = s.host := rfl
@[simp] theorem State.countCorrected_cur (s : State) (p : Site) (n : Nat) : (s.countCorrected p n).cur = s.cur := rfl
@[simp] theorem State.countCorrected_num (s : State) (p : Site) (n : Nat) : (s.countCorrected p n).num = s.num := rfl
@[simp] theorem State.countCorrected_agenda (s : State) (p : Site) (n : Nat) : (s.countCorrected p n).agenda = s.agenda := rfl
@[simp] theorem State.countCorrected_freeCount (s : State) (p : Site) (n : Nat) : (s.countCorrected p n).freeCount = s.freeCount := rfl

@[simp] theorem State.send_variant (s : State) (p : Packet) : (s.send p).variant = s.variant := rfl
@[simp] theorem State.send_sysNum (s : State) (p : Packet) : (s.send p).sysNum = s.sysNum := rfl
@[simp] theorem State.send_modules (s : State) (p : Packet) : (s.send p).modules = s.modules := rfl
@[simp] theorem State.send_cores (s : State) (p : Packet) : (s.send p).cores = s.cores := rfl
@[simp] theorem State.send_heldArrivals (s : State) (p : Packet) : (s.send p).heldArrivals = s.heldArrivals := rfl
@[simp] theorem State.send_links (s : State) (p : Packet) : (s.send p).links = s.links := rfl
@[simp] theorem State.send_windows (s : State) (p : Packet) : (s.send p).windows = s.windows := rfl
@[simp] theorem State.send_contributions (s : State) (p : Packet) : (s.send p).contributions = s.contributions := rfl
@[simp] theorem State.send_merges (s : State) (p : Packet) : (s.send p).merges = s.merges := rfl
@[simp] theorem State.send_merged (s : State) (p : Packet) : (s.send p).merged = s.merged := rfl
@[simp] theorem State.send_edge (s : State) (p : Packet) : (s.send p).edge = s.edge := rfl
@[simp] theorem State.send_portSize (s : State) (p : Packet) : (s.send p).portSize = s.portSize := rfl
@[simp] theorem State.send_edgeBad (s : State) (p : Packet) : (s.send p).edgeBad = s.edgeBad := rfl
@[simp] theorem State.send_edgeReqs (s : State) (p : Packet) : (s.send p).edgeReqs = s.edgeReqs := rfl
@[simp] theorem State.send_caches (s : State) (p : Packet) : (s.send p).caches = s.caches := rfl
@[simp] theorem State.send_host (s : State) (p : Packet) : (s.send p).host = s.host := rfl
@[simp] theorem State.send_station (s : State) (p : Packet) : (s.send p).station = s.station := rfl
@[simp] theorem State.send_cur (s : State) (p : Packet) : (s.send p).cur = s.cur := rfl
@[simp] theorem State.send_num (s : State) (p : Packet) : (s.send p).num = s.num := rfl
@[simp] theorem State.send_agenda (s : State) (p : Packet) : (s.send p).agenda = s.agenda := rfl
@[simp] theorem State.send_freeCount (s : State) (p : Packet) : (s.send p).freeCount = s.freeCount := rfl

@[simp] theorem State.onStation_variant (s : State) (f : Station → Station) : (s.onStation f).variant = s.variant := rfl
@[simp] theorem State.onStation_sysNum (s : State) (f : Station → Station) : (s.onStation f).sysNum = s.sysNum := rfl
@[simp] theorem State.onStation_modules (s : State) (f : Station → Station) : (s.onStation f).modules = s.modules := rfl
@[simp] theorem State.onStation_cores (s : State) (f : Station → Station) : (s.onStation f).cores = s.cores := rfl
@[simp] theorem State.onStation_mesh (s : State) (f : Station → Station) : (s.onStation f).mesh = s.mesh := rfl
@[simp] theorem State.onStation_heldArrivals (s : State) (f : Station → Station) : (s.onStation f).heldArrivals = s.heldArrivals := rfl
@[simp] theorem State.onStation_links (s : State) (f : Station → Station) : (s.onStation f).links = s.links := rfl
@[simp] theorem State.onStation_windows (s : State) (f : Station → Station) : (s.onStation f).windows = s.windows := rfl
@[simp] theorem State.onStation_contributions (s : State) (f : Station → Station) : (s.onStation f).contributions = s.contributions := rfl
@[simp] theorem State.onStation_merges (s : State) (f : Station → Station) : (s.onStation f).merges = s.merges := rfl
@[simp] theorem State.onStation_merged (s : State) (f : Station → Station) : (s.onStation f).merged = s.merged := rfl
@[simp] theorem State.onStation_edge (s : State) (f : Station → Station) : (s.onStation f).edge = s.edge := rfl
@[simp] theorem State.onStation_portSize (s : State) (f : Station → Station) : (s.onStation f).portSize = s.portSize := rfl
@[simp] theorem State.onStation_edgeBad (s : State) (f : Station → Station) : (s.onStation f).edgeBad = s.edgeBad := rfl
@[simp] theorem State.onStation_edgeReqs (s : State) (f : Station → Station) : (s.onStation f).edgeReqs = s.edgeReqs := rfl
@[simp] theorem State.onStation_caches (s : State) (f : Station → Station) : (s.onStation f).caches = s.caches := rfl
@[simp] theorem State.onStation_host (s : State) (f : Station → Station) : (s.onStation f).host = s.host := rfl
@[simp] theorem State.onStation_cur (s : State) (f : Station → Station) : (s.onStation f).cur = s.cur := rfl
@[simp] theorem State.onStation_num (s : State) (f : Station → Station) : (s.onStation f).num = s.num := rfl
@[simp] theorem State.onStation_agenda (s : State) (f : Station → Station) : (s.onStation f).agenda = s.agenda := rfl
@[simp] theorem State.onStation_freeCount (s : State) (f : Station → Station) : (s.onStation f).freeCount = s.freeCount := rfl

@[simp] theorem Core.setCtx_live (c : Core) (k : CtxNo) (x : Ctx) : (c.setCtx k x).live = c.live := rfl
@[simp] theorem Core.setCtx_role (c : Core) (k : CtxNo) (x : Ctx) : (c.setCtx k x).role = c.role := rfl
@[simp] theorem Core.setCtx_halted (c : Core) (k : CtxNo) (x : Ctx) : (c.setCtx k x).halted = c.halted := rfl
@[simp] theorem Core.setCtx_scratch (c : Core) (k : CtxNo) (x : Ctx) : (c.setCtx k x).scratch = c.scratch := rfl
@[simp] theorem Core.setCtx_shadow (c : Core) (k : CtxNo) (x : Ctx) : (c.setCtx k x).shadow = c.shadow := rfl
@[simp] theorem Core.setCtx_shadowBad (c : Core) (k : CtxNo) (x : Ctx) : (c.setCtx k x).shadowBad = c.shadowBad := rfl
@[simp] theorem Core.setCtx_shadowSoft (c : Core) (k : CtxNo) (x : Ctx) : (c.setCtx k x).shadowSoft = c.shadowSoft := rfl
@[simp] theorem Core.setCtx_retries (c : Core) (k : CtxNo) (x : Ctx) : (c.setCtx k x).retries = c.retries := rfl
@[simp] theorem Core.setCtx_late (c : Core) (k : CtxNo) (x : Ctx) : (c.setCtx k x).late = c.late := rfl
@[simp] theorem Core.setCtx_errank (c : Core) (k : CtxNo) (x : Ctx) : (c.setCtx k x).errank = c.errank := rfl
@[simp] theorem Core.setCtx_cycles (c : Core) (k : CtxNo) (x : Ctx) : (c.setCtx k x).cycles = c.cycles := rfl
@[simp] theorem Core.setCtx_progress (c : Core) (k : CtxNo) (x : Ctx) : (c.setCtx k x).progress = c.progress := rfl
@[simp] theorem Core.setCtx_locks (c : Core) (k : CtxNo) (x : Ctx) : (c.setCtx k x).locks = c.locks := rfl
@[simp] theorem Core.setCtx_nextCmd (c : Core) (k : CtxNo) (x : Ctx) : (c.setCtx k x).nextCmd = c.nextCmd := rfl
@[simp] theorem Core.setCtx_sync (c : Core) (k : CtxNo) (x : Ctx) : (c.setCtx k x).sync = c.sync := rfl
@[simp] theorem Core.setCtx_msg (c : Core) (k : CtxNo) (x : Ctx) : (c.setCtx k x).msg = c.msg := rfl
@[simp] theorem Core.setCtx_tensor (c : Core) (k : CtxNo) (x : Ctx) : (c.setCtx k x).tensor = c.tensor := rfl
@[simp] theorem Core.setCtx_vec (c : Core) (k : CtxNo) (x : Ctx) : (c.setCtx k x).vec = c.vec := rfl
@[simp] theorem Core.setCtx_slots (c : Core) (k : CtxNo) (x : Ctx) : (c.setCtx k x).slots = c.slots := rfl
@[simp] theorem Core.setCtx_sbars (c : Core) (k : CtxNo) (x : Ctx) : (c.setCtx k x).sbars = c.sbars := rfl

@[simp] theorem Core.onCtx_live (c : Core) (k : CtxNo) (f : Ctx → Ctx) : (c.onCtx k f).live = c.live := rfl
@[simp] theorem Core.onCtx_role (c : Core) (k : CtxNo) (f : Ctx → Ctx) : (c.onCtx k f).role = c.role := rfl
@[simp] theorem Core.onCtx_halted (c : Core) (k : CtxNo) (f : Ctx → Ctx) : (c.onCtx k f).halted = c.halted := rfl
@[simp] theorem Core.onCtx_scratch (c : Core) (k : CtxNo) (f : Ctx → Ctx) : (c.onCtx k f).scratch = c.scratch := rfl
@[simp] theorem Core.onCtx_shadow (c : Core) (k : CtxNo) (f : Ctx → Ctx) : (c.onCtx k f).shadow = c.shadow := rfl
@[simp] theorem Core.onCtx_shadowBad (c : Core) (k : CtxNo) (f : Ctx → Ctx) : (c.onCtx k f).shadowBad = c.shadowBad := rfl
@[simp] theorem Core.onCtx_shadowSoft (c : Core) (k : CtxNo) (f : Ctx → Ctx) : (c.onCtx k f).shadowSoft = c.shadowSoft := rfl
@[simp] theorem Core.onCtx_retries (c : Core) (k : CtxNo) (f : Ctx → Ctx) : (c.onCtx k f).retries = c.retries := rfl
@[simp] theorem Core.onCtx_late (c : Core) (k : CtxNo) (f : Ctx → Ctx) : (c.onCtx k f).late = c.late := rfl
@[simp] theorem Core.onCtx_errank (c : Core) (k : CtxNo) (f : Ctx → Ctx) : (c.onCtx k f).errank = c.errank := rfl
@[simp] theorem Core.onCtx_cycles (c : Core) (k : CtxNo) (f : Ctx → Ctx) : (c.onCtx k f).cycles = c.cycles := rfl
@[simp] theorem Core.onCtx_progress (c : Core) (k : CtxNo) (f : Ctx → Ctx) : (c.onCtx k f).progress = c.progress := rfl
@[simp] theorem Core.onCtx_locks (c : Core) (k : CtxNo) (f : Ctx → Ctx) : (c.onCtx k f).locks = c.locks := rfl
@[simp] theorem Core.onCtx_nextCmd (c : Core) (k : CtxNo) (f : Ctx → Ctx) : (c.onCtx k f).nextCmd = c.nextCmd := rfl
@[simp] theorem Core.onCtx_sync (c : Core) (k : CtxNo) (f : Ctx → Ctx) : (c.onCtx k f).sync = c.sync := rfl
@[simp] theorem Core.onCtx_msg (c : Core) (k : CtxNo) (f : Ctx → Ctx) : (c.onCtx k f).msg = c.msg := rfl
@[simp] theorem Core.onCtx_tensor (c : Core) (k : CtxNo) (f : Ctx → Ctx) : (c.onCtx k f).tensor = c.tensor := rfl
@[simp] theorem Core.onCtx_vec (c : Core) (k : CtxNo) (f : Ctx → Ctx) : (c.onCtx k f).vec = c.vec := rfl
@[simp] theorem Core.onCtx_slots (c : Core) (k : CtxNo) (f : Ctx → Ctx) : (c.onCtx k f).slots = c.slots := rfl
@[simp] theorem Core.onCtx_sbars (c : Core) (k : CtxNo) (f : Ctx → Ctx) : (c.onCtx k f).sbars = c.sbars := rfl

@[simp] theorem Core.put_live (c : Core) (a : Nat) (bs : List Byte) : (c.put a bs).live = c.live := rfl
@[simp] theorem Core.put_role (c : Core) (a : Nat) (bs : List Byte) : (c.put a bs).role = c.role := rfl
@[simp] theorem Core.put_halted (c : Core) (a : Nat) (bs : List Byte) : (c.put a bs).halted = c.halted := rfl
@[simp] theorem Core.put_shadow (c : Core) (a : Nat) (bs : List Byte) : (c.put a bs).shadow = c.shadow := rfl
@[simp] theorem Core.put_shadowBad (c : Core) (a : Nat) (bs : List Byte) : (c.put a bs).shadowBad = c.shadowBad := rfl
@[simp] theorem Core.put_shadowSoft (c : Core) (a : Nat) (bs : List Byte) : (c.put a bs).shadowSoft = c.shadowSoft := rfl
@[simp] theorem Core.put_retries (c : Core) (a : Nat) (bs : List Byte) : (c.put a bs).retries = c.retries := rfl
@[simp] theorem Core.put_late (c : Core) (a : Nat) (bs : List Byte) : (c.put a bs).late = c.late := rfl
@[simp] theorem Core.put_ctxs (c : Core) (a : Nat) (bs : List Byte) : (c.put a bs).ctxs = c.ctxs := rfl
@[simp] theorem Core.put_errank (c : Core) (a : Nat) (bs : List Byte) : (c.put a bs).errank = c.errank := rfl
@[simp] theorem Core.put_cycles (c : Core) (a : Nat) (bs : List Byte) : (c.put a bs).cycles = c.cycles := rfl
@[simp] theorem Core.put_progress (c : Core) (a : Nat) (bs : List Byte) : (c.put a bs).progress = c.progress := rfl
@[simp] theorem Core.put_locks (c : Core) (a : Nat) (bs : List Byte) : (c.put a bs).locks = c.locks := rfl
@[simp] theorem Core.put_nextCmd (c : Core) (a : Nat) (bs : List Byte) : (c.put a bs).nextCmd = c.nextCmd := rfl
@[simp] theorem Core.put_sync (c : Core) (a : Nat) (bs : List Byte) : (c.put a bs).sync = c.sync := rfl
@[simp] theorem Core.put_msg (c : Core) (a : Nat) (bs : List Byte) : (c.put a bs).msg = c.msg := rfl
@[simp] theorem Core.put_tensor (c : Core) (a : Nat) (bs : List Byte) : (c.put a bs).tensor = c.tensor := rfl
@[simp] theorem Core.put_vec (c : Core) (a : Nat) (bs : List Byte) : (c.put a bs).vec = c.vec := rfl
@[simp] theorem Core.put_slots (c : Core) (a : Nat) (bs : List Byte) : (c.put a bs).slots = c.slots := rfl
@[simp] theorem Core.put_sbars (c : Core) (a : Nat) (bs : List Byte) : (c.put a bs).sbars = c.sbars := rfl

@[simp] theorem Core.putFar_live (c : Core) (a : Nat) (bs : List Byte) (sc : Scope) : (c.putFar a bs sc).live = c.live := rfl
@[simp] theorem Core.putFar_role (c : Core) (a : Nat) (bs : List Byte) (sc : Scope) : (c.putFar a bs sc).role = c.role := rfl
@[simp] theorem Core.putFar_halted (c : Core) (a : Nat) (bs : List Byte) (sc : Scope) : (c.putFar a bs sc).halted = c.halted := rfl
@[simp] theorem Core.putFar_shadow (c : Core) (a : Nat) (bs : List Byte) (sc : Scope) : (c.putFar a bs sc).shadow = c.shadow := rfl
@[simp] theorem Core.putFar_shadowBad (c : Core) (a : Nat) (bs : List Byte) (sc : Scope) : (c.putFar a bs sc).shadowBad = c.shadowBad := rfl
@[simp] theorem Core.putFar_shadowSoft (c : Core) (a : Nat) (bs : List Byte) (sc : Scope) : (c.putFar a bs sc).shadowSoft = c.shadowSoft := rfl
@[simp] theorem Core.putFar_retries (c : Core) (a : Nat) (bs : List Byte) (sc : Scope) : (c.putFar a bs sc).retries = c.retries := rfl
@[simp] theorem Core.putFar_late (c : Core) (a : Nat) (bs : List Byte) (sc : Scope) : (c.putFar a bs sc).late = c.late := rfl
@[simp] theorem Core.putFar_ctxs (c : Core) (a : Nat) (bs : List Byte) (sc : Scope) : (c.putFar a bs sc).ctxs = c.ctxs := rfl
@[simp] theorem Core.putFar_errank (c : Core) (a : Nat) (bs : List Byte) (sc : Scope) : (c.putFar a bs sc).errank = c.errank := rfl
@[simp] theorem Core.putFar_cycles (c : Core) (a : Nat) (bs : List Byte) (sc : Scope) : (c.putFar a bs sc).cycles = c.cycles := rfl
@[simp] theorem Core.putFar_progress (c : Core) (a : Nat) (bs : List Byte) (sc : Scope) : (c.putFar a bs sc).progress = c.progress := rfl
@[simp] theorem Core.putFar_locks (c : Core) (a : Nat) (bs : List Byte) (sc : Scope) : (c.putFar a bs sc).locks = c.locks := rfl
@[simp] theorem Core.putFar_nextCmd (c : Core) (a : Nat) (bs : List Byte) (sc : Scope) : (c.putFar a bs sc).nextCmd = c.nextCmd := rfl
@[simp] theorem Core.putFar_sync (c : Core) (a : Nat) (bs : List Byte) (sc : Scope) : (c.putFar a bs sc).sync = c.sync := rfl
@[simp] theorem Core.putFar_msg (c : Core) (a : Nat) (bs : List Byte) (sc : Scope) : (c.putFar a bs sc).msg = c.msg := rfl
@[simp] theorem Core.putFar_tensor (c : Core) (a : Nat) (bs : List Byte) (sc : Scope) : (c.putFar a bs sc).tensor = c.tensor := rfl
@[simp] theorem Core.putFar_vec (c : Core) (a : Nat) (bs : List Byte) (sc : Scope) : (c.putFar a bs sc).vec = c.vec := rfl
@[simp] theorem Core.putFar_slots (c : Core) (a : Nat) (bs : List Byte) (sc : Scope) : (c.putFar a bs sc).slots = c.slots := rfl
@[simp] theorem Core.putFar_sbars (c : Core) (a : Nat) (bs : List Byte) (sc : Scope) : (c.putFar a bs sc).sbars = c.sbars := rfl

@[simp] theorem Core.lock_live (c : Core) (ls : List Lock) : (c.lock ls).live = c.live := rfl
@[simp] theorem Core.lock_role (c : Core) (ls : List Lock) : (c.lock ls).role = c.role := rfl
@[simp] theorem Core.lock_halted (c : Core) (ls : List Lock) : (c.lock ls).halted = c.halted := rfl
@[simp] theorem Core.lock_scratch (c : Core) (ls : List Lock) : (c.lock ls).scratch = c.scratch := rfl
@[simp] theorem Core.lock_shadow (c : Core) (ls : List Lock) : (c.lock ls).shadow = c.shadow := rfl
@[simp] theorem Core.lock_shadowBad (c : Core) (ls : List Lock) : (c.lock ls).shadowBad = c.shadowBad := rfl
@[simp] theorem Core.lock_shadowSoft (c : Core) (ls : List Lock) : (c.lock ls).shadowSoft = c.shadowSoft := rfl
@[simp] theorem Core.lock_retries (c : Core) (ls : List Lock) : (c.lock ls).retries = c.retries := rfl
@[simp] theorem Core.lock_late (c : Core) (ls : List Lock) : (c.lock ls).late = c.late := rfl
@[simp] theorem Core.lock_ctxs (c : Core) (ls : List Lock) : (c.lock ls).ctxs = c.ctxs := rfl
@[simp] theorem Core.lock_errank (c : Core) (ls : List Lock) : (c.lock ls).errank = c.errank := rfl
@[simp] theorem Core.lock_cycles (c : Core) (ls : List Lock) : (c.lock ls).cycles = c.cycles := rfl
@[simp] theorem Core.lock_progress (c : Core) (ls : List Lock) : (c.lock ls).progress = c.progress := rfl
@[simp] theorem Core.lock_nextCmd (c : Core) (ls : List Lock) : (c.lock ls).nextCmd = c.nextCmd := rfl
@[simp] theorem Core.lock_sync (c : Core) (ls : List Lock) : (c.lock ls).sync = c.sync := rfl
@[simp] theorem Core.lock_msg (c : Core) (ls : List Lock) : (c.lock ls).msg = c.msg := rfl
@[simp] theorem Core.lock_tensor (c : Core) (ls : List Lock) : (c.lock ls).tensor = c.tensor := rfl
@[simp] theorem Core.lock_vec (c : Core) (ls : List Lock) : (c.lock ls).vec = c.vec := rfl
@[simp] theorem Core.lock_slots (c : Core) (ls : List Lock) : (c.lock ls).slots = c.slots := rfl
@[simp] theorem Core.lock_sbars (c : Core) (ls : List Lock) : (c.lock ls).sbars = c.sbars := rfl

@[simp] theorem Core.unlock_live (c : Core) (n : Nat) : (c.unlock n).live = c.live := rfl
@[simp] theorem Core.unlock_role (c : Core) (n : Nat) : (c.unlock n).role = c.role := rfl
@[simp] theorem Core.unlock_halted (c : Core) (n : Nat) : (c.unlock n).halted = c.halted := rfl
@[simp] theorem Core.unlock_scratch (c : Core) (n : Nat) : (c.unlock n).scratch = c.scratch := rfl
@[simp] theorem Core.unlock_shadow (c : Core) (n : Nat) : (c.unlock n).shadow = c.shadow := rfl
@[simp] theorem Core.unlock_shadowBad (c : Core) (n : Nat) : (c.unlock n).shadowBad = c.shadowBad := rfl
@[simp] theorem Core.unlock_shadowSoft (c : Core) (n : Nat) : (c.unlock n).shadowSoft = c.shadowSoft := rfl
@[simp] theorem Core.unlock_retries (c : Core) (n : Nat) : (c.unlock n).retries = c.retries := rfl
@[simp] theorem Core.unlock_late (c : Core) (n : Nat) : (c.unlock n).late = c.late := rfl
@[simp] theorem Core.unlock_ctxs (c : Core) (n : Nat) : (c.unlock n).ctxs = c.ctxs := rfl
@[simp] theorem Core.unlock_errank (c : Core) (n : Nat) : (c.unlock n).errank = c.errank := rfl
@[simp] theorem Core.unlock_cycles (c : Core) (n : Nat) : (c.unlock n).cycles = c.cycles := rfl
@[simp] theorem Core.unlock_progress (c : Core) (n : Nat) : (c.unlock n).progress = c.progress := rfl
@[simp] theorem Core.unlock_nextCmd (c : Core) (n : Nat) : (c.unlock n).nextCmd = c.nextCmd := rfl
@[simp] theorem Core.unlock_sync (c : Core) (n : Nat) : (c.unlock n).sync = c.sync := rfl
@[simp] theorem Core.unlock_msg (c : Core) (n : Nat) : (c.unlock n).msg = c.msg := rfl
@[simp] theorem Core.unlock_tensor (c : Core) (n : Nat) : (c.unlock n).tensor = c.tensor := rfl
@[simp] theorem Core.unlock_vec (c : Core) (n : Nat) : (c.unlock n).vec = c.vec := rfl
@[simp] theorem Core.unlock_slots (c : Core) (n : Nat) : (c.unlock n).slots = c.slots := rfl
@[simp] theorem Core.unlock_sbars (c : Core) (n : Nat) : (c.unlock n).sbars = c.sbars := rfl

@[simp] theorem Core.setCounter_live (c : Core) (n : Nat) (v : Counter) : (c.setCounter n v).live = c.live := rfl
@[simp] theorem Core.setCounter_role (c : Core) (n : Nat) (v : Counter) : (c.setCounter n v).role = c.role := rfl
@[simp] theorem Core.setCounter_halted (c : Core) (n : Nat) (v : Counter) : (c.setCounter n v).halted = c.halted := rfl
@[simp] theorem Core.setCounter_scratch (c : Core) (n : Nat) (v : Counter) : (c.setCounter n v).scratch = c.scratch := rfl
@[simp] theorem Core.setCounter_shadow (c : Core) (n : Nat) (v : Counter) : (c.setCounter n v).shadow = c.shadow := rfl
@[simp] theorem Core.setCounter_shadowBad (c : Core) (n : Nat) (v : Counter) : (c.setCounter n v).shadowBad = c.shadowBad := rfl
@[simp] theorem Core.setCounter_shadowSoft (c : Core) (n : Nat) (v : Counter) : (c.setCounter n v).shadowSoft = c.shadowSoft := rfl
@[simp] theorem Core.setCounter_retries (c : Core) (n : Nat) (v : Counter) : (c.setCounter n v).retries = c.retries := rfl
@[simp] theorem Core.setCounter_late (c : Core) (n : Nat) (v : Counter) : (c.setCounter n v).late = c.late := rfl
@[simp] theorem Core.setCounter_ctxs (c : Core) (n : Nat) (v : Counter) : (c.setCounter n v).ctxs = c.ctxs := rfl
@[simp] theorem Core.setCounter_errank (c : Core) (n : Nat) (v : Counter) : (c.setCounter n v).errank = c.errank := rfl
@[simp] theorem Core.setCounter_cycles (c : Core) (n : Nat) (v : Counter) : (c.setCounter n v).cycles = c.cycles := rfl
@[simp] theorem Core.setCounter_locks (c : Core) (n : Nat) (v : Counter) : (c.setCounter n v).locks = c.locks := rfl
@[simp] theorem Core.setCounter_nextCmd (c : Core) (n : Nat) (v : Counter) : (c.setCounter n v).nextCmd = c.nextCmd := rfl
@[simp] theorem Core.setCounter_msg (c : Core) (n : Nat) (v : Counter) : (c.setCounter n v).msg = c.msg := rfl
@[simp] theorem Core.setCounter_tensor (c : Core) (n : Nat) (v : Counter) : (c.setCounter n v).tensor = c.tensor := rfl
@[simp] theorem Core.setCounter_vec (c : Core) (n : Nat) (v : Counter) : (c.setCounter n v).vec = c.vec := rfl
@[simp] theorem Core.setCounter_slots (c : Core) (n : Nat) (v : Counter) : (c.setCounter n v).slots = c.slots := rfl
@[simp] theorem Core.setCounter_sbars (c : Core) (n : Nat) (v : Counter) : (c.setCounter n v).sbars = c.sbars := rfl

@[simp] theorem Core.breakCounter_live (c : Core) (n : Nat) : (c.breakCounter n).live = c.live := rfl
@[simp] theorem Core.breakCounter_role (c : Core) (n : Nat) : (c.breakCounter n).role = c.role := rfl
@[simp] theorem Core.breakCounter_halted (c : Core) (n : Nat) : (c.breakCounter n).halted = c.halted := rfl
@[simp] theorem Core.breakCounter_scratch (c : Core) (n : Nat) : (c.breakCounter n).scratch = c.scratch := rfl
@[simp] theorem Core.breakCounter_shadow (c : Core) (n : Nat) : (c.breakCounter n).shadow = c.shadow := rfl
@[simp] theorem Core.breakCounter_shadowBad (c : Core) (n : Nat) : (c.breakCounter n).shadowBad = c.shadowBad := rfl
@[simp] theorem Core.breakCounter_shadowSoft (c : Core) (n : Nat) : (c.breakCounter n).shadowSoft = c.shadowSoft := rfl
@[simp] theorem Core.breakCounter_retries (c : Core) (n : Nat) : (c.breakCounter n).retries = c.retries := rfl
@[simp] theorem Core.breakCounter_late (c : Core) (n : Nat) : (c.breakCounter n).late = c.late := rfl
@[simp] theorem Core.breakCounter_ctxs (c : Core) (n : Nat) : (c.breakCounter n).ctxs = c.ctxs := rfl
@[simp] theorem Core.breakCounter_errank (c : Core) (n : Nat) : (c.breakCounter n).errank = c.errank := rfl
@[simp] theorem Core.breakCounter_cycles (c : Core) (n : Nat) : (c.breakCounter n).cycles = c.cycles := rfl
@[simp] theorem Core.breakCounter_locks (c : Core) (n : Nat) : (c.breakCounter n).locks = c.locks := rfl
@[simp] theorem Core.breakCounter_nextCmd (c : Core) (n : Nat) : (c.breakCounter n).nextCmd = c.nextCmd := rfl
@[simp] theorem Core.breakCounter_msg (c : Core) (n : Nat) : (c.breakCounter n).msg = c.msg := rfl
@[simp] theorem Core.breakCounter_tensor (c : Core) (n : Nat) : (c.breakCounter n).tensor = c.tensor := rfl
@[simp] theorem Core.breakCounter_vec (c : Core) (n : Nat) : (c.breakCounter n).vec = c.vec := rfl
@[simp] theorem Core.breakCounter_slots (c : Core) (n : Nat) : (c.breakCounter n).slots = c.slots := rfl
@[simp] theorem Core.breakCounter_sbars (c : Core) (n : Nat) : (c.breakCounter n).sbars = c.sbars := rfl

@[simp] theorem Core.unbind_live (c : Core) (n : Nat) : (c.unbind n).live = c.live := rfl
@[simp] theorem Core.unbind_role (c : Core) (n : Nat) : (c.unbind n).role = c.role := rfl
@[simp] theorem Core.unbind_halted (c : Core) (n : Nat) : (c.unbind n).halted = c.halted := rfl
@[simp] theorem Core.unbind_scratch (c : Core) (n : Nat) : (c.unbind n).scratch = c.scratch := rfl
@[simp] theorem Core.unbind_shadow (c : Core) (n : Nat) : (c.unbind n).shadow = c.shadow := rfl
@[simp] theorem Core.unbind_shadowBad (c : Core) (n : Nat) : (c.unbind n).shadowBad = c.shadowBad := rfl
@[simp] theorem Core.unbind_shadowSoft (c : Core) (n : Nat) : (c.unbind n).shadowSoft = c.shadowSoft := rfl
@[simp] theorem Core.unbind_retries (c : Core) (n : Nat) : (c.unbind n).retries = c.retries := rfl
@[simp] theorem Core.unbind_late (c : Core) (n : Nat) : (c.unbind n).late = c.late := rfl
@[simp] theorem Core.unbind_ctxs (c : Core) (n : Nat) : (c.unbind n).ctxs = c.ctxs := rfl
@[simp] theorem Core.unbind_errank (c : Core) (n : Nat) : (c.unbind n).errank = c.errank := rfl
@[simp] theorem Core.unbind_cycles (c : Core) (n : Nat) : (c.unbind n).cycles = c.cycles := rfl
@[simp] theorem Core.unbind_progress (c : Core) (n : Nat) : (c.unbind n).progress = c.progress := rfl
@[simp] theorem Core.unbind_locks (c : Core) (n : Nat) : (c.unbind n).locks = c.locks := rfl
@[simp] theorem Core.unbind_nextCmd (c : Core) (n : Nat) : (c.unbind n).nextCmd = c.nextCmd := rfl
@[simp] theorem Core.unbind_sync (c : Core) (n : Nat) : (c.unbind n).sync = c.sync := rfl
@[simp] theorem Core.unbind_msg (c : Core) (n : Nat) : (c.unbind n).msg = c.msg := rfl
@[simp] theorem Core.unbind_vec (c : Core) (n : Nat) : (c.unbind n).vec = c.vec := rfl
@[simp] theorem Core.unbind_slots (c : Core) (n : Nat) : (c.unbind n).slots = c.slots := rfl
@[simp] theorem Core.unbind_sbars (c : Core) (n : Nat) : (c.unbind n).sbars = c.sbars := rfl

@[simp] theorem Core.forget_live (c : Core) (n : Nat) : (c.forget n).live = c.live := rfl
@[simp] theorem Core.forget_role (c : Core) (n : Nat) : (c.forget n).role = c.role := rfl
@[simp] theorem Core.forget_halted (c : Core) (n : Nat) : (c.forget n).halted = c.halted := rfl
@[simp] theorem Core.forget_scratch (c : Core) (n : Nat) : (c.forget n).scratch = c.scratch := rfl
@[simp] theorem Core.forget_shadow (c : Core) (n : Nat) : (c.forget n).shadow = c.shadow := rfl
@[simp] theorem Core.forget_shadowBad (c : Core) (n : Nat) : (c.forget n).shadowBad = c.shadowBad := rfl
@[simp] theorem Core.forget_shadowSoft (c : Core) (n : Nat) : (c.forget n).shadowSoft = c.shadowSoft := rfl
@[simp] theorem Core.forget_retries (c : Core) (n : Nat) : (c.forget n).retries = c.retries := rfl
@[simp] theorem Core.forget_late (c : Core) (n : Nat) : (c.forget n).late = c.late := rfl
@[simp] theorem Core.forget_ctxs (c : Core) (n : Nat) : (c.forget n).ctxs = c.ctxs := rfl
@[simp] theorem Core.forget_errank (c : Core) (n : Nat) : (c.forget n).errank = c.errank := rfl
@[simp] theorem Core.forget_cycles (c : Core) (n : Nat) : (c.forget n).cycles = c.cycles := rfl
@[simp] theorem Core.forget_progress (c : Core) (n : Nat) : (c.forget n).progress = c.progress := rfl
@[simp] theorem Core.forget_locks (c : Core) (n : Nat) : (c.forget n).locks = c.locks := rfl
@[simp] theorem Core.forget_nextCmd (c : Core) (n : Nat) : (c.forget n).nextCmd = c.nextCmd := rfl
@[simp] theorem Core.forget_sync (c : Core) (n : Nat) : (c.forget n).sync = c.sync := rfl
@[simp] theorem Core.forget_msg (c : Core) (n : Nat) : (c.forget n).msg = c.msg := rfl
@[simp] theorem Core.forget_tensor (c : Core) (n : Nat) : (c.forget n).tensor = c.tensor := rfl
@[simp] theorem Core.forget_vec (c : Core) (n : Nat) : (c.forget n).vec = c.vec := rfl

@[simp] theorem Core.tapArrive_live (c : Core) (n : Nat) (b : Bool) : (c.tapArrive n b).live = c.live := rfl
@[simp] theorem Core.tapArrive_role (c : Core) (n : Nat) (b : Bool) : (c.tapArrive n b).role = c.role := rfl
@[simp] theorem Core.tapArrive_halted (c : Core) (n : Nat) (b : Bool) : (c.tapArrive n b).halted = c.halted := rfl
@[simp] theorem Core.tapArrive_scratch (c : Core) (n : Nat) (b : Bool) : (c.tapArrive n b).scratch = c.scratch := rfl
@[simp] theorem Core.tapArrive_shadow (c : Core) (n : Nat) (b : Bool) : (c.tapArrive n b).shadow = c.shadow := rfl
@[simp] theorem Core.tapArrive_shadowBad (c : Core) (n : Nat) (b : Bool) : (c.tapArrive n b).shadowBad = c.shadowBad := rfl
@[simp] theorem Core.tapArrive_shadowSoft (c : Core) (n : Nat) (b : Bool) : (c.tapArrive n b).shadowSoft = c.shadowSoft := rfl
@[simp] theorem Core.tapArrive_retries (c : Core) (n : Nat) (b : Bool) : (c.tapArrive n b).retries = c.retries := rfl
@[simp] theorem Core.tapArrive_late (c : Core) (n : Nat) (b : Bool) : (c.tapArrive n b).late = c.late := rfl
@[simp] theorem Core.tapArrive_ctxs (c : Core) (n : Nat) (b : Bool) : (c.tapArrive n b).ctxs = c.ctxs := rfl
@[simp] theorem Core.tapArrive_errank (c : Core) (n : Nat) (b : Bool) : (c.tapArrive n b).errank = c.errank := rfl
@[simp] theorem Core.tapArrive_cycles (c : Core) (n : Nat) (b : Bool) : (c.tapArrive n b).cycles = c.cycles := rfl
@[simp] theorem Core.tapArrive_progress (c : Core) (n : Nat) (b : Bool) : (c.tapArrive n b).progress = c.progress := rfl
@[simp] theorem Core.tapArrive_locks (c : Core) (n : Nat) (b : Bool) : (c.tapArrive n b).locks = c.locks := rfl
@[simp] theorem Core.tapArrive_nextCmd (c : Core) (n : Nat) (b : Bool) : (c.tapArrive n b).nextCmd = c.nextCmd := rfl
@[simp] theorem Core.tapArrive_msg (c : Core) (n : Nat) (b : Bool) : (c.tapArrive n b).msg = c.msg := rfl
@[simp] theorem Core.tapArrive_tensor (c : Core) (n : Nat) (b : Bool) : (c.tapArrive n b).tensor = c.tensor := rfl
@[simp] theorem Core.tapArrive_vec (c : Core) (n : Nat) (b : Bool) : (c.tapArrive n b).vec = c.vec := rfl
@[simp] theorem Core.tapArrive_slots (c : Core) (n : Nat) (b : Bool) : (c.tapArrive n b).slots = c.slots := rfl
@[simp] theorem Core.tapArrive_sbars (c : Core) (n : Nat) (b : Bool) : (c.tapArrive n b).sbars = c.sbars := rfl

@[simp] theorem Core.onRing_live (c : Core) (q : Nat) (f : Ring → Ring) : (c.onRing q f).live = c.live := rfl
@[simp] theorem Core.onRing_role (c : Core) (q : Nat) (f : Ring → Ring) : (c.onRing q f).role = c.role := rfl
@[simp] theorem Core.onRing_halted (c : Core) (q : Nat) (f : Ring → Ring) : (c.onRing q f).halted = c.halted := rfl
@[simp] theorem Core.onRing_scratch (c : Core) (q : Nat) (f : Ring → Ring) : (c.onRing q f).scratch = c.scratch := rfl
@[simp] theorem Core.onRing_shadow (c : Core) (q : Nat) (f : Ring → Ring) : (c.onRing q f).shadow = c.shadow := rfl
@[simp] theorem Core.onRing_shadowBad (c : Core) (q : Nat) (f : Ring → Ring) : (c.onRing q f).shadowBad = c.shadowBad := rfl
@[simp] theorem Core.onRing_shadowSoft (c : Core) (q : Nat) (f : Ring → Ring) : (c.onRing q f).shadowSoft = c.shadowSoft := rfl
@[simp] theorem Core.onRing_retries (c : Core) (q : Nat) (f : Ring → Ring) : (c.onRing q f).retries = c.retries := rfl
@[simp] theorem Core.onRing_late (c : Core) (q : Nat) (f : Ring → Ring) : (c.onRing q f).late = c.late := rfl
@[simp] theorem Core.onRing_ctxs (c : Core) (q : Nat) (f : Ring → Ring) : (c.onRing q f).ctxs = c.ctxs := rfl
@[simp] theorem Core.onRing_errank (c : Core) (q : Nat) (f : Ring → Ring) : (c.onRing q f).errank = c.errank := rfl
@[simp] theorem Core.onRing_cycles (c : Core) (q : Nat) (f : Ring → Ring) : (c.onRing q f).cycles = c.cycles := rfl
@[simp] theorem Core.onRing_progress (c : Core) (q : Nat) (f : Ring → Ring) : (c.onRing q f).progress = c.progress := rfl
@[simp] theorem Core.onRing_locks (c : Core) (q : Nat) (f : Ring → Ring) : (c.onRing q f).locks = c.locks := rfl
@[simp] theorem Core.onRing_nextCmd (c : Core) (q : Nat) (f : Ring → Ring) : (c.onRing q f).nextCmd = c.nextCmd := rfl
@[simp] theorem Core.onRing_sync (c : Core) (q : Nat) (f : Ring → Ring) : (c.onRing q f).sync = c.sync := rfl
@[simp] theorem Core.onRing_msg (c : Core) (q : Nat) (f : Ring → Ring) : (c.onRing q f).msg = c.msg := rfl
@[simp] theorem Core.onRing_vec (c : Core) (q : Nat) (f : Ring → Ring) : (c.onRing q f).vec = c.vec := rfl
@[simp] theorem Core.onRing_slots (c : Core) (q : Nat) (f : Ring → Ring) : (c.onRing q f).slots = c.slots := rfl
@[simp] theorem Core.onRing_sbars (c : Core) (q : Nat) (f : Ring → Ring) : (c.onRing q f).sbars = c.sbars := rfl

@[simp] theorem Core.onSlot_live (c : Core) (n : Nat) (f : Slot → Slot) : (c.onSlot n f).live = c.live := rfl
@[simp] theorem Core.onSlot_role (c : Core) (n : Nat) (f : Slot → Slot) : (c.onSlot n f).role = c.role := rfl
@[simp] theorem Core.onSlot_halted (c : Core) (n : Nat) (f : Slot → Slot) : (c.onSlot n f).halted = c.halted := rfl
@[simp] theorem Core.onSlot_scratch (c : Core) (n : Nat) (f : Slot → Slot) : (c.onSlot n f).scratch = c.scratch := rfl
@[simp] theorem Core.onSlot_shadow (c : Core) (n : Nat) (f : Slot → Slot) : (c.onSlot n f).shadow = c.shadow := rfl
@[simp] theorem Core.onSlot_shadowBad (c : Core) (n : Nat) (f : Slot → Slot) : (c.onSlot n f).shadowBad = c.shadowBad := rfl
@[simp] theorem Core.onSlot_shadowSoft (c : Core) (n : Nat) (f : Slot → Slot) : (c.onSlot n f).shadowSoft = c.shadowSoft := rfl
@[simp] theorem Core.onSlot_retries (c : Core) (n : Nat) (f : Slot → Slot) : (c.onSlot n f).retries = c.retries := rfl
@[simp] theorem Core.onSlot_late (c : Core) (n : Nat) (f : Slot → Slot) : (c.onSlot n f).late = c.late := rfl
@[simp] theorem Core.onSlot_ctxs (c : Core) (n : Nat) (f : Slot → Slot) : (c.onSlot n f).ctxs = c.ctxs := rfl
@[simp] theorem Core.onSlot_errank (c : Core) (n : Nat) (f : Slot → Slot) : (c.onSlot n f).errank = c.errank := rfl
@[simp] theorem Core.onSlot_cycles (c : Core) (n : Nat) (f : Slot → Slot) : (c.onSlot n f).cycles = c.cycles := rfl
@[simp] theorem Core.onSlot_progress (c : Core) (n : Nat) (f : Slot → Slot) : (c.onSlot n f).progress = c.progress := rfl
@[simp] theorem Core.onSlot_locks (c : Core) (n : Nat) (f : Slot → Slot) : (c.onSlot n f).locks = c.locks := rfl
@[simp] theorem Core.onSlot_nextCmd (c : Core) (n : Nat) (f : Slot → Slot) : (c.onSlot n f).nextCmd = c.nextCmd := rfl
@[simp] theorem Core.onSlot_sync (c : Core) (n : Nat) (f : Slot → Slot) : (c.onSlot n f).sync = c.sync := rfl
@[simp] theorem Core.onSlot_msg (c : Core) (n : Nat) (f : Slot → Slot) : (c.onSlot n f).msg = c.msg := rfl
@[simp] theorem Core.onSlot_tensor (c : Core) (n : Nat) (f : Slot → Slot) : (c.onSlot n f).tensor = c.tensor := rfl
@[simp] theorem Core.onSlot_vec (c : Core) (n : Nat) (f : Slot → Slot) : (c.onSlot n f).vec = c.vec := rfl
@[simp] theorem Core.onSlot_sbars (c : Core) (n : Nat) (f : Slot → Slot) : (c.onSlot n f).sbars = c.sbars := rfl

@[simp] theorem Ctx.wv_kind (x : Ctx) (r : VReg) (t : Token) : (x.wv r t).kind = x.kind := rfl
@[simp] theorem Ctx.wv_status (x : Ctx) (r : VReg) (t : Token) : (x.wv r t).status = x.status := rfl
@[simp] theorem Ctx.wv_serial (x : Ctx) (r : VReg) (t : Token) : (x.wv r t).serial = x.serial := rfl
@[simp] theorem Ctx.wv_x (x : Ctx) (r : VReg) (t : Token) : (x.wv r t).x = x.x := rfl
@[simp] theorem Ctx.wv_tg (x : Ctx) (r : VReg) (t : Token) : (x.wv r t).tg = x.tg := rfl
@[simp] theorem Ctx.wv_sg (x : Ctx) (r : VReg) (t : Token) : (x.wv r t).sg = x.sg := rfl
@[simp] theorem Ctx.wv_pc (x : Ctx) (r : VReg) (t : Token) : (x.wv r t).pc = x.pc := rfl
@[simp] theorem Ctx.wv_vstat (x : Ctx) (r : VReg) (t : Token) : (x.wv r t).vstat = x.vstat := rfl
@[simp] theorem Ctx.wv_tlevel (x : Ctx) (r : VReg) (t : Token) : (x.wv r t).tlevel = x.tlevel := rfl
@[simp] theorem Ctx.wv_tvec (x : Ctx) (r : VReg) (t : Token) : (x.wv r t).tvec = x.tvec := rfl
@[simp] theorem Ctx.wv_tsave (x : Ctx) (r : VReg) (t : Token) : (x.wv r t).tsave = x.tsave := rfl
@[simp] theorem Ctx.wv_epc1 (x : Ctx) (r : VReg) (t : Token) : (x.wv r t).epc1 = x.epc1 := rfl
@[simp] theorem Ctx.wv_epc2 (x : Ctx) (r : VReg) (t : Token) : (x.wv r t).epc2 = x.epc2 := rfl
@[simp] theorem Ctx.wv_ecause1 (x : Ctx) (r : VReg) (t : Token) : (x.wv r t).ecause1 = x.ecause1 := rfl
@[simp] theorem Ctx.wv_ecause2 (x : Ctx) (r : VReg) (t : Token) : (x.wv r t).ecause2 = x.ecause2 := rfl
@[simp] theorem Ctx.wv_eval1 (x : Ctx) (r : VReg) (t : Token) : (x.wv r t).eval1 = x.eval1 := rfl
@[simp] theorem Ctx.wv_eval2 (x : Ctx) (r : VReg) (t : Token) : (x.wv r t).eval2 = x.eval2 := rfl
@[simp] theorem Ctx.wv_bankKey (x : Ctx) (r : VReg) (t : Token) : (x.wv r t).bankKey = x.bankKey := rfl
@[simp] theorem Ctx.wv_lcych (x : Ctx) (r : VReg) (t : Token) : (x.wv r t).lcych = x.lcych := rfl
@[simp] theorem Ctx.wv_lvl (x : Ctx) (r : VReg) (t : Token) : (x.wv r t).lvl = x.lvl := rfl
@[simp] theorem Ctx.wv_lvlx (x : Ctx) (r : VReg) (t : Token) : (x.wv r t).lvlx = x.lvlx := rfl
@[simp] theorem Ctx.wv_pending (x : Ctx) (r : VReg) (t : Token) : (x.wv r t).pending = x.pending := rfl
@[simp] theorem Ctx.wv_hdr (x : Ctx) (r : VReg) (t : Token) : (x.wv r t).hdr = x.hdr := rfl
@[simp] theorem Ctx.wv_slot (x : Ctx) (r : VReg) (t : Token) : (x.wv r t).slot = x.slot := rfl
@[simp] theorem Ctx.wv_retired (x : Ctx) (r : VReg) (t : Token) : (x.wv r t).retired = x.retired := rfl
@[simp] theorem Ctx.wv_badRegs (x : Ctx) (r : VReg) (t : Token) : (x.wv r t).badRegs = x.badRegs := rfl
@[simp] theorem Ctx.wv_softRegs (x : Ctx) (r : VReg) (t : Token) : (x.wv r t).softRegs = x.softRegs := rfl
@[simp] theorem Ctx.wv_ends (x : Ctx) (r : VReg) (t : Token) : (x.wv r t).ends = x.ends := rfl
@[simp] theorem Ctx.wv_spawned (x : Ctx) (r : VReg) (t : Token) : (x.wv r t).spawned = x.spawned := rfl

@[simp] theorem Ctx.raise_kind (x : Ctx) (f : Nat) : (x.raise f).kind = x.kind := rfl
@[simp] theorem Ctx.raise_status (x : Ctx) (f : Nat) : (x.raise f).status = x.status := rfl
@[simp] theorem Ctx.raise_serial (x : Ctx) (f : Nat) : (x.raise f).serial = x.serial := rfl
@[simp] theorem Ctx.raise_x (x : Ctx) (f : Nat) : (x.raise f).x = x.x := rfl
@[simp] theorem Ctx.raise_v (x : Ctx) (f : Nat) : (x.raise f).v = x.v := rfl
@[simp] theorem Ctx.raise_tg (x : Ctx) (f : Nat) : (x.raise f).tg = x.tg := rfl
@[simp] theorem Ctx.raise_sg (x : Ctx) (f : Nat) : (x.raise f).sg = x.sg := rfl
@[simp] theorem Ctx.raise_pc (x : Ctx) (f : Nat) : (x.raise f).pc = x.pc := rfl
@[simp] theorem Ctx.raise_tlevel (x : Ctx) (f : Nat) : (x.raise f).tlevel = x.tlevel := rfl
@[simp] theorem Ctx.raise_tvec (x : Ctx) (f : Nat) : (x.raise f).tvec = x.tvec := rfl
@[simp] theorem Ctx.raise_tsave (x : Ctx) (f : Nat) : (x.raise f).tsave = x.tsave := rfl
@[simp] theorem Ctx.raise_epc1 (x : Ctx) (f : Nat) : (x.raise f).epc1 = x.epc1 := rfl
@[simp] theorem Ctx.raise_epc2 (x : Ctx) (f : Nat) : (x.raise f).epc2 = x.epc2 := rfl
@[simp] theorem Ctx.raise_ecause1 (x : Ctx) (f : Nat) : (x.raise f).ecause1 = x.ecause1 := rfl
@[simp] theorem Ctx.raise_ecause2 (x : Ctx) (f : Nat) : (x.raise f).ecause2 = x.ecause2 := rfl
@[simp] theorem Ctx.raise_eval1 (x : Ctx) (f : Nat) : (x.raise f).eval1 = x.eval1 := rfl
@[simp] theorem Ctx.raise_eval2 (x : Ctx) (f : Nat) : (x.raise f).eval2 = x.eval2 := rfl
@[simp] theorem Ctx.raise_bankKey (x : Ctx) (f : Nat) : (x.raise f).bankKey = x.bankKey := rfl
@[simp] theorem Ctx.raise_lcych (x : Ctx) (f : Nat) : (x.raise f).lcych = x.lcych := rfl
@[simp] theorem Ctx.raise_lvl (x : Ctx) (f : Nat) : (x.raise f).lvl = x.lvl := rfl
@[simp] theorem Ctx.raise_lvlx (x : Ctx) (f : Nat) : (x.raise f).lvlx = x.lvlx := rfl
@[simp] theorem Ctx.raise_pending (x : Ctx) (f : Nat) : (x.raise f).pending = x.pending := rfl
@[simp] theorem Ctx.raise_hdr (x : Ctx) (f : Nat) : (x.raise f).hdr = x.hdr := rfl
@[simp] theorem Ctx.raise_slot (x : Ctx) (f : Nat) : (x.raise f).slot = x.slot := rfl
@[simp] theorem Ctx.raise_retired (x : Ctx) (f : Nat) : (x.raise f).retired = x.retired := rfl
@[simp] theorem Ctx.raise_badRegs (x : Ctx) (f : Nat) : (x.raise f).badRegs = x.badRegs := rfl
@[simp] theorem Ctx.raise_softRegs (x : Ctx) (f : Nat) : (x.raise f).softRegs = x.softRegs := rfl
@[simp] theorem Ctx.raise_ends (x : Ctx) (f : Nat) : (x.raise f).ends = x.ends := rfl
@[simp] theorem Ctx.raise_spawned (x : Ctx) (f : Nat) : (x.raise f).spawned = x.spawned := rfl

@[simp] theorem Ctx.wx_kind (x : Ctx) (r : XReg) (v : Word) : (x.wx r v).kind = x.kind := by unfold Ctx.wx; split <;> rfl
@[simp] theorem Ctx.wx_status (x : Ctx) (r : XReg) (v : Word) : (x.wx r v).status = x.status := by unfold Ctx.wx; split <;> rfl
@[simp] theorem Ctx.wx_serial (x : Ctx) (r : XReg) (v : Word) : (x.wx r v).serial = x.serial := by unfold Ctx.wx; split <;> rfl
@[simp] theorem Ctx.wx_v (x : Ctx) (r : XReg) (v : Word) : (x.wx r v).v = x.v := by unfold Ctx.wx; split <;> rfl
@[simp] theorem Ctx.wx_tg (x : Ctx) (r : XReg) (v : Word) : (x.wx r v).tg = x.tg := by unfold Ctx.wx; split <;> rfl
@[simp] theorem Ctx.wx_sg (x : Ctx) (r : XReg) (v : Word) : (x.wx r v).sg = x.sg := by unfold Ctx.wx; split <;> rfl
@[simp] theorem Ctx.wx_pc (x : Ctx) (r : XReg) (v : Word) : (x.wx r v).pc = x.pc := by unfold Ctx.wx; split <;> rfl
@[simp] theorem Ctx.wx_vstat (x : Ctx) (r : XReg) (v : Word) : (x.wx r v).vstat = x.vstat := by unfold Ctx.wx; split <;> rfl
@[simp] theorem Ctx.wx_tlevel (x : Ctx) (r : XReg) (v : Word) : (x.wx r v).tlevel = x.tlevel := by unfold Ctx.wx; split <;> rfl
@[simp] theorem Ctx.wx_tvec (x : Ctx) (r : XReg) (v : Word) : (x.wx r v).tvec = x.tvec := by unfold Ctx.wx; split <;> rfl
@[simp] theorem Ctx.wx_tsave (x : Ctx) (r : XReg) (v : Word) : (x.wx r v).tsave = x.tsave := by unfold Ctx.wx; split <;> rfl
@[simp] theorem Ctx.wx_epc1 (x : Ctx) (r : XReg) (v : Word) : (x.wx r v).epc1 = x.epc1 := by unfold Ctx.wx; split <;> rfl
@[simp] theorem Ctx.wx_epc2 (x : Ctx) (r : XReg) (v : Word) : (x.wx r v).epc2 = x.epc2 := by unfold Ctx.wx; split <;> rfl
@[simp] theorem Ctx.wx_ecause1 (x : Ctx) (r : XReg) (v : Word) : (x.wx r v).ecause1 = x.ecause1 := by unfold Ctx.wx; split <;> rfl
@[simp] theorem Ctx.wx_ecause2 (x : Ctx) (r : XReg) (v : Word) : (x.wx r v).ecause2 = x.ecause2 := by unfold Ctx.wx; split <;> rfl
@[simp] theorem Ctx.wx_eval1 (x : Ctx) (r : XReg) (v : Word) : (x.wx r v).eval1 = x.eval1 := by unfold Ctx.wx; split <;> rfl
@[simp] theorem Ctx.wx_eval2 (x : Ctx) (r : XReg) (v : Word) : (x.wx r v).eval2 = x.eval2 := by unfold Ctx.wx; split <;> rfl
@[simp] theorem Ctx.wx_bankKey (x : Ctx) (r : XReg) (v : Word) : (x.wx r v).bankKey = x.bankKey := by unfold Ctx.wx; split <;> rfl
@[simp] theorem Ctx.wx_lcych (x : Ctx) (r : XReg) (v : Word) : (x.wx r v).lcych = x.lcych := by unfold Ctx.wx; split <;> rfl
@[simp] theorem Ctx.wx_lvl (x : Ctx) (r : XReg) (v : Word) : (x.wx r v).lvl = x.lvl := by unfold Ctx.wx; split <;> rfl
@[simp] theorem Ctx.wx_lvlx (x : Ctx) (r : XReg) (v : Word) : (x.wx r v).lvlx = x.lvlx := by unfold Ctx.wx; split <;> rfl
@[simp] theorem Ctx.wx_pending (x : Ctx) (r : XReg) (v : Word) : (x.wx r v).pending = x.pending := by unfold Ctx.wx; split <;> rfl
@[simp] theorem Ctx.wx_hdr (x : Ctx) (r : XReg) (v : Word) : (x.wx r v).hdr = x.hdr := by unfold Ctx.wx; split <;> rfl
@[simp] theorem Ctx.wx_slot (x : Ctx) (r : XReg) (v : Word) : (x.wx r v).slot = x.slot := by unfold Ctx.wx; split <;> rfl
@[simp] theorem Ctx.wx_retired (x : Ctx) (r : XReg) (v : Word) : (x.wx r v).retired = x.retired := by unfold Ctx.wx; split <;> rfl
@[simp] theorem Ctx.wx_badRegs (x : Ctx) (r : XReg) (v : Word) : (x.wx r v).badRegs = x.badRegs := by unfold Ctx.wx; split <;> rfl
@[simp] theorem Ctx.wx_softRegs (x : Ctx) (r : XReg) (v : Word) : (x.wx r v).softRegs = x.softRegs := by unfold Ctx.wx; split <;> rfl
@[simp] theorem Ctx.wx_ends (x : Ctx) (r : XReg) (v : Word) : (x.wx r v).ends = x.ends := by unfold Ctx.wx; split <;> rfl
@[simp] theorem Ctx.wx_spawned (x : Ctx) (r : XReg) (v : Word) : (x.wx r v).spawned = x.spawned := by unfold Ctx.wx; split <;> rfl

@[simp] theorem Ctx.wpair_kind (x : Ctx) (r : XReg) (v : DWord) : (x.wpair r v).kind = x.kind := by unfold Ctx.wpair; split <;> simp
@[simp] theorem Ctx.wpair_status (x : Ctx) (r : XReg) (v : DWord) : (x.wpair r v).status = x.status := by unfold Ctx.wpair; split <;> simp
@[simp] theorem Ctx.wpair_serial (x : Ctx) (r : XReg) (v : DWord) : (x.wpair r v).serial = x.serial := by unfold Ctx.wpair; split <;> simp
@[simp] theorem Ctx.wpair_v (x : Ctx) (r : XReg) (v : DWord) : (x.wpair r v).v = x.v := by unfold Ctx.wpair; split <;> simp
@[simp] theorem Ctx.wpair_tg (x : Ctx) (r : XReg) (v : DWord) : (x.wpair r v).tg = x.tg := by unfold Ctx.wpair; split <;> simp
@[simp] theorem Ctx.wpair_sg (x : Ctx) (r : XReg) (v : DWord) : (x.wpair r v).sg = x.sg := by unfold Ctx.wpair; split <;> simp
@[simp] theorem Ctx.wpair_pc (x : Ctx) (r : XReg) (v : DWord) : (x.wpair r v).pc = x.pc := by unfold Ctx.wpair; split <;> simp
@[simp] theorem Ctx.wpair_vstat (x : Ctx) (r : XReg) (v : DWord) : (x.wpair r v).vstat = x.vstat := by unfold Ctx.wpair; split <;> simp
@[simp] theorem Ctx.wpair_tlevel (x : Ctx) (r : XReg) (v : DWord) : (x.wpair r v).tlevel = x.tlevel := by unfold Ctx.wpair; split <;> simp
@[simp] theorem Ctx.wpair_tvec (x : Ctx) (r : XReg) (v : DWord) : (x.wpair r v).tvec = x.tvec := by unfold Ctx.wpair; split <;> simp
@[simp] theorem Ctx.wpair_tsave (x : Ctx) (r : XReg) (v : DWord) : (x.wpair r v).tsave = x.tsave := by unfold Ctx.wpair; split <;> simp
@[simp] theorem Ctx.wpair_epc1 (x : Ctx) (r : XReg) (v : DWord) : (x.wpair r v).epc1 = x.epc1 := by unfold Ctx.wpair; split <;> simp
@[simp] theorem Ctx.wpair_epc2 (x : Ctx) (r : XReg) (v : DWord) : (x.wpair r v).epc2 = x.epc2 := by unfold Ctx.wpair; split <;> simp
@[simp] theorem Ctx.wpair_ecause1 (x : Ctx) (r : XReg) (v : DWord) : (x.wpair r v).ecause1 = x.ecause1 := by unfold Ctx.wpair; split <;> simp
@[simp] theorem Ctx.wpair_ecause2 (x : Ctx) (r : XReg) (v : DWord) : (x.wpair r v).ecause2 = x.ecause2 := by unfold Ctx.wpair; split <;> simp
@[simp] theorem Ctx.wpair_eval1 (x : Ctx) (r : XReg) (v : DWord) : (x.wpair r v).eval1 = x.eval1 := by unfold Ctx.wpair; split <;> simp
@[simp] theorem Ctx.wpair_eval2 (x : Ctx) (r : XReg) (v : DWord) : (x.wpair r v).eval2 = x.eval2 := by unfold Ctx.wpair; split <;> simp
@[simp] theorem Ctx.wpair_bankKey (x : Ctx) (r : XReg) (v : DWord) : (x.wpair r v).bankKey = x.bankKey := by unfold Ctx.wpair; split <;> simp
@[simp] theorem Ctx.wpair_lcych (x : Ctx) (r : XReg) (v : DWord) : (x.wpair r v).lcych = x.lcych := by unfold Ctx.wpair; split <;> simp
@[simp] theorem Ctx.wpair_lvl (x : Ctx) (r : XReg) (v : DWord) : (x.wpair r v).lvl = x.lvl := by unfold Ctx.wpair; split <;> simp
@[simp] theorem Ctx.wpair_lvlx (x : Ctx) (r : XReg) (v : DWord) : (x.wpair r v).lvlx = x.lvlx := by unfold Ctx.wpair; split <;> simp
@[simp] theorem Ctx.wpair_pending (x : Ctx) (r : XReg) (v : DWord) : (x.wpair r v).pending = x.pending := by unfold Ctx.wpair; split <;> simp
@[simp] theorem Ctx.wpair_hdr (x : Ctx) (r : XReg) (v : DWord) : (x.wpair r v).hdr = x.hdr := by unfold Ctx.wpair; split <;> simp
@[simp] theorem Ctx.wpair_slot (x : Ctx) (r : XReg) (v : DWord) : (x.wpair r v).slot = x.slot := by unfold Ctx.wpair; split <;> simp
@[simp] theorem Ctx.wpair_retired (x : Ctx) (r : XReg) (v : DWord) : (x.wpair r v).retired = x.retired := by unfold Ctx.wpair; split <;> simp
@[simp] theorem Ctx.wpair_badRegs (x : Ctx) (r : XReg) (v : DWord) : (x.wpair r v).badRegs = x.badRegs := by unfold Ctx.wpair; split <;> simp
@[simp] theorem Ctx.wpair_softRegs (x : Ctx) (r : XReg) (v : DWord) : (x.wpair r v).softRegs = x.softRegs := by unfold Ctx.wpair; split <;> simp
@[simp] theorem Ctx.wpair_ends (x : Ctx) (r : XReg) (v : DWord) : (x.wpair r v).ends = x.ends := by unfold Ctx.wpair; split <;> simp
@[simp] theorem Ctx.wpair_spawned (x : Ctx) (r : XReg) (v : DWord) : (x.wpair r v).spawned = x.spawned := by unfold Ctx.wpair; split <;> simp

end Sys2Proof.Machine
end

