-- ==== Sys2Proof/Laws/Ops.lean ====
section
/-!
SUPPORT. What each shared operation can do, said once: cores and contexts after an update, registers after a write, the
checks every instruction makes (`gate`), taking a trap and being killed by one, accesses and control transfers.
-/
set_option Elab.async false
set_option linter.unusedSimpArgs false

namespace Sys2Proof.Machine
open Sys2Proof

/-! ## Cores and contexts -/

theorem vector_get {α : Type} {n : Nat} (v : Vector α n) (i : Fin n) : v.get i = v[i.val] := rfl

@[simp] theorem core_setCore_self (s : State) (p : Site) (c : Core) : (s.setCore p c).core p = c := by
  simp [State.core, State.setCore]

theorem core_setCore_ne (s : State) (p q : Site) (c : Core) (h : q ≠ p) : (s.setCore p c).core q = s.core q := by
  have : q.toNat ≠ p.toNat := fun e => h (BitVec.eq_of_toNat_eq e)
  simp [State.core, State.setCore, assocGet_assocSet_ne _ _ _ _ this]

@[simp] theorem core_onCore_self (s : State) (p : Site) (f : Core → Core) : (s.onCore p f).core p = f (s.core p) := by
  simp [State.onCore]

theorem core_onCore_ne (s : State) (p q : Site) (f : Core → Core) (h : q ≠ p) : (s.onCore p f).core q = s.core q :=
  core_setCore_ne s p q _ h

@[simp] theorem ctx_setCtx_self (c : Core) (k : CtxNo) (x : Ctx) : (c.setCtx k x).ctx k = x := by
  simp [Core.setCtx, Core.ctx, vector_get, Vector.getElem_set]

theorem ctx_setCtx_ne (c : Core) (k j : CtxNo) (x : Ctx) (h : j ≠ k) : (c.setCtx k x).ctx j = c.ctx j := by
  have : (k : Nat) ≠ j := fun e => h (Fin.ext e.symm)
  simp [Core.setCtx, Core.ctx, vector_get, Vector.getElem_set, this]

@[simp] theorem ctx_onCtx_self (c : Core) (k : CtxNo) (f : Ctx → Ctx) : (c.onCtx k f).ctx k = f (c.ctx k) := by
  simp [Core.onCtx]

theorem ctx_onCtx_ne (c : Core) (k j : CtxNo) (f : Ctx → Ctx) (h : j ≠ k) : (c.onCtx k f).ctx j = c.ctx j :=
  ctx_setCtx_ne c k j _ h

@[simp] theorem here_onHere (s : State) (f : Core → Core) : (s.onHere f).here = f s.here := by
  simp [State.here, State.onHere]

@[simp] theorem here_onMe (s : State) (f : Ctx → Ctx) : (s.onMe f).here = s.here.onCtx s.cur.2 f := by
  simp [State.onMe]

@[simp] theorem me_onMe (s : State) (f : Ctx → Ctx) : (s.onMe f).me = f s.me := by
  simp [State.me]

@[simp] theorem me_onHere (s : State) (f : Core → Core) : (s.onHere f).me = (f s.here).ctx s.cur.2 := by
  simp [State.me]

theorem core_onHere_ne (s : State) (f : Core → Core) (q : Site) (h : q ≠ s.cur.1) : (s.onHere f).core q = s.core q :=
  core_onCore_ne s s.cur.1 q f h

theorem core_onMe_ne (s : State) (f : Ctx → Ctx) (q : Site) (h : q ≠ s.cur.1) : (s.onMe f).core q = s.core q :=
  core_onHere_ne s _ q h

/-- Bytes of any core after a change to the issuing context. -/
@[simp] theorem scratch_onMe (s : State) (f : Ctx → Ctx) (q : Site) : ((s.onMe f).core q).scratch = (s.core q).scratch := by
  by_cases h : q = s.cur.1
  · subst h; simp [State.onMe, State.onHere]
  · rw [core_onMe_ne s f q h]

/-! ## Registers (R73, R74) -/

@[simp] theorem rx_zero (x : Ctx) : x.rx 0 = 0 := rfl

@[simp] theorem wx_zero (x : Ctx) (v : Word) : x.wx 0 v = x := rfl

theorem rx_wx_self (x : Ctx) (r : XReg) (v : Word) (h : r ≠ 0) : (x.wx r v).rx r = v := by
  have h' : r.val ≠ 0 := fun e => h (Fin.ext e)
  simp [Ctx.wx, Ctx.rx, h', vector_get, Vector.getElem_set]

theorem rx_wx_ne (x : Ctx) (r q : XReg) (v : Word) (h : q ≠ r) : (x.wx r v).rx q = x.rx q := by
  have h' : (r : Nat) ≠ q := fun e => h (Fin.ext e.symm)
  unfold Ctx.wx Ctx.rx
  split
  · rfl
  · split
    · rfl
    · simp [vector_get, Vector.getElem_set, h']

/-! ## The checks before an instruction's own (R88, R147) -/

/-- A context that may not issue runs nothing. -/
theorem gate_idle (i : Instr) (s : State) (own : State → State) (h : s.issuing = false) :
    gate i s own = .fault .notIssuing := by
  simp [gate, h]

/-- No correctable error in a register the instruction reads: nothing to replay. -/
theorem replay_clean {i : Instr} {s : State} (h : ∀ r ∈ readCodes i, r ∉ s.me.softRegs) : s.replay i = s := by
  have : (s.me.softRegs.filter fun r => (readCodes i).contains r) = [] := by
    rw [List.filter_eq_nil_iff]
    intro r hm hc
    exact h r (by simpa using hc) hm
  unfold State.replay
  simp only [this, List.isEmpty_nil, if_true]

/-- With nothing in the way, the instruction's own part runs. -/
theorem gate_clear {i : Instr} {s : State} (own : State → State) (h : s.issuing = true)
    (hr : rangeFault s.here.role i = none) (hp : privFault i = none) (hb : ∀ r ∈ readCodes i, r ∉ s.me.badRegs)
    (hs : ∀ r ∈ readCodes i, r ∉ s.me.softRegs) (hq : queueFull s.here i = false) :
    gate i s own = .next (own s) := by
  have hf : ((readCodes i).find? fun r => s.me.badRegs.contains r) = none := by
    rw [List.find?_eq_none]
    intro r hm
    simpa using hb r hm
  simp only [gate, h, hr, hp, hf, hq, replay_clean hs, if_true, Bool.false_eq_true, if_false]

/-- What an instruction can do: a trap of one of the three checks, a stall on a full queue, or its own part after the
replay. -/
theorem gate_next {i : Instr} {s t : State} {own : State → State} (h : gate i s own = .next t) :
    s.issuing = true ∧
      ((∃ v, t = s.trap REGRANGE v) ∨ (∃ v, t = s.trap PRIV v) ∨ (∃ v, t = (s.countError s.cur.1).trap MCHK v) ∨ t = s
        ∨ t = own (s.replay i)) := by
  unfold gate at h
  split at h
  · refine ⟨‹_›, ?_⟩
    split at h
    · cases h; exact .inl ⟨_, rfl⟩
    · split at h
      · cases h; exact .inr (.inl ⟨_, rfl⟩)
      · split at h
        · cases h
          rw [State.machineCheck]
          split
          · exact .inr (.inr (.inr (.inl rfl)))
          · exact .inr (.inr (.inl ⟨_, rfl⟩))
        · cases h
          split
          · exact .inr (.inr (.inr (.inl rfl)))
          · exact .inr (.inr (.inr (.inr rfl)))
  · cases h

/-- An instruction of a context that may issue always answers a next state. -/
theorem gate_answers (i : Instr) (s : State) (own : State → State) (h : s.issuing = true) :
    ∃ t, gate i s own = .next t := by
  unfold gate
  simp only [h, if_true]
  split
  · exact ⟨_, rfl⟩
  · split
    · exact ⟨_, rfl⟩
    · split <;> exact ⟨_, rfl⟩

/-! ## Traps (R140, R141) -/

/-- Entry to the next trap level. -/
theorem takeTrap_enter {s : State} {p : Site} {k : CtxNo} {async : Bool} {f : AsyncFault} {epc : Word}
    (hl : ((s.core p).ctx k).tlevel ≤ 1) (he : ((s.core p).ctx k).tvec.getLsbD 0 = true) :
    s.takeTrap p k async f epc = s.onCore p fun c => c.onCtx k fun x => x.enter (ecauseWord async f) f.val epc := by
  simp [State.takeTrap, hl, he]

/-- A trap enters, waits for the vector engine, or kills. -/
theorem takeTrap_cases (s : State) (p : Site) (k : CtxNo) (async : Bool) (f : AsyncFault) (epc : Word) :
    s.takeTrap p k async f epc = (s.onCore p fun c => c.onCtx k fun x => x.enter (ecauseWord async f) f.val epc)
      ∨ s.takeTrap p k async f epc = s
      ∨ s.takeTrap p k async f epc
          = s.kill p k (if ((s.core p).ctx k).tlevel = 2 then 0 else 1) epc (ecauseWord async f) f.val := by
  unfold State.takeTrap
  dsimp only
  split
  · exact .inl rfl
  · split
    · exact .inr (.inl rfl)
    · exact .inr (.inr rfl)

@[simp] theorem enter_x (x : Ctx) (c v e : Word) : (x.enter c v e).x = x.x := by unfold Ctx.enter; split <;> rfl
@[simp] theorem enter_v (x : Ctx) (c v e : Word) : (x.enter c v e).v = x.v := by unfold Ctx.enter; split <;> rfl
@[simp] theorem enter_pc (x : Ctx) (c v e : Word) : (x.enter c v e).pc = x.tvec &&& 0xFFFFFFFC := by
  unfold Ctx.enter; split <;> rfl
@[simp] theorem enter_rx (x : Ctx) (c v e : Word) (r : XReg) : (x.enter c v e).rx r = x.rx r := by
  simp [Ctx.rx]

/-! ## Control transfers and accesses (R78, R116 to R120) -/

theorem jumpTo_ok {s : State} {target : Word} (go : State) (ha : target.toNat % 4 = 0)
    (hr : oneRegion s.here.role s.cur.2 .fetch target.toNat 4 = true) : jumpTo s target go = go := by
  simp [jumpTo, ha, hr]

theorem access_ok {s : State} {acc : Access} {ea n : Nat} (go : State → State)
    (hf : accessFault s.here s.cur.2 acc ea n = none) (ha : absent s.here ea n = false) :
    access s acc ea n go = go (s.scrub s.cur.1 ea n) := by
  simp [access, hf, ha]

theorem record_ok {s : State} {a : Word} {align n : Nat} (go : State → State) (h0 : a.toNat % align = 0)
    (h1 : oneRegion s.here.role s.cur.2 .load a.toNat n = true) (h2 : lockFault s.here a.toNat n false = none)
    (h3 : badWord s.here a.toNat n = none) (h4 : absent s.here a.toNat n = false) :
    record s a align n go = go (s.scrub s.cur.1 a.toNat n) := by
  simp [record, h0, h1, h2, h3, h4]

/-- No correctable error among the bytes: nothing to repair. -/
theorem scrub_clean {s : State} {p : Site} {a n : Nat}
    (h : ∀ w ∈ (s.core p).scratch.soft, ¬ (w < a + n ∧ a < w + 8)) : s.scrub p a n = s := by
  have : ((s.core p).scratch.soft.filter fun w => decide (n ≠ 0 ∧ w < a + n ∧ a < w + 8)) = [] := by
    rw [List.filter_eq_nil_iff]
    intro w hw
    simpa using fun _ : n ≠ 0 => by simpa using h w hw
  unfold State.scrub
  simp only [this, List.isEmpty_nil, if_true]

/-- A count of corrected errors touches the count and the mark of one core. -/
theorem core_countCorrected (s : State) (p q : Site) (n : Nat) :
    ∃ corrected marked, (s.countCorrected p n).core q = { s.core q with
      scratch := { (s.core q).scratch with corrected := corrected, marked := marked } } := by
  by_cases h : q = p
  · subst h
    exact ⟨_, _, core_onCore_self s q fun c => { c with scratch := { c.scratch with
      corrected := c.scratch.corrected + n, marked := c.scratch.marked || decide (256 ≤ c.scratch.corrected + n) } }⟩
  · have e : (s.countCorrected p n).core q = s.core q := core_onCore_ne s p q (fun c => { c with scratch := { c.scratch with
      corrected := c.scratch.corrected + n, marked := c.scratch.marked || decide (256 ≤ c.scratch.corrected + n) } }) h
    exact ⟨(s.core q).scratch.corrected, (s.core q).scratch.marked, e⟩

/-- A repair touches the error words and the counts of one core. -/
theorem core_scrub (s : State) (p q : Site) (a n : Nat) :
    ∃ soft corrected marked, (s.scrub p a n).core q = { s.core q with
      scratch := { (s.core q).scratch with soft := soft, corrected := corrected, marked := marked } } := by
  unfold State.scrub
  dsimp only
  split
  · exact ⟨(s.core q).scratch.soft, (s.core q).scratch.corrected, (s.core q).scratch.marked, rfl⟩
  · obtain ⟨co, ma, e⟩ := core_countCorrected (s.onCore p fun c => { c with scratch := { c.scratch with
      soft := c.scratch.soft.filter fun w => !decide (n ≠ 0 ∧ w < a + n ∧ a < w + 8) } }) p q
      ((s.core p).scratch.soft.filter fun w => decide (n ≠ 0 ∧ w < a + n ∧ a < w + 8)).length
    rw [e]
    by_cases h : q = p
    · subst h; rw [core_onCore_self]; exact ⟨_, co, ma, rfl⟩
    · rw [core_onCore_ne s p q _ h]; exact ⟨(s.core q).scratch.soft, co, ma, rfl⟩

/-- Repairing errors changes no byte. -/
@[simp] theorem scrub_mem (s : State) (p q : Site) (a n : Nat) :
    ((s.scrub p a n).core q).scratch.mem = (s.core q).scratch.mem := by
  obtain ⟨_, _, _, h⟩ := core_scrub s p q a n; rw [h]

/-- Repairing errors changes no context. -/
@[simp] theorem scrub_ctxs (s : State) (p q : Site) (a n : Nat) : ((s.scrub p a n).core q).ctxs = (s.core q).ctxs := by
  obtain ⟨_, _, _, h⟩ := core_scrub s p q a n; rw [h]

@[simp] theorem scrub_cur (s : State) (p : Site) (a n : Nat) : (s.scrub p a n).cur = s.cur := by
  unfold State.scrub; dsimp only; split <;> rfl

@[simp] theorem scrub_me (s : State) (p : Site) (a n : Nat) : (s.scrub p a n).me = s.me := by
  simp [State.me, State.here, Core.ctx]

/-- Counting retries touches the counts and the mark of one core. -/
theorem core_countRetries (s : State) (p q : Site) :
    ∃ retries corrected marked, (s.countRetries p).core q = { s.core q with
      retries := retries, scratch := { (s.core q).scratch with corrected := corrected, marked := marked } } := by
  unfold State.countRetries
  split
  · exact ⟨_, _, _, rfl⟩
  · obtain ⟨co, ma, e⟩ := core_countCorrected (s.onCore p fun c => { c with retries := 0 }) p q (s.core p).retries
    rw [e]
    by_cases h : q = p
    · subst h; rw [core_onCore_self]; exact ⟨0, co, ma, rfl⟩
    · rw [core_onCore_ne s p q _ h]; exact ⟨(s.core q).retries, co, ma, rfl⟩

@[simp] theorem countRetries_mesh (s : State) (p : Site) : (s.countRetries p).mesh = s.mesh := by
  unfold State.countRetries; split <;> rfl

@[simp] theorem countRetries_cur (s : State) (p : Site) : (s.countRetries p).cur = s.cur := by
  unfold State.countRetries; split <;> rfl

@[simp] theorem countRetries_edge (s : State) (p : Site) : (s.countRetries p).edge = s.edge := by
  unfold State.countRetries; split <;> rfl

@[simp] theorem countRetries_host (s : State) (p : Site) : (s.countRetries p).host = s.host := by
  unfold State.countRetries; split <;> rfl

@[simp] theorem countRetries_mem (s : State) (p q : Site) :
    ((s.countRetries p).core q).scratch.mem = (s.core q).scratch.mem := by
  obtain ⟨_, _, _, h⟩ := core_countRetries s p q; rw [h]

/-! ## Scratchpad -/

theorem wf_put {c : Core} (a : Nat) (bs : List Byte) (h : c.scratch.mem.wf = true) : (c.put a bs).scratch.mem.wf = true :=
  wf_writeBytes a bs h

/-- A store leaves every byte outside it alone. -/
theorem put_outside (c : Core) (a b : Nat) (bs : List Byte) (h : b < a ∨ a + bs.length ≤ b) :
    memGet (c.put a bs).scratch.mem b = memGet c.scratch.mem b :=
  memGet_writeBytes_outside _ _ _ _ h

theorem wf_putAll {c : Core} (parts : List (Nat × List Byte)) (h : c.scratch.mem.wf = true) :
    (c.putAll parts).scratch.mem.wf = true := by
  unfold Core.putAll
  induction parts generalizing c with
  | nil => exact h
  | cons e rest ih => exact ih (wf_put e.1 e.2 h)

/-- A store in parts leaves every byte outside them alone. -/
theorem putAll_outside (c : Core) (parts : List (Nat × List Byte)) (b : Nat)
    (h : ∀ e ∈ parts, b < e.1 ∨ e.1 + e.2.length ≤ b) : memGet (c.putAll parts).scratch.mem b = memGet c.scratch.mem b := by
  unfold Core.putAll
  induction parts generalizing c with
  | nil => rfl
  | cons e rest ih =>
    exact (ih (c.put e.1 e.2) fun d hd => h d (.tail _ hd)).trans (put_outside c e.1 b e.2 (h e (.head _)))

/-- The bytes stored are read back. -/
theorem bytes_put {c : Core} (a : Nat) (bs : List Byte) (h : c.scratch.mem.wf = true) :
    (c.put a bs).bytes a bs.length = bs :=
  readBytes_writeBytes a bs h

end Sys2Proof.Machine
end

