-- ==== Sys2Proof/Laws/Compose.lean ====
section
/-!
SUPPORT. Updates one after the other: two updates of one core, context or vector element are one, a read after a write of an
element, and what repairing errors leaves of a core.
-/
set_option Elab.async false

namespace Sys2Proof.Machine
open Sys2Proof

/-! ## One update after another -/

@[simp] theorem assocSet_assocSet {α : Type} (l : List (Nat × α)) (k : Nat) (v w : α) :
    assocSet (assocSet l k v) k w = assocSet l k w := by
  induction l with
  | nil => simp [assocSet]
  | cons e l ih =>
    obtain ⟨j, u⟩ := e
    rw [assocSet, assocSet]
    split
    · simp [assocSet]
    · split
      · simp [assocSet]
      · rw [assocSet, if_neg ‹_›, if_neg ‹_›, ih]

@[simp] theorem setCore_setCore (s : State) (p : Site) (c d : Core) : (s.setCore p c).setCore p d = s.setCore p d := by
  simp [State.setCore]

@[simp] theorem onCore_onCore (s : State) (p : Site) (f g : Core → Core) :
    (s.onCore p f).onCore p g = s.onCore p fun c => g (f c) := by
  rw [State.onCore, core_onCore_self, State.onCore, setCore_setCore, State.onCore]

@[simp] theorem onHere_onHere (s : State) (f g : Core → Core) : (s.onHere f).onHere g = s.onHere fun c => g (f c) :=
  onCore_onCore s s.cur.1 f g

@[simp] theorem setCtx_setCtx (c : Core) (k : CtxNo) (x y : Ctx) : (c.setCtx k x).setCtx k y = c.setCtx k y := by
  unfold Core.setCtx
  congr 1
  apply Vector.ext
  intro i hi
  simp only [Vector.getElem_set]
  split <;> rfl

@[simp] theorem onCtx_onCtx (c : Core) (k : CtxNo) (f g : Ctx → Ctx) : (c.onCtx k f).onCtx k g = c.onCtx k fun x => g (f x) := by
  rw [Core.onCtx, ctx_onCtx_self, Core.onCtx, setCtx_setCtx, Core.onCtx]

@[simp] theorem onMe_onMe (s : State) (f g : Ctx → Ctx) : (s.onMe f).onMe g = s.onMe fun x => g (f x) := by
  change (s.onHere _).onHere _ = s.onHere _
  simp

/-- The core at a site after it was updated there and nowhere else. -/
theorem core_onCore (s : State) (p q : Site) (f : Core → Core) :
    (s.onCore p f).core q = if q = p then f (s.core q) else s.core q := by
  split
  · subst_vars; exact core_onCore_self s _ f
  · exact core_onCore_ne s p q f ‹_›

theorem ctx_onCtx (c : Core) (k j : CtxNo) (f : Ctx → Ctx) :
    (c.onCtx k f).ctx j = if j = k then f (c.ctx j) else c.ctx j := by
  split
  · subst_vars; exact ctx_onCtx_self c _ f
  · exact ctx_onCtx_ne c k j f ‹_›

/-! ## Vectors by number -/

theorem vget_vset_self {α : Type} [Inhabited α] {n : Nat} (v : Vector α n) (i : Nat) (a : α) (h : i < n) :
    vget (vset v i a) i = a := by
  simp [vget, vset, Vector.getD, h]

theorem vget_vset_ne {α : Type} [Inhabited α] {n : Nat} (v : Vector α n) (i j : Nat) (a : α) (h : j ≠ i) :
    vget (vset v i a) j = vget v j := by
  unfold vget vset Vector.getD
  by_cases hj : j < n
  · simp [hj, Ne.symm h]
  · simp [hj]

/-- A write past the end of a vector does nothing. -/
theorem vset_of_le {α : Type} {n : Nat} (v : Vector α n) (i : Nat) (a : α) (h : n ≤ i) : vset v i a = v := by
  apply Vector.ext
  intro j hj
  simp only [vset, Vector.getElem_setIfInBounds]
  rw [if_neg (by omega)]

@[simp] theorem vset_vset {α : Type} {n : Nat} (v : Vector α n) (i : Nat) (a b : α) : vset (vset v i a) i b = vset v i b := by
  apply Vector.ext
  intro j hj
  simp only [vset, Vector.getElem_setIfInBounds]
  split <;> rfl

@[simp] theorem vset_vget {α : Type} [Inhabited α] {n : Nat} (v : Vector α n) (i : Nat) : vset v i (vget v i) = v := by
  by_cases h : i < n
  · apply Vector.ext
    intro j hj
    simp only [vset, Vector.getElem_setIfInBounds]
    split
    · subst_vars; simp [vget, Vector.getD, hj]
    · rfl
  · exact vset_of_le v i _ (by omega)

/-- The element at a number, in range or not, is the default one past the end. -/
theorem vget_of_le {α : Type} [Inhabited α] {n : Nat} (v : Vector α n) (i : Nat) (h : n ≤ i) : vget v i = default := by
  simp [vget, Vector.getD, Nat.not_lt.mpr h]

theorem vget_eq_getElem {α : Type} [Inhabited α] {n : Nat} (v : Vector α n) (i : Nat) (h : i < n) : vget v i = v[i] := by
  simp [vget, Vector.getD, h]

/-! ## Repairing correctable errors (R120) -/

/-- A repair leaves everything outside the cores and the field stations alone. -/
theorem scrub_outside (s : State) (p : Site) (a n : Nat) :
    ∃ cores fields, s.scrub p a n = { s with cores := cores, station := { s.station with fields := fields } } := by
  unfold State.scrub
  dsimp only
  split
  · exact ⟨s.cores, s.station.fields, rfl⟩
  · exact ⟨_, _, rfl⟩

@[simp] theorem scrub_edge (s : State) (p : Site) (a n : Nat) : (s.scrub p a n).edge = s.edge := by
  obtain ⟨_, _, h⟩ := scrub_outside s p a n; rw [h]
@[simp] theorem scrub_host (s : State) (p : Site) (a n : Nat) : (s.scrub p a n).host = s.host := by
  obtain ⟨_, _, h⟩ := scrub_outside s p a n; rw [h]
@[simp] theorem scrub_mesh (s : State) (p : Site) (a n : Nat) : (s.scrub p a n).mesh = s.mesh := by
  obtain ⟨_, _, h⟩ := scrub_outside s p a n; rw [h]
@[simp] theorem scrub_num (s : State) (p : Site) (a n : Nat) : (s.scrub p a n).num = s.num := by
  obtain ⟨_, _, h⟩ := scrub_outside s p a n; rw [h]
@[simp] theorem scrub_agenda (s : State) (p : Site) (a n : Nat) : (s.scrub p a n).agenda = s.agenda := by
  obtain ⟨_, _, h⟩ := scrub_outside s p a n; rw [h]
@[simp] theorem scrub_freeCount (s : State) (p : Site) (a n : Nat) : (s.scrub p a n).freeCount = s.freeCount := by
  obtain ⟨_, _, h⟩ := scrub_outside s p a n; rw [h]
@[simp] theorem scrub_edgeReqs (s : State) (p : Site) (a n : Nat) : (s.scrub p a n).edgeReqs = s.edgeReqs := by
  obtain ⟨_, _, h⟩ := scrub_outside s p a n; rw [h]
@[simp] theorem scrub_launches (s : State) (p : Site) (a n : Nat) : (s.scrub p a n).station.launches = s.station.launches := by
  obtain ⟨_, _, h⟩ := scrub_outside s p a n; rw [h]

@[simp] theorem nat_scrub (s : State) (p q : Site) (a n b k : Nat) : ((s.scrub p a n).core q).nat b k = (s.core q).nat b k := by
  simp [Core.nat]
@[simp] theorem word_scrub (s : State) (p q : Site) (a n b : Nat) : ((s.scrub p a n).core q).word b = (s.core q).word b := by
  simp [Core.word]
@[simp] theorem bytes_scrub (s : State) (p q : Site) (a n b k : Nat) :
    ((s.scrub p a n).core q).bytes b k = (s.core q).bytes b k := by
  simp [Core.bytes]

@[simp] theorem releaseStalls_scrub (s : State) (p : Site) (a n : Nat) (ord : MemOrd) (sc : Scope) :
    releaseStalls (s.scrub p a n) ord sc = releaseStalls s ord sc := by
  obtain ⟨_, _, _, h⟩ := core_scrub s p s.cur.1 a n
  simp only [releaseStalls, State.here, scrub_cur, h]
  rfl

end Sys2Proof.Machine
end

