-- ==== Sys2Proof/Laws/Decode.lean ====
section
/-!
SUPPORT. The decoder on the words the encoder writes: each field of each format, each operand code, and one lemma for
each operand shape (R73 to R87).
-/
set_option Elab.async false
set_option linter.unusedSimpArgs false

namespace Sys2Proof

/-! ## The fields of each format -/

@[simp] theorem wordA_26_6 (op : BitVec 6) (d a b : BitVec 5) (lit : BitVec 2) (fn : BitVec 9) :
    (wordA op d a b lit fn).extractLsb' 26 6 = op := by
  simp (disch := decide) only [wordA, BitVec.extractLsb'_cast, BitVec.cast_eq, BitVec.extractLsb'_append_eq_of_le, BitVec.extractLsb'_append_eq_of_add_le, BitVec.extractLsb'_eq_self, Nat.reduceSub]

@[simp] theorem wordA_21_5 (op : BitVec 6) (d a b : BitVec 5) (lit : BitVec 2) (fn : BitVec 9) :
    (wordA op d a b lit fn).extractLsb' 21 5 = d := by
  simp (disch := decide) only [wordA, BitVec.extractLsb'_cast, BitVec.cast_eq, BitVec.extractLsb'_append_eq_of_le, BitVec.extractLsb'_append_eq_of_add_le, BitVec.extractLsb'_eq_self, Nat.reduceSub]

@[simp] theorem wordA_16_5 (op : BitVec 6) (d a b : BitVec 5) (lit : BitVec 2) (fn : BitVec 9) :
    (wordA op d a b lit fn).extractLsb' 16 5 = a := by
  simp (disch := decide) only [wordA, BitVec.extractLsb'_cast, BitVec.cast_eq, BitVec.extractLsb'_append_eq_of_le, BitVec.extractLsb'_append_eq_of_add_le, BitVec.extractLsb'_eq_self, Nat.reduceSub]

@[simp] theorem wordA_11_5 (op : BitVec 6) (d a b : BitVec 5) (lit : BitVec 2) (fn : BitVec 9) :
    (wordA op d a b lit fn).extractLsb' 11 5 = b := by
  simp (disch := decide) only [wordA, BitVec.extractLsb'_cast, BitVec.cast_eq, BitVec.extractLsb'_append_eq_of_le, BitVec.extractLsb'_append_eq_of_add_le, BitVec.extractLsb'_eq_self, Nat.reduceSub]

@[simp] theorem wordA_9_2 (op : BitVec 6) (d a b : BitVec 5) (lit : BitVec 2) (fn : BitVec 9) :
    (wordA op d a b lit fn).extractLsb' 9 2 = lit := by
  simp (disch := decide) only [wordA, BitVec.extractLsb'_cast, BitVec.cast_eq, BitVec.extractLsb'_append_eq_of_le, BitVec.extractLsb'_append_eq_of_add_le, BitVec.extractLsb'_eq_self, Nat.reduceSub]

@[simp] theorem wordA_0_9 (op : BitVec 6) (d a b : BitVec 5) (lit : BitVec 2) (fn : BitVec 9) :
    (wordA op d a b lit fn).extractLsb' 0 9 = fn := by
  simp (disch := decide) only [wordA, BitVec.extractLsb'_cast, BitVec.cast_eq, BitVec.extractLsb'_append_eq_of_le, BitVec.extractLsb'_append_eq_of_add_le, BitVec.extractLsb'_eq_self, Nat.reduceSub]

@[simp] theorem wordAmo_26_6 (d a b : BitVec 5) (lit : BitVec 2) (code : BitVec 4) (ord : BitVec 2) (scope : BitVec 3) :
    (wordAmo d a b lit code ord scope).extractLsb' 26 6 = (0x1C : BitVec 6) := by
  simp (disch := decide) only [wordAmo, BitVec.extractLsb'_cast, BitVec.cast_eq, BitVec.extractLsb'_append_eq_of_le, BitVec.extractLsb'_append_eq_of_add_le, BitVec.extractLsb'_eq_self, Nat.reduceSub]

@[simp] theorem wordAmo_21_5 (d a b : BitVec 5) (lit : BitVec 2) (code : BitVec 4) (ord : BitVec 2) (scope : BitVec 3) :
    (wordAmo d a b lit code ord scope).extractLsb' 21 5 = d := by
  simp (disch := decide) only [wordAmo, BitVec.extractLsb'_cast, BitVec.cast_eq, BitVec.extractLsb'_append_eq_of_le, BitVec.extractLsb'_append_eq_of_add_le, BitVec.extractLsb'_eq_self, Nat.reduceSub]

@[simp] theorem wordAmo_16_5 (d a b : BitVec 5) (lit : BitVec 2) (code : BitVec 4) (ord : BitVec 2) (scope : BitVec 3) :
    (wordAmo d a b lit code ord scope).extractLsb' 16 5 = a := by
  simp (disch := decide) only [wordAmo, BitVec.extractLsb'_cast, BitVec.cast_eq, BitVec.extractLsb'_append_eq_of_le, BitVec.extractLsb'_append_eq_of_add_le, BitVec.extractLsb'_eq_self, Nat.reduceSub]

@[simp] theorem wordAmo_11_5 (d a b : BitVec 5) (lit : BitVec 2) (code : BitVec 4) (ord : BitVec 2) (scope : BitVec 3) :
    (wordAmo d a b lit code ord scope).extractLsb' 11 5 = b := by
  simp (disch := decide) only [wordAmo, BitVec.extractLsb'_cast, BitVec.cast_eq, BitVec.extractLsb'_append_eq_of_le, BitVec.extractLsb'_append_eq_of_add_le, BitVec.extractLsb'_eq_self, Nat.reduceSub]

@[simp] theorem wordAmo_9_2 (d a b : BitVec 5) (lit : BitVec 2) (code : BitVec 4) (ord : BitVec 2) (scope : BitVec 3) :
    (wordAmo d a b lit code ord scope).extractLsb' 9 2 = lit := by
  simp (disch := decide) only [wordAmo, BitVec.extractLsb'_cast, BitVec.cast_eq, BitVec.extractLsb'_append_eq_of_le, BitVec.extractLsb'_append_eq_of_add_le, BitVec.extractLsb'_eq_self, Nat.reduceSub]

@[simp] theorem wordAmo_5_4 (d a b : BitVec 5) (lit : BitVec 2) (code : BitVec 4) (ord : BitVec 2) (scope : BitVec 3) :
    (wordAmo d a b lit code ord scope).extractLsb' 5 4 = code := by
  simp (disch := decide) only [wordAmo, BitVec.extractLsb'_cast, BitVec.cast_eq, BitVec.extractLsb'_append_eq_of_le, BitVec.extractLsb'_append_eq_of_add_le, BitVec.extractLsb'_eq_self, Nat.reduceSub]

@[simp] theorem wordAmo_3_2 (d a b : BitVec 5) (lit : BitVec 2) (code : BitVec 4) (ord : BitVec 2) (scope : BitVec 3) :
    (wordAmo d a b lit code ord scope).extractLsb' 3 2 = ord := by
  simp (disch := decide) only [wordAmo, BitVec.extractLsb'_cast, BitVec.cast_eq, BitVec.extractLsb'_append_eq_of_le, BitVec.extractLsb'_append_eq_of_add_le, BitVec.extractLsb'_eq_self, Nat.reduceSub]

@[simp] theorem wordAmo_0_3 (d a b : BitVec 5) (lit : BitVec 2) (code : BitVec 4) (ord : BitVec 2) (scope : BitVec 3) :
    (wordAmo d a b lit code ord scope).extractLsb' 0 3 = scope := by
  simp (disch := decide) only [wordAmo, BitVec.extractLsb'_cast, BitVec.cast_eq, BitVec.extractLsb'_append_eq_of_le, BitVec.extractLsb'_append_eq_of_add_le, BitVec.extractLsb'_eq_self, Nat.reduceSub]

@[simp] theorem wordI_26_6 (op : BitVec 6) (d a : BitVec 5) (imm : BitVec 16) :
    (wordI op d a imm).extractLsb' 26 6 = op := by
  simp (disch := decide) only [wordI, BitVec.extractLsb'_cast, BitVec.cast_eq, BitVec.extractLsb'_append_eq_of_le, BitVec.extractLsb'_append_eq_of_add_le, BitVec.extractLsb'_eq_self, Nat.reduceSub]

@[simp] theorem wordI_21_5 (op : BitVec 6) (d a : BitVec 5) (imm : BitVec 16) :
    (wordI op d a imm).extractLsb' 21 5 = d := by
  simp (disch := decide) only [wordI, BitVec.extractLsb'_cast, BitVec.cast_eq, BitVec.extractLsb'_append_eq_of_le, BitVec.extractLsb'_append_eq_of_add_le, BitVec.extractLsb'_eq_self, Nat.reduceSub]

@[simp] theorem wordI_16_5 (op : BitVec 6) (d a : BitVec 5) (imm : BitVec 16) :
    (wordI op d a imm).extractLsb' 16 5 = a := by
  simp (disch := decide) only [wordI, BitVec.extractLsb'_cast, BitVec.cast_eq, BitVec.extractLsb'_append_eq_of_le, BitVec.extractLsb'_append_eq_of_add_le, BitVec.extractLsb'_eq_self, Nat.reduceSub]

@[simp] theorem wordI_0_16 (op : BitVec 6) (d a : BitVec 5) (imm : BitVec 16) :
    (wordI op d a imm).extractLsb' 0 16 = imm := by
  simp (disch := decide) only [wordI, BitVec.extractLsb'_cast, BitVec.cast_eq, BitVec.extractLsb'_append_eq_of_le, BitVec.extractLsb'_append_eq_of_add_le, BitVec.extractLsb'_eq_self, Nat.reduceSub]

@[simp] theorem wordS_26_6 (d a : BitVec 5) (fn : BitVec 4) (num : BitVec 12) :
    (wordS d a fn num).extractLsb' 26 6 = (0x24 : BitVec 6) := by
  simp (disch := decide) only [wordS, BitVec.extractLsb'_cast, BitVec.cast_eq, BitVec.extractLsb'_append_eq_of_le, BitVec.extractLsb'_append_eq_of_add_le, BitVec.extractLsb'_eq_self, Nat.reduceSub]

@[simp] theorem wordS_21_5 (d a : BitVec 5) (fn : BitVec 4) (num : BitVec 12) :
    (wordS d a fn num).extractLsb' 21 5 = d := by
  simp (disch := decide) only [wordS, BitVec.extractLsb'_cast, BitVec.cast_eq, BitVec.extractLsb'_append_eq_of_le, BitVec.extractLsb'_append_eq_of_add_le, BitVec.extractLsb'_eq_self, Nat.reduceSub]

@[simp] theorem wordS_16_5 (d a : BitVec 5) (fn : BitVec 4) (num : BitVec 12) :
    (wordS d a fn num).extractLsb' 16 5 = a := by
  simp (disch := decide) only [wordS, BitVec.extractLsb'_cast, BitVec.cast_eq, BitVec.extractLsb'_append_eq_of_le, BitVec.extractLsb'_append_eq_of_add_le, BitVec.extractLsb'_eq_self, Nat.reduceSub]

@[simp] theorem wordS_12_4 (d a : BitVec 5) (fn : BitVec 4) (num : BitVec 12) :
    (wordS d a fn num).extractLsb' 12 4 = fn := by
  simp (disch := decide) only [wordS, BitVec.extractLsb'_cast, BitVec.cast_eq, BitVec.extractLsb'_append_eq_of_le, BitVec.extractLsb'_append_eq_of_add_le, BitVec.extractLsb'_eq_self, Nat.reduceSub]

@[simp] theorem wordS_0_12 (d a : BitVec 5) (fn : BitVec 4) (num : BitVec 12) :
    (wordS d a fn num).extractLsb' 0 12 = num := by
  simp (disch := decide) only [wordS, BitVec.extractLsb'_cast, BitVec.cast_eq, BitVec.extractLsb'_append_eq_of_le, BitVec.extractLsb'_append_eq_of_add_le, BitVec.extractLsb'_eq_self, Nat.reduceSub]

@[simp] theorem wordM_26_6 (op : BitVec 6) (d a : BitVec 5) (ord : BitVec 2) (scope : BitVec 3) (off : BitVec 11) :
    (wordM op d a ord scope off).extractLsb' 26 6 = op := by
  simp (disch := decide) only [wordM, BitVec.extractLsb'_cast, BitVec.cast_eq, BitVec.extractLsb'_append_eq_of_le, BitVec.extractLsb'_append_eq_of_add_le, BitVec.extractLsb'_eq_self, Nat.reduceSub]

@[simp] theorem wordM_21_5 (op : BitVec 6) (d a : BitVec 5) (ord : BitVec 2) (scope : BitVec 3) (off : BitVec 11) :
    (wordM op d a ord scope off).extractLsb' 21 5 = d := by
  simp (disch := decide) only [wordM, BitVec.extractLsb'_cast, BitVec.cast_eq, BitVec.extractLsb'_append_eq_of_le, BitVec.extractLsb'_append_eq_of_add_le, BitVec.extractLsb'_eq_self, Nat.reduceSub]

@[simp] theorem wordM_16_5 (op : BitVec 6) (d a : BitVec 5) (ord : BitVec 2) (scope : BitVec 3) (off : BitVec 11) :
    (wordM op d a ord scope off).extractLsb' 16 5 = a := by
  simp (disch := decide) only [wordM, BitVec.extractLsb'_cast, BitVec.cast_eq, BitVec.extractLsb'_append_eq_of_le, BitVec.extractLsb'_append_eq_of_add_le, BitVec.extractLsb'_eq_self, Nat.reduceSub]

@[simp] theorem wordM_14_2 (op : BitVec 6) (d a : BitVec 5) (ord : BitVec 2) (scope : BitVec 3) (off : BitVec 11) :
    (wordM op d a ord scope off).extractLsb' 14 2 = ord := by
  simp (disch := decide) only [wordM, BitVec.extractLsb'_cast, BitVec.cast_eq, BitVec.extractLsb'_append_eq_of_le, BitVec.extractLsb'_append_eq_of_add_le, BitVec.extractLsb'_eq_self, Nat.reduceSub]

@[simp] theorem wordM_11_3 (op : BitVec 6) (d a : BitVec 5) (ord : BitVec 2) (scope : BitVec 3) (off : BitVec 11) :
    (wordM op d a ord scope off).extractLsb' 11 3 = scope := by
  simp (disch := decide) only [wordM, BitVec.extractLsb'_cast, BitVec.cast_eq, BitVec.extractLsb'_append_eq_of_le, BitVec.extractLsb'_append_eq_of_add_le, BitVec.extractLsb'_eq_self, Nat.reduceSub]

@[simp] theorem wordM_0_11 (op : BitVec 6) (d a : BitVec 5) (ord : BitVec 2) (scope : BitVec 3) (off : BitVec 11) :
    (wordM op d a ord scope off).extractLsb' 0 11 = off := by
  simp (disch := decide) only [wordM, BitVec.extractLsb'_cast, BitVec.cast_eq, BitVec.extractLsb'_append_eq_of_le, BitVec.extractLsb'_append_eq_of_add_le, BitVec.extractLsb'_eq_self, Nat.reduceSub]

@[simp] theorem wordB_26_6 (a b : BitVec 5) (cond : BitVec 3) (off : BitVec 13) :
    (wordB a b cond off).extractLsb' 26 6 = (0x20 : BitVec 6) := by
  simp (disch := decide) only [wordB, BitVec.extractLsb'_cast, BitVec.cast_eq, BitVec.extractLsb'_append_eq_of_le, BitVec.extractLsb'_append_eq_of_add_le, BitVec.extractLsb'_eq_self, Nat.reduceSub]

@[simp] theorem wordB_21_5 (a b : BitVec 5) (cond : BitVec 3) (off : BitVec 13) :
    (wordB a b cond off).extractLsb' 21 5 = a := by
  simp (disch := decide) only [wordB, BitVec.extractLsb'_cast, BitVec.cast_eq, BitVec.extractLsb'_append_eq_of_le, BitVec.extractLsb'_append_eq_of_add_le, BitVec.extractLsb'_eq_self, Nat.reduceSub]

@[simp] theorem wordB_16_5 (a b : BitVec 5) (cond : BitVec 3) (off : BitVec 13) :
    (wordB a b cond off).extractLsb' 16 5 = b := by
  simp (disch := decide) only [wordB, BitVec.extractLsb'_cast, BitVec.cast_eq, BitVec.extractLsb'_append_eq_of_le, BitVec.extractLsb'_append_eq_of_add_le, BitVec.extractLsb'_eq_self, Nat.reduceSub]

@[simp] theorem wordB_13_3 (a b : BitVec 5) (cond : BitVec 3) (off : BitVec 13) :
    (wordB a b cond off).extractLsb' 13 3 = cond := by
  simp (disch := decide) only [wordB, BitVec.extractLsb'_cast, BitVec.cast_eq, BitVec.extractLsb'_append_eq_of_le, BitVec.extractLsb'_append_eq_of_add_le, BitVec.extractLsb'_eq_self, Nat.reduceSub]

@[simp] theorem wordB_0_13 (a b : BitVec 5) (cond : BitVec 3) (off : BitVec 13) :
    (wordB a b cond off).extractLsb' 0 13 = off := by
  simp (disch := decide) only [wordB, BitVec.extractLsb'_cast, BitVec.cast_eq, BitVec.extractLsb'_append_eq_of_le, BitVec.extractLsb'_append_eq_of_add_le, BitVec.extractLsb'_eq_self, Nat.reduceSub]

@[simp] theorem wordJ_26_6 (d : BitVec 5) (off : BitVec 21) :
    (wordJ d off).extractLsb' 26 6 = (0x21 : BitVec 6) := by
  simp (disch := decide) only [wordJ, BitVec.extractLsb'_cast, BitVec.cast_eq, BitVec.extractLsb'_append_eq_of_le, BitVec.extractLsb'_append_eq_of_add_le, BitVec.extractLsb'_eq_self, Nat.reduceSub]

@[simp] theorem wordJ_21_5 (d : BitVec 5) (off : BitVec 21) :
    (wordJ d off).extractLsb' 21 5 = d := by
  simp (disch := decide) only [wordJ, BitVec.extractLsb'_cast, BitVec.cast_eq, BitVec.extractLsb'_append_eq_of_le, BitVec.extractLsb'_append_eq_of_add_le, BitVec.extractLsb'_eq_self, Nat.reduceSub]

@[simp] theorem wordJ_0_21 (d : BitVec 5) (off : BitVec 21) :
    (wordJ d off).extractLsb' 0 21 = off := by
  simp (disch := decide) only [wordJ, BitVec.extractLsb'_cast, BitVec.cast_eq, BitVec.extractLsb'_append_eq_of_le, BitVec.extractLsb'_append_eq_of_add_le, BitVec.extractLsb'_eq_self, Nat.reduceSub]

@[simp] theorem wordV_26_6 (op : BitVec 6) (d a b c : BitVec 4) (lit : BitVec 2) (fn : BitVec 8) :
    (wordV op d a b c lit fn).extractLsb' 26 6 = op := by
  simp (disch := decide) only [wordV, BitVec.extractLsb'_cast, BitVec.cast_eq, BitVec.extractLsb'_append_eq_of_le, BitVec.extractLsb'_append_eq_of_add_le, BitVec.extractLsb'_eq_self, Nat.reduceSub]

@[simp] theorem wordV_22_4 (op : BitVec 6) (d a b c : BitVec 4) (lit : BitVec 2) (fn : BitVec 8) :
    (wordV op d a b c lit fn).extractLsb' 22 4 = d := by
  simp (disch := decide) only [wordV, BitVec.extractLsb'_cast, BitVec.cast_eq, BitVec.extractLsb'_append_eq_of_le, BitVec.extractLsb'_append_eq_of_add_le, BitVec.extractLsb'_eq_self, Nat.reduceSub]

@[simp] theorem wordV_18_4 (op : BitVec 6) (d a b c : BitVec 4) (lit : BitVec 2) (fn : BitVec 8) :
    (wordV op d a b c lit fn).extractLsb' 18 4 = a := by
  simp (disch := decide) only [wordV, BitVec.extractLsb'_cast, BitVec.cast_eq, BitVec.extractLsb'_append_eq_of_le, BitVec.extractLsb'_append_eq_of_add_le, BitVec.extractLsb'_eq_self, Nat.reduceSub]

@[simp] theorem wordV_14_4 (op : BitVec 6) (d a b c : BitVec 4) (lit : BitVec 2) (fn : BitVec 8) :
    (wordV op d a b c lit fn).extractLsb' 14 4 = b := by
  simp (disch := decide) only [wordV, BitVec.extractLsb'_cast, BitVec.cast_eq, BitVec.extractLsb'_append_eq_of_le, BitVec.extractLsb'_append_eq_of_add_le, BitVec.extractLsb'_eq_self, Nat.reduceSub]

@[simp] theorem wordV_10_4 (op : BitVec 6) (d a b c : BitVec 4) (lit : BitVec 2) (fn : BitVec 8) :
    (wordV op d a b c lit fn).extractLsb' 10 4 = c := by
  simp (disch := decide) only [wordV, BitVec.extractLsb'_cast, BitVec.cast_eq, BitVec.extractLsb'_append_eq_of_le, BitVec.extractLsb'_append_eq_of_add_le, BitVec.extractLsb'_eq_self, Nat.reduceSub]

@[simp] theorem wordV_8_2 (op : BitVec 6) (d a b c : BitVec 4) (lit : BitVec 2) (fn : BitVec 8) :
    (wordV op d a b c lit fn).extractLsb' 8 2 = lit := by
  simp (disch := decide) only [wordV, BitVec.extractLsb'_cast, BitVec.cast_eq, BitVec.extractLsb'_append_eq_of_le, BitVec.extractLsb'_append_eq_of_add_le, BitVec.extractLsb'_eq_self, Nat.reduceSub]

@[simp] theorem wordV_0_8 (op : BitVec 6) (d a b c : BitVec 4) (lit : BitVec 2) (fn : BitVec 8) :
    (wordV op d a b c lit fn).extractLsb' 0 8 = fn := by
  simp (disch := decide) only [wordV, BitVec.extractLsb'_cast, BitVec.cast_eq, BitVec.extractLsb'_append_eq_of_le, BitVec.extractLsb'_append_eq_of_add_le, BitVec.extractLsb'_eq_self, Nat.reduceSub]

@[simp] theorem wordVM_26_6 (v : BitVec 4) (a b : BitVec 5) (ord scope : BitVec 2) (fn : BitVec 8) :
    (wordVM v a b ord scope fn).extractLsb' 26 6 = (0x29 : BitVec 6) := by
  simp (disch := decide) only [wordVM, BitVec.extractLsb'_cast, BitVec.cast_eq, BitVec.extractLsb'_append_eq_of_le, BitVec.extractLsb'_append_eq_of_add_le, BitVec.extractLsb'_eq_self, Nat.reduceSub]

@[simp] theorem wordVM_22_4 (v : BitVec 4) (a b : BitVec 5) (ord scope : BitVec 2) (fn : BitVec 8) :
    (wordVM v a b ord scope fn).extractLsb' 22 4 = v := by
  simp (disch := decide) only [wordVM, BitVec.extractLsb'_cast, BitVec.cast_eq, BitVec.extractLsb'_append_eq_of_le, BitVec.extractLsb'_append_eq_of_add_le, BitVec.extractLsb'_eq_self, Nat.reduceSub]

@[simp] theorem wordVM_17_5 (v : BitVec 4) (a b : BitVec 5) (ord scope : BitVec 2) (fn : BitVec 8) :
    (wordVM v a b ord scope fn).extractLsb' 17 5 = a := by
  simp (disch := decide) only [wordVM, BitVec.extractLsb'_cast, BitVec.cast_eq, BitVec.extractLsb'_append_eq_of_le, BitVec.extractLsb'_append_eq_of_add_le, BitVec.extractLsb'_eq_self, Nat.reduceSub]

@[simp] theorem wordVM_12_5 (v : BitVec 4) (a b : BitVec 5) (ord scope : BitVec 2) (fn : BitVec 8) :
    (wordVM v a b ord scope fn).extractLsb' 12 5 = b := by
  simp (disch := decide) only [wordVM, BitVec.extractLsb'_cast, BitVec.cast_eq, BitVec.extractLsb'_append_eq_of_le, BitVec.extractLsb'_append_eq_of_add_le, BitVec.extractLsb'_eq_self, Nat.reduceSub]

@[simp] theorem wordVM_10_2 (v : BitVec 4) (a b : BitVec 5) (ord scope : BitVec 2) (fn : BitVec 8) :
    (wordVM v a b ord scope fn).extractLsb' 10 2 = ord := by
  simp (disch := decide) only [wordVM, BitVec.extractLsb'_cast, BitVec.cast_eq, BitVec.extractLsb'_append_eq_of_le, BitVec.extractLsb'_append_eq_of_add_le, BitVec.extractLsb'_eq_self, Nat.reduceSub]

@[simp] theorem wordVM_8_2 (v : BitVec 4) (a b : BitVec 5) (ord scope : BitVec 2) (fn : BitVec 8) :
    (wordVM v a b ord scope fn).extractLsb' 8 2 = scope := by
  simp (disch := decide) only [wordVM, BitVec.extractLsb'_cast, BitVec.cast_eq, BitVec.extractLsb'_append_eq_of_le, BitVec.extractLsb'_append_eq_of_add_le, BitVec.extractLsb'_eq_self, Nat.reduceSub]

@[simp] theorem wordVM_0_8 (v : BitVec 4) (a b : BitVec 5) (ord scope : BitVec 2) (fn : BitVec 8) :
    (wordVM v a b ord scope fn).extractLsb' 0 8 = fn := by
  simp (disch := decide) only [wordVM, BitVec.extractLsb'_cast, BitVec.cast_eq, BitVec.extractLsb'_append_eq_of_le, BitVec.extractLsb'_append_eq_of_add_le, BitVec.extractLsb'_eq_self, Nat.reduceSub]

@[simp] theorem wordQ_26_6 (q : BitVec 4) (n : BitVec 8) (a : BitVec 5) (fn : BitVec 9) :
    (wordQ q n a fn).extractLsb' 26 6 = (0x31 : BitVec 6) := by
  simp (disch := decide) only [wordQ, BitVec.extractLsb'_cast, BitVec.cast_eq, BitVec.extractLsb'_append_eq_of_le, BitVec.extractLsb'_append_eq_of_add_le, BitVec.extractLsb'_eq_self, Nat.reduceSub]

@[simp] theorem wordQ_22_4 (q : BitVec 4) (n : BitVec 8) (a : BitVec 5) (fn : BitVec 9) :
    (wordQ q n a fn).extractLsb' 22 4 = q := by
  simp (disch := decide) only [wordQ, BitVec.extractLsb'_cast, BitVec.cast_eq, BitVec.extractLsb'_append_eq_of_le, BitVec.extractLsb'_append_eq_of_add_le, BitVec.extractLsb'_eq_self, Nat.reduceSub]

@[simp] theorem wordQ_14_8 (q : BitVec 4) (n : BitVec 8) (a : BitVec 5) (fn : BitVec 9) :
    (wordQ q n a fn).extractLsb' 14 8 = n := by
  simp (disch := decide) only [wordQ, BitVec.extractLsb'_cast, BitVec.cast_eq, BitVec.extractLsb'_append_eq_of_le, BitVec.extractLsb'_append_eq_of_add_le, BitVec.extractLsb'_eq_self, Nat.reduceSub]

@[simp] theorem wordQ_9_5 (q : BitVec 4) (n : BitVec 8) (a : BitVec 5) (fn : BitVec 9) :
    (wordQ q n a fn).extractLsb' 9 5 = a := by
  simp (disch := decide) only [wordQ, BitVec.extractLsb'_cast, BitVec.cast_eq, BitVec.extractLsb'_append_eq_of_le, BitVec.extractLsb'_append_eq_of_add_le, BitVec.extractLsb'_eq_self, Nat.reduceSub]

@[simp] theorem wordQ_0_9 (q : BitVec 4) (n : BitVec 8) (a : BitVec 5) (fn : BitVec 9) :
    (wordQ q n a fn).extractLsb' 0 9 = fn := by
  simp (disch := decide) only [wordQ, BitVec.extractLsb'_cast, BitVec.cast_eq, BitVec.extractLsb'_append_eq_of_le, BitVec.extractLsb'_append_eq_of_add_le, BitVec.extractLsb'_eq_self, Nat.reduceSub]

@[simp] theorem wordE_26_6 (op : BitVec 6) (a b : BitVec 5) (scope : BitVec 3) (fn : BitVec 5) (esel : BitVec 8) :
    (wordE op a b scope fn esel).extractLsb' 26 6 = op := by
  simp (disch := decide) only [wordE, BitVec.extractLsb'_cast, BitVec.cast_eq, BitVec.extractLsb'_append_eq_of_le, BitVec.extractLsb'_append_eq_of_add_le, BitVec.extractLsb'_eq_self, Nat.reduceSub]

@[simp] theorem wordE_21_5 (op : BitVec 6) (a b : BitVec 5) (scope : BitVec 3) (fn : BitVec 5) (esel : BitVec 8) :
    (wordE op a b scope fn esel).extractLsb' 21 5 = a := by
  simp (disch := decide) only [wordE, BitVec.extractLsb'_cast, BitVec.cast_eq, BitVec.extractLsb'_append_eq_of_le, BitVec.extractLsb'_append_eq_of_add_le, BitVec.extractLsb'_eq_self, Nat.reduceSub]

@[simp] theorem wordE_16_5 (op : BitVec 6) (a b : BitVec 5) (scope : BitVec 3) (fn : BitVec 5) (esel : BitVec 8) :
    (wordE op a b scope fn esel).extractLsb' 16 5 = b := by
  simp (disch := decide) only [wordE, BitVec.extractLsb'_cast, BitVec.cast_eq, BitVec.extractLsb'_append_eq_of_le, BitVec.extractLsb'_append_eq_of_add_le, BitVec.extractLsb'_eq_self, Nat.reduceSub]

@[simp] theorem wordE_13_3 (op : BitVec 6) (a b : BitVec 5) (scope : BitVec 3) (fn : BitVec 5) (esel : BitVec 8) :
    (wordE op a b scope fn esel).extractLsb' 13 3 = scope := by
  simp (disch := decide) only [wordE, BitVec.extractLsb'_cast, BitVec.cast_eq, BitVec.extractLsb'_append_eq_of_le, BitVec.extractLsb'_append_eq_of_add_le, BitVec.extractLsb'_eq_self, Nat.reduceSub]

@[simp] theorem wordE_8_5 (op : BitVec 6) (a b : BitVec 5) (scope : BitVec 3) (fn : BitVec 5) (esel : BitVec 8) :
    (wordE op a b scope fn esel).extractLsb' 8 5 = fn := by
  simp (disch := decide) only [wordE, BitVec.extractLsb'_cast, BitVec.cast_eq, BitVec.extractLsb'_append_eq_of_le, BitVec.extractLsb'_append_eq_of_add_le, BitVec.extractLsb'_eq_self, Nat.reduceSub]

@[simp] theorem wordE_0_8 (op : BitVec 6) (a b : BitVec 5) (scope : BitVec 3) (fn : BitVec 5) (esel : BitVec 8) :
    (wordE op a b scope fn esel).extractLsb' 0 8 = esel := by
  simp (disch := decide) only [wordE, BitVec.extractLsb'_cast, BitVec.cast_eq, BitVec.extractLsb'_append_eq_of_le, BitVec.extractLsb'_append_eq_of_add_le, BitVec.extractLsb'_eq_self, Nat.reduceSub]

@[simp] theorem encVMS_26_6 (fn : BitVec 8) (v : VReg) (a b : XReg) (df : Fin 8) :
    (encVMS fn v a b df).extractLsb' 26 6 = (0x29 : BitVec 6) := by
  simp (disch := decide) only [encVMS, BitVec.extractLsb'_cast, BitVec.cast_eq, BitVec.extractLsb'_append_eq_of_le, BitVec.extractLsb'_append_eq_of_add_le, BitVec.extractLsb'_eq_self, Nat.reduceSub]

@[simp] theorem encVMS_22_4 (fn : BitVec 8) (v : VReg) (a b : XReg) (df : Fin 8) :
    (encVMS fn v a b df).extractLsb' 22 4 = BitVec.ofFin (w := 4) v := by
  simp (disch := decide) only [encVMS, BitVec.extractLsb'_cast, BitVec.cast_eq, BitVec.extractLsb'_append_eq_of_le, BitVec.extractLsb'_append_eq_of_add_le, BitVec.extractLsb'_eq_self, Nat.reduceSub]

@[simp] theorem encVMS_17_5 (fn : BitVec 8) (v : VReg) (a b : XReg) (df : Fin 8) :
    (encVMS fn v a b df).extractLsb' 17 5 = BitVec.ofFin (w := 5) a := by
  simp (disch := decide) only [encVMS, BitVec.extractLsb'_cast, BitVec.cast_eq, BitVec.extractLsb'_append_eq_of_le, BitVec.extractLsb'_append_eq_of_add_le, BitVec.extractLsb'_eq_self, Nat.reduceSub]

@[simp] theorem encVMS_12_5 (fn : BitVec 8) (v : VReg) (a b : XReg) (df : Fin 8) :
    (encVMS fn v a b df).extractLsb' 12 5 = BitVec.ofFin (w := 5) b := by
  simp (disch := decide) only [encVMS, BitVec.extractLsb'_cast, BitVec.cast_eq, BitVec.extractLsb'_append_eq_of_le, BitVec.extractLsb'_append_eq_of_add_le, BitVec.extractLsb'_eq_self, Nat.reduceSub]

@[simp] theorem encVMS_11_1 (fn : BitVec 8) (v : VReg) (a b : XReg) (df : Fin 8) :
    (encVMS fn v a b df).extractLsb' 11 1 = (0 : BitVec 1) := by
  simp (disch := decide) only [encVMS, BitVec.extractLsb'_cast, BitVec.cast_eq, BitVec.extractLsb'_append_eq_of_le, BitVec.extractLsb'_append_eq_of_add_le, BitVec.extractLsb'_eq_self, Nat.reduceSub]

@[simp] theorem encVMS_8_3 (fn : BitVec 8) (v : VReg) (a b : XReg) (df : Fin 8) :
    (encVMS fn v a b df).extractLsb' 8 3 = BitVec.ofFin (w := 3) df := by
  simp (disch := decide) only [encVMS, BitVec.extractLsb'_cast, BitVec.cast_eq, BitVec.extractLsb'_append_eq_of_le, BitVec.extractLsb'_append_eq_of_add_le, BitVec.extractLsb'_eq_self, Nat.reduceSub]

@[simp] theorem encVMS_0_8 (fn : BitVec 8) (v : VReg) (a b : XReg) (df : Fin 8) :
    (encVMS fn v a b df).extractLsb' 0 8 = fn := by
  simp (disch := decide) only [encVMS, BitVec.extractLsb'_cast, BitVec.cast_eq, BitVec.extractLsb'_append_eq_of_le, BitVec.extractLsb'_append_eq_of_add_le, BitVec.extractLsb'_eq_self, Nat.reduceSub]

@[simp] theorem encVENC_26_6 (fn : BitVec 8) (d a : VReg) (held : Bool) (sc : Fin 64) :
    (encVENC fn d a held sc).extractLsb' 26 6 = (0x2A : BitVec 6) := by
  simp (disch := decide) only [encVENC, BitVec.extractLsb'_cast, BitVec.cast_eq, BitVec.extractLsb'_append_eq_of_le, BitVec.extractLsb'_append_eq_of_add_le, BitVec.extractLsb'_eq_self, Nat.reduceSub]

@[simp] theorem encVENC_22_4 (fn : BitVec 8) (d a : VReg) (held : Bool) (sc : Fin 64) :
    (encVENC fn d a held sc).extractLsb' 22 4 = BitVec.ofFin (w := 4) d := by
  simp (disch := decide) only [encVENC, BitVec.extractLsb'_cast, BitVec.cast_eq, BitVec.extractLsb'_append_eq_of_le, BitVec.extractLsb'_append_eq_of_add_le, BitVec.extractLsb'_eq_self, Nat.reduceSub]

@[simp] theorem encVENC_18_4 (fn : BitVec 8) (d a : VReg) (held : Bool) (sc : Fin 64) :
    (encVENC fn d a held sc).extractLsb' 18 4 = BitVec.ofFin (w := 4) a := by
  simp (disch := decide) only [encVENC, BitVec.extractLsb'_cast, BitVec.cast_eq, BitVec.extractLsb'_append_eq_of_le, BitVec.extractLsb'_append_eq_of_add_le, BitVec.extractLsb'_eq_self, Nat.reduceSub]

@[simp] theorem encVENC_17_1 (fn : BitVec 8) (d a : VReg) (held : Bool) (sc : Fin 64) :
    (encVENC fn d a held sc).extractLsb' 17 1 = (0 : BitVec 1) := by
  simp (disch := decide) only [encVENC, BitVec.extractLsb'_cast, BitVec.cast_eq, BitVec.extractLsb'_append_eq_of_le, BitVec.extractLsb'_append_eq_of_add_le, BitVec.extractLsb'_eq_self, Nat.reduceSub]

@[simp] theorem encVENC_16_1 (fn : BitVec 8) (d a : VReg) (held : Bool) (sc : Fin 64) :
    (encVENC fn d a held sc).extractLsb' 16 1 = bitOf held := by
  simp (disch := decide) only [encVENC, BitVec.extractLsb'_cast, BitVec.cast_eq, BitVec.extractLsb'_append_eq_of_le, BitVec.extractLsb'_append_eq_of_add_le, BitVec.extractLsb'_eq_self, Nat.reduceSub]

@[simp] theorem encVENC_10_6 (fn : BitVec 8) (d a : VReg) (held : Bool) (sc : Fin 64) :
    (encVENC fn d a held sc).extractLsb' 10 6 = BitVec.ofFin (w := 6) sc := by
  simp (disch := decide) only [encVENC, BitVec.extractLsb'_cast, BitVec.cast_eq, BitVec.extractLsb'_append_eq_of_le, BitVec.extractLsb'_append_eq_of_add_le, BitVec.extractLsb'_eq_self, Nat.reduceSub]

@[simp] theorem encVENC_8_2 (fn : BitVec 8) (d a : VReg) (held : Bool) (sc : Fin 64) :
    (encVENC fn d a held sc).extractLsb' 8 2 = (0 : BitVec 2) := by
  simp (disch := decide) only [encVENC, BitVec.extractLsb'_cast, BitVec.cast_eq, BitVec.extractLsb'_append_eq_of_le, BitVec.extractLsb'_append_eq_of_add_le, BitVec.extractLsb'_eq_self, Nat.reduceSub]

@[simp] theorem encVENC_0_8 (fn : BitVec 8) (d a : VReg) (held : Bool) (sc : Fin 64) :
    (encVENC fn d a held sc).extractLsb' 0 8 = fn := by
  simp (disch := decide) only [encVENC, BitVec.extractLsb'_cast, BitVec.cast_eq, BitVec.extractLsb'_append_eq_of_le, BitVec.extractLsb'_append_eq_of_add_le, BitVec.extractLsb'_eq_self, Nat.reduceSub]

/-! ## Operand codes -/

@[simp] theorem ordOf_ordBits (o : MemOrd) : ordOf (ordBits o) = o := by cases o <;> rfl
@[simp] theorem scopeOf_scopeBits (s : Scope) : scopeOf (scopeBits s) = some s := by cases s <;> rfl
theorem scopeOf2_scopeBits2 (s : Scope) (h : s ≠ .system) : scopeOf2 (scopeBits2 s) = s := by cases s <;> first | rfl | exact absurd rfl h
@[simp] theorem srcOf_src (b : Src) : srcOf (srcLit b) (srcReg b) ((srcWords b)[0]?.getD 0#32) = some b := by cases b <;> rfl
@[simp] theorem pairOf_pair (b : PairSrc) :
    pairOf (pairLit b) (pairReg b) ((pairWords b)[0]?.getD 0#32) ((pairWords b)[1]?.getD 0#32) = some b := by
  cases b with
  | pair r => rfl
  | lit v =>
    have h : v.extractLsb' 32 32 ++ v.extractLsb' 0 32 = v := by
      apply BitVec.eq_of_getLsbD_eq
      intro i hi
      simp only [BitVec.getLsbD_append, BitVec.getLsbD_extractLsb']
      split <;> simp_all
      omega
    simp [pairOf, pairLit, pairReg, pairWords, h]
@[simp] theorem vsrcOf_vsrc (b : VSrc) : vsrcOf (vsrcLit b) (vsrcReg b) ((vsrcWords b)[0]?.getD 0#32) = some b := by cases b <;> rfl
@[simp] theorem bitOf_eq_one (b : Bool) : (bitOf b == 1#1) = b := by cases b <;> rfl

/-! ## One lemma for each operand shape -/

@[simp] theorem decA3_encA3 (fn : BitVec 9) (d a : XReg) (b : Src) (c : XReg → XReg → Src → Instr) :
    decA3 (encA3 fn d a b) ((srcWords b)[0]?.getD 0#32) c = some (c d a b) := by
  simp [decA3, encA3]

@[simp] theorem decA2_encA2 (fn : BitVec 9) (d a : XReg) (c : XReg → XReg → Instr) :
    decA2 (encA2 fn d a) c = some (c d a) := by
  simp [decA2, encA2]

@[simp] theorem decI_encI (op : BitVec 6) (d a : XReg) (imm : BitVec 16) (c : XReg → XReg → BitVec 16 → Instr) :
    decI (encI op d a imm) c = some (c d a imm) := by
  simp [decI, encI]

@[simp] theorem decLUI_encLUI (op : BitVec 6) (d : XReg) (imm : BitVec 16) (c : XReg → BitVec 16 → Instr) :
    decLUI (encLUI op d imm) c = some (c d imm) := by
  simp [decLUI, encLUI]

@[simp] theorem decSHI_encSHI (op : BitVec 6) (d a : XReg) (sh : BitVec 5) (c : XReg → XReg → BitVec 5 → Instr) :
    decSHI (encSHI op d a sh) c = some (c d a sh) := by
  simp (disch := decide) only [decSHI, encSHI, wordI, BitVec.extractLsb'_cast, BitVec.cast_eq, BitVec.extractLsb'_append_eq_of_le,
    BitVec.extractLsb'_append_eq_of_add_le, BitVec.extractLsb'_eq_self, Nat.reduceSub]
  simp

@[simp] theorem decM_encM (op : BitVec 6) (d a : XReg) (ord : MemOrd) (scope : Scope) (off : BitVec 11) (c : XReg → XReg → MemOrd → Scope → BitVec 11 → Instr) :
    decM (encM op d a ord scope off) c = some (c d a ord scope off) := by
  simp [decM, encM]

@[simp] theorem decAMO_encAMO (code : BitVec 4) (d a : XReg) (b : Src) (ord : MemOrd) (scope : Scope) (c : XReg → XReg → Src → MemOrd → Scope → Instr) :
    decAMO (encAMO code d a b ord scope) ((srcWords b)[0]?.getD 0#32) c = some (c d a b ord scope) := by
  simp [decAMO, encAMO]

@[simp] theorem decCAS_encCAS (code : BitVec 4) (d a : XReg) (b : PairSrc) (ord : MemOrd) (scope : Scope) (c : XReg → XReg → PairSrc → MemOrd → Scope → Instr) :
    decCAS (encCAS code d a b ord scope) ((pairWords b)[0]?.getD 0#32) ((pairWords b)[1]?.getD 0#32) c = some (c d a b ord scope) := by
  simp [decCAS, encCAS]

@[simp] theorem decBR_encBR (cond : BitVec 3) (a b : XReg) (off : BitVec 13) (c : XReg → XReg → BitVec 13 → Instr) :
    decBR (encBR cond a b off) c = some (c a b off) := by
  simp [decBR, encBR]

@[simp] theorem decJAL_encJAL (d : XReg) (off : BitVec 21) (c : XReg → BitVec 21 → Instr) :
    decJAL (encJAL d off) c = some (c d off) := by
  simp [decJAL, encJAL]

@[simp] theorem decS0_encS0 (fn : BitVec 4) (c : Instr) : decS0 (encS0 fn) c = some c := by
  simp [decS0, encS0]

@[simp] theorem decSDA_encSDA (fn : BitVec 4) (d a : XReg) (c : XReg → XReg → Instr) :
    decSDA (encSDA fn d a) c = some (c d a) := by
  simp [decSDA, encSDA]

@[simp] theorem decSC_encSC (fn : BitVec 4) (code : BitVec 12) (c : BitVec 12 → Instr) :
    decSC (encSC fn code) c = some (c code) := by
  simp [decSC, encSC]

@[simp] theorem decSMFS_encSMFS (fn : BitVec 4) (d : XReg) (num : BitVec 12) (c : XReg → BitVec 12 → Instr) :
    decSMFS (encSMFS fn d num) c = some (c d num) := by
  simp [decSMFS, encSMFS]

@[simp] theorem decSMTS_encSMTS (fn : BitVec 4) (a : XReg) (num : BitVec 12) (c : XReg → BitVec 12 → Instr) :
    decSMTS (encSMTS fn a num) c = some (c a num) := by
  simp [decSMTS, encSMTS]

@[simp] theorem decV3_encV3 (fn : BitVec 8) (d a : VReg) (b : VSrc) (c : VReg → VReg → VSrc → Instr) :
    decV3 (encV3 fn d a b) ((vsrcWords b)[0]?.getD 0#32) c = some (c d a b) := by
  simp [decV3, encV3]

@[simp] theorem decV4_encV4 (fn : BitVec 8) (d a : VReg) (b : VSrc) (vc : VReg) (c : VReg → VReg → VSrc → VReg → Instr) :
    decV4 (encV4 fn d a b vc) ((vsrcWords b)[0]?.getD 0#32) c = some (c d a b vc) := by
  simp [decV4, encV4]

@[simp] theorem decV2_encV2 (op : BitVec 6) (fn : BitVec 8) (d a : VReg) (c : VReg → VReg → Instr) :
    decV2 (encV2 op fn d a) c = some (c d a) := by
  simp [decV2, encV2]

@[simp] theorem decVBC_encVBC (fn : BitVec 8) (d a : VReg) (n : Fin 16) (c : VReg → VReg → Fin 16 → Instr) :
    decVBC (encVBC fn d a n) c = some (c d a n) := by
  simp [decVBC, encVBC]

@[simp] theorem decVM_encVM (fn : BitVec 8) (v : VReg) (a b : XReg) (ord : MemOrd) (scope : Scope) (c : VReg → XReg → XReg → MemOrd → Scope → Instr) (h : scope ≠ .system) :
    decVM (encVM fn v a b ord scope) c = some (c v a b ord scope) := by
  simp [decVM, encVM, scopeOf2_scopeBits2 _ h]

@[simp] theorem decVM3_encVM3 (fn : BitVec 8) (v : VReg) (a b : XReg) (c : VReg → XReg → XReg → Instr) :
    decVM3 (encVM3 fn v a b) c = some (c v a b) := by
  simp [decVM3, encVM3]

@[simp] theorem decVMQ_encVMQ (fn : BitVec 8) (v : VReg) (q : RingNo) (b : XReg) (c : VReg → RingNo → XReg → Instr) :
    decVMQ (encVMQ fn v q b) c = some (c v q b) := by
  simp (disch := decide) only [decVMQ, encVMQ, wordVM, BitVec.extractLsb'_cast, BitVec.cast_eq, BitVec.extractLsb'_append_eq_of_le,
    BitVec.extractLsb'_append_eq_of_add_le, BitVec.extractLsb'_eq_self, Nat.reduceSub]
  simp

@[simp] theorem decVMS_encVMS (fn : BitVec 8) (v : VReg) (a b : XReg) (df : Fin 8) (c : VReg → XReg → XReg → Fin 8 → Instr) :
    decVMS (encVMS fn v a b df) c = some (c v a b df) := by
  simp [decVMS]

@[simp] theorem decVPK_encVPK (fn : BitVec 8) (d a b : VReg) (churn : Bool) (c : VReg → VReg → VReg → Bool → Instr) :
    decVPK (encVPK fn d a b churn) c = some (c d a b churn) := by
  simp (disch := decide) only [decVPK, encVPK, wordV, BitVec.extractLsb'_cast, BitVec.cast_eq, BitVec.extractLsb'_append_eq_of_le,
    BitVec.extractLsb'_append_eq_of_add_le, BitVec.extractLsb'_eq_self, Nat.reduceSub]
  simp

@[simp] theorem decVUP_encVUP (fn : BitVec 8) (d a : VReg) (half : Bool) (c : VReg → VReg → Bool → Instr) :
    decVUP (encVUP fn d a half) c = some (c d a half) := by
  simp (disch := decide) only [decVUP, encVUP, wordV, BitVec.extractLsb'_cast, BitVec.cast_eq, BitVec.extractLsb'_append_eq_of_le,
    BitVec.extractLsb'_append_eq_of_add_le, BitVec.extractLsb'_eq_self, Nat.reduceSub]
  simp

@[simp] theorem decVDEC_encVDEC (fn : BitVec 8) (d a b : VReg) (e : Fin 16) (c : VReg → VReg → VReg → Fin 16 → Instr) :
    decVDEC (encVDEC fn d a b e) c = some (c d a b e) := by
  simp [decVDEC, encVDEC]

@[simp] theorem decVENC_encVENC (fn : BitVec 8) (d a : VReg) (held : Bool) (sc : Fin 64) (c : VReg → VReg → Bool → Fin 64 → Instr) :
    decVENC (encVENC fn d a held sc) c = some (c d a held sc) := by
  simp [decVENC]

@[simp] theorem decV3R_encV3R (fn : BitVec 8) (d a b : VReg) (c : VReg → VReg → VReg → Instr) :
    decV3R (encV3R fn d a b) c = some (c d a b) := by
  simp [decV3R, encV3R]

@[simp] theorem decQp_encQp (fn : BitVec 9) (q : RingNo) (a : XReg) (c : RingNo → XReg → Instr) :
    decQp (encQp fn q a) c = some (c q a) := by
  simp [decQp, encQp]

@[simp] theorem decQn_encQn (fn : BitVec 9) (q : RingNo) (n : BitVec 8) (a : XReg) (c : RingNo → BitVec 8 → XReg → Instr) :
    decQn (encQn fn q n a) c = some (c q n a) := by
  simp [decQn, encQn]

@[simp] theorem decQ0_encQ0 (fn : BitVec 9) (q : RingNo) (c : RingNo → Instr) :
    decQ0 (encQ0 fn q) c = some (c q) := by
  simp [decQ0, encQ0]

@[simp] theorem decEbe_encEbe (op : BitVec 6) (fn : BitVec 5) (b : XReg) (z : BitVec 8) (c : XReg → BitVec 8 → Instr) :
    decEbe (encEbe op fn b z) c = some (c b z) := by
  simp [decEbe, encEbe]

@[simp] theorem decEmma_encEmma (op : BitVec 6) (fn : BitVec 5) (qa qb : RingNo) (z : BitVec 8) (c : RingNo → RingNo → BitVec 8 → Instr) :
    decEmma (encEmma op fn qa qb z) c = some (c qa qb z) := by
  simp (disch := decide) only [decEmma, encEmma, wordE, BitVec.extractLsb'_cast, BitVec.cast_eq, BitVec.extractLsb'_append_eq_of_le,
    BitVec.extractLsb'_append_eq_of_add_le, BitVec.extractLsb'_eq_self, Nat.reduceSub]
  simp

@[simp] theorem decEe_encEe (op : BitVec 6) (fn : BitVec 5) (z : BitVec 8) (c : BitVec 8 → Instr) :
    decEe (encEe op fn z) c = some (c z) := by
  simp [decEe, encEe]

@[simp] theorem decEtde_encEtde (op : BitVec 6) (fn : BitVec 5) (op2 : BitVec 2) (slot : Fin 4) (z : BitVec 8) (c : Fin 4 → BitVec 8 → Instr) :
    decEtde (encEtde op fn op2 slot z) c = some (c slot z) := by
  simp (disch := decide) only [decEtde, encEtde, wordE, BitVec.extractLsb'_cast, BitVec.cast_eq, BitVec.extractLsb'_append_eq_of_le,
    BitVec.extractLsb'_append_eq_of_add_le, BitVec.extractLsb'_eq_self, Nat.reduceSub]
  simp

@[simp] theorem decEnbe_encEnbe (op : BitVec 6) (fn : BitVec 5) (n : BitVec 5) (b : XReg) (z : BitVec 8) (c : BitVec 5 → XReg → BitVec 8 → Instr) :
    decEnbe (encEnbe op fn n b z) c = some (c n b z) := by
  simp [decEnbe, encEnbe]

@[simp] theorem decEbse_encEbse (op : BitVec 6) (fn : BitVec 5) (b : XReg) (s : Scope) (z : BitVec 8) (c : XReg → Scope → BitVec 8 → Instr) :
    decEbse (encEbse op fn b s z) c = some (c b s z) := by
  simp [decEbse, encEbse]

@[simp] theorem decEbs_encEbs (op : BitVec 6) (fn : BitVec 5) (b : XReg) (s : Scope) (c : XReg → Scope → Instr) :
    decEbs (encEbs op fn b s) c = some (c b s) := by
  simp [decEbs, encEbs]

@[simp] theorem decEabse_encEabse (op : BitVec 6) (fn : BitVec 5) (a b : XReg) (s : Scope) (z : BitVec 8) (c : XReg → XReg → Scope → BitVec 8 → Instr) :
    decEabse (encEabse op fn a b s z) c = some (c a b s z) := by
  simp [decEabse, encEabse]

@[simp] theorem decEde_encEde (op : BitVec 6) (fn : BitVec 5) (a : XReg) (z : BitVec 8) (c : XReg → BitVec 8 → Instr) :
    decEde (encEde op fn a z) c = some (c a z) := by
  simp [decEde, encEde]

@[simp] theorem decEdbe_encEdbe (op : BitVec 6) (fn : BitVec 5) (a b : XReg) (z : BitVec 8) (c : XReg → XReg → BitVec 8 → Instr) :
    decEdbe (encEdbe op fn a b z) c = some (c a b z) := by
  simp [decEdbe, encEdbe]

@[simp] theorem decEskim_encEskim (op : BitVec 6) (fn : BitVec 5) (v : VReg) (a b : XReg) (t : Fin 4) (c : VReg → XReg → XReg → Fin 4 → Instr) :
    decEskim (encEskim op fn v a b t) c = some (c v a b t) := by
  simp (disch := decide) only [decEskim, encEskim, wordE, BitVec.extractLsb'_cast, BitVec.cast_eq, BitVec.extractLsb'_append_eq_of_le,
    BitVec.extractLsb'_append_eq_of_add_le, BitVec.extractLsb'_eq_self, Nat.reduceSub]
  simp

@[simp] theorem decEs_encEs (op : BitVec 6) (fn : BitVec 5) (s : Scope) (c : Scope → Instr) :
    decEs (encEs op fn s) c = some (c s) := by
  simp [decEs, encEs]

@[simp] theorem decE0_encE0 (op : BitVec 6) (fn : BitVec 5) (c : Instr) : decE0 (encE0 op fn) c = some c := by
  simp [decE0, encE0]

@[simp] theorem decEse_encEse (op : BitVec 6) (fn : BitVec 5) (s : Scope) (z : BitVec 8) (c : Scope → BitVec 8 → Instr) :
    decEse (encEse op fn s z) c = some (c s z) := by
  simp [decEse, encEse]

@[simp] theorem decEtap_encEtap (op : BitVec 6) (fn : BitVec 5) (n t : Fin 8) (c : Fin 8 → Fin 8 → Instr) :
    decEtap (encEtap op fn n t) c = some (c n t) := by
  simp (disch := decide) only [decEtap, encEtap, wordE, BitVec.extractLsb'_cast, BitVec.cast_eq, BitVec.extractLsb'_append_eq_of_le,
    BitVec.extractLsb'_append_eq_of_add_le, BitVec.extractLsb'_eq_self, Nat.reduceSub]
  simp

@[simp] theorem decEd_encEd (op : BitVec 6) (fn : BitVec 5) (a : XReg) (c : XReg → Instr) :
    decEd (encEd op fn a) c = some (c a) := by
  simp [decEd, encEd]

/-! ## The selecting fields of each shape -/

@[simp] theorem encA3_26_6 (fn : BitVec 9) (d a : XReg) (b : Src) :
    (encA3 fn d a b).extractLsb' 26 6 = 1 := by
  simp [encA3]

@[simp] theorem encA3_9_2 (fn : BitVec 9) (d a : XReg) (b : Src) :
    (encA3 fn d a b).extractLsb' 9 2 = (srcLit b) := by
  simp [encA3]

@[simp] theorem encA3_0_9 (fn : BitVec 9) (d a : XReg) (b : Src) :
    (encA3 fn d a b).extractLsb' 0 9 = fn := by
  simp [encA3]

@[simp] theorem encA2_26_6 (fn : BitVec 9) (d a : XReg) :
    (encA2 fn d a).extractLsb' 26 6 = 1 := by
  simp [encA2]

@[simp] theorem encA2_9_2 (fn : BitVec 9) (d a : XReg) :
    (encA2 fn d a).extractLsb' 9 2 = 0 := by
  simp [encA2]

@[simp] theorem encA2_0_9 (fn : BitVec 9) (d a : XReg) :
    (encA2 fn d a).extractLsb' 0 9 = fn := by
  simp [encA2]

@[simp] theorem encI_26_6 (op : BitVec 6) (d a : XReg) (imm : BitVec 16) :
    (encI op d a imm).extractLsb' 26 6 = op := by
  simp [encI]

@[simp] theorem encLUI_26_6 (op : BitVec 6) (d : XReg) (imm : BitVec 16) :
    (encLUI op d imm).extractLsb' 26 6 = op := by
  simp [encLUI]

@[simp] theorem encSHI_26_6 (op : BitVec 6) (d a : XReg) (sh : BitVec 5) :
    (encSHI op d a sh).extractLsb' 26 6 = op := by
  simp [encSHI]

@[simp] theorem encM_26_6 (op : BitVec 6) (d a : XReg) (ord : MemOrd) (scope : Scope) (off : BitVec 11) :
    (encM op d a ord scope off).extractLsb' 26 6 = op := by
  simp [encM]

@[simp] theorem encAMO_26_6 (code : BitVec 4) (d a : XReg) (b : Src) (ord : MemOrd) (scope : Scope) :
    (encAMO code d a b ord scope).extractLsb' 26 6 = (0x1C : BitVec 6) := by
  simp [encAMO]

@[simp] theorem encAMO_9_2 (code : BitVec 4) (d a : XReg) (b : Src) (ord : MemOrd) (scope : Scope) :
    (encAMO code d a b ord scope).extractLsb' 9 2 = (srcLit b) := by
  simp [encAMO]

@[simp] theorem encAMO_5_4 (code : BitVec 4) (d a : XReg) (b : Src) (ord : MemOrd) (scope : Scope) :
    (encAMO code d a b ord scope).extractLsb' 5 4 = code := by
  simp [encAMO]

@[simp] theorem encCAS_26_6 (code : BitVec 4) (d a : XReg) (b : PairSrc) (ord : MemOrd) (scope : Scope) :
    (encCAS code d a b ord scope).extractLsb' 26 6 = (0x1C : BitVec 6) := by
  simp [encCAS]

@[simp] theorem encCAS_9_2 (code : BitVec 4) (d a : XReg) (b : PairSrc) (ord : MemOrd) (scope : Scope) :
    (encCAS code d a b ord scope).extractLsb' 9 2 = (pairLit b) := by
  simp [encCAS]

@[simp] theorem encCAS_5_4 (code : BitVec 4) (d a : XReg) (b : PairSrc) (ord : MemOrd) (scope : Scope) :
    (encCAS code d a b ord scope).extractLsb' 5 4 = code := by
  simp [encCAS]

@[simp] theorem encBR_26_6 (cond : BitVec 3) (a b : XReg) (off : BitVec 13) :
    (encBR cond a b off).extractLsb' 26 6 = (0x20 : BitVec 6) := by
  simp [encBR]

@[simp] theorem encBR_13_3 (cond : BitVec 3) (a b : XReg) (off : BitVec 13) :
    (encBR cond a b off).extractLsb' 13 3 = cond := by
  simp [encBR]

@[simp] theorem encJAL_26_6 (d : XReg) (off : BitVec 21) :
    (encJAL d off).extractLsb' 26 6 = (0x21 : BitVec 6) := by
  simp [encJAL]

@[simp] theorem encS0_26_6 (fn : BitVec 4) :
    (encS0 fn).extractLsb' 26 6 = (0x24 : BitVec 6) := by
  simp [encS0]

@[simp] theorem encS0_12_4 (fn : BitVec 4) :
    (encS0 fn).extractLsb' 12 4 = fn := by
  simp [encS0]

@[simp] theorem encSDA_26_6 (fn : BitVec 4) (d a : XReg) :
    (encSDA fn d a).extractLsb' 26 6 = (0x24 : BitVec 6) := by
  simp [encSDA]

@[simp] theorem encSDA_12_4 (fn : BitVec 4) (d a : XReg) :
    (encSDA fn d a).extractLsb' 12 4 = fn := by
  simp [encSDA]

@[simp] theorem encSC_26_6 (fn : BitVec 4) (code : BitVec 12) :
    (encSC fn code).extractLsb' 26 6 = (0x24 : BitVec 6) := by
  simp [encSC]

@[simp] theorem encSC_12_4 (fn : BitVec 4) (code : BitVec 12) :
    (encSC fn code).extractLsb' 12 4 = fn := by
  simp [encSC]

@[simp] theorem encSMFS_26_6 (fn : BitVec 4) (d : XReg) (num : BitVec 12) :
    (encSMFS fn d num).extractLsb' 26 6 = (0x24 : BitVec 6) := by
  simp [encSMFS]

@[simp] theorem encSMFS_12_4 (fn : BitVec 4) (d : XReg) (num : BitVec 12) :
    (encSMFS fn d num).extractLsb' 12 4 = fn := by
  simp [encSMFS]

@[simp] theorem encSMTS_26_6 (fn : BitVec 4) (a : XReg) (num : BitVec 12) :
    (encSMTS fn a num).extractLsb' 26 6 = (0x24 : BitVec 6) := by
  simp [encSMTS]

@[simp] theorem encSMTS_12_4 (fn : BitVec 4) (a : XReg) (num : BitVec 12) :
    (encSMTS fn a num).extractLsb' 12 4 = fn := by
  simp [encSMTS]

@[simp] theorem encV3_26_6 (fn : BitVec 8) (d a : VReg) (b : VSrc) :
    (encV3 fn d a b).extractLsb' 26 6 = 0x28 := by
  simp [encV3]

@[simp] theorem encV3_8_2 (fn : BitVec 8) (d a : VReg) (b : VSrc) :
    (encV3 fn d a b).extractLsb' 8 2 = (vsrcLit b) := by
  simp [encV3]

@[simp] theorem encV3_0_8 (fn : BitVec 8) (d a : VReg) (b : VSrc) :
    (encV3 fn d a b).extractLsb' 0 8 = fn := by
  simp [encV3]

@[simp] theorem encV4_26_6 (fn : BitVec 8) (d a : VReg) (b : VSrc) (vc : VReg) :
    (encV4 fn d a b vc).extractLsb' 26 6 = 0x28 := by
  simp [encV4]

@[simp] theorem encV4_8_2 (fn : BitVec 8) (d a : VReg) (b : VSrc) (vc : VReg) :
    (encV4 fn d a b vc).extractLsb' 8 2 = (vsrcLit b) := by
  simp [encV4]

@[simp] theorem encV4_0_8 (fn : BitVec 8) (d a : VReg) (b : VSrc) (vc : VReg) :
    (encV4 fn d a b vc).extractLsb' 0 8 = fn := by
  simp [encV4]

@[simp] theorem encV2_26_6 (op : BitVec 6) (fn : BitVec 8) (d a : VReg) :
    (encV2 op fn d a).extractLsb' 26 6 = op := by
  simp [encV2]

@[simp] theorem encV2_8_2 (op : BitVec 6) (fn : BitVec 8) (d a : VReg) :
    (encV2 op fn d a).extractLsb' 8 2 = 0 := by
  simp [encV2]

@[simp] theorem encV2_0_8 (op : BitVec 6) (fn : BitVec 8) (d a : VReg) :
    (encV2 op fn d a).extractLsb' 0 8 = fn := by
  simp [encV2]

@[simp] theorem encVBC_26_6 (fn : BitVec 8) (d a : VReg) (n : Fin 16) :
    (encVBC fn d a n).extractLsb' 26 6 = 0x28 := by
  simp [encVBC]

@[simp] theorem encVBC_8_2 (fn : BitVec 8) (d a : VReg) (n : Fin 16) :
    (encVBC fn d a n).extractLsb' 8 2 = 0 := by
  simp [encVBC]

@[simp] theorem encVBC_0_8 (fn : BitVec 8) (d a : VReg) (n : Fin 16) :
    (encVBC fn d a n).extractLsb' 0 8 = fn := by
  simp [encVBC]

@[simp] theorem encVM_26_6 (fn : BitVec 8) (v : VReg) (a b : XReg) (ord : MemOrd) (scope : Scope) :
    (encVM fn v a b ord scope).extractLsb' 26 6 = (0x29 : BitVec 6) := by
  simp [encVM]

@[simp] theorem encVM_0_8 (fn : BitVec 8) (v : VReg) (a b : XReg) (ord : MemOrd) (scope : Scope) :
    (encVM fn v a b ord scope).extractLsb' 0 8 = fn := by
  simp [encVM]

@[simp] theorem encVM3_26_6 (fn : BitVec 8) (v : VReg) (a b : XReg) :
    (encVM3 fn v a b).extractLsb' 26 6 = (0x29 : BitVec 6) := by
  simp [encVM3]

@[simp] theorem encVM3_0_8 (fn : BitVec 8) (v : VReg) (a b : XReg) :
    (encVM3 fn v a b).extractLsb' 0 8 = fn := by
  simp [encVM3]

@[simp] theorem encVMQ_26_6 (fn : BitVec 8) (v : VReg) (q : RingNo) (b : XReg) :
    (encVMQ fn v q b).extractLsb' 26 6 = (0x29 : BitVec 6) := by
  simp [encVMQ]

@[simp] theorem encVMQ_0_8 (fn : BitVec 8) (v : VReg) (q : RingNo) (b : XReg) :
    (encVMQ fn v q b).extractLsb' 0 8 = fn := by
  simp [encVMQ]

@[simp] theorem encVPK_26_6 (fn : BitVec 8) (d a b : VReg) (churn : Bool) :
    (encVPK fn d a b churn).extractLsb' 26 6 = 0x2A := by
  simp [encVPK]

@[simp] theorem encVPK_8_2 (fn : BitVec 8) (d a b : VReg) (churn : Bool) :
    (encVPK fn d a b churn).extractLsb' 8 2 = 0 := by
  simp [encVPK]

@[simp] theorem encVPK_0_8 (fn : BitVec 8) (d a b : VReg) (churn : Bool) :
    (encVPK fn d a b churn).extractLsb' 0 8 = fn := by
  simp [encVPK]

@[simp] theorem encVUP_26_6 (fn : BitVec 8) (d a : VReg) (half : Bool) :
    (encVUP fn d a half).extractLsb' 26 6 = 0x2A := by
  simp [encVUP]

@[simp] theorem encVUP_8_2 (fn : BitVec 8) (d a : VReg) (half : Bool) :
    (encVUP fn d a half).extractLsb' 8 2 = 0 := by
  simp [encVUP]

@[simp] theorem encVUP_0_8 (fn : BitVec 8) (d a : VReg) (half : Bool) :
    (encVUP fn d a half).extractLsb' 0 8 = fn := by
  simp [encVUP]

@[simp] theorem encVDEC_26_6 (fn : BitVec 8) (d a b : VReg) (e : Fin 16) :
    (encVDEC fn d a b e).extractLsb' 26 6 = 0x2A := by
  simp [encVDEC]

@[simp] theorem encVDEC_8_2 (fn : BitVec 8) (d a b : VReg) (e : Fin 16) :
    (encVDEC fn d a b e).extractLsb' 8 2 = 0 := by
  simp [encVDEC]

@[simp] theorem encVDEC_0_8 (fn : BitVec 8) (d a b : VReg) (e : Fin 16) :
    (encVDEC fn d a b e).extractLsb' 0 8 = fn := by
  simp [encVDEC]

@[simp] theorem encV3R_26_6 (fn : BitVec 8) (d a b : VReg) :
    (encV3R fn d a b).extractLsb' 26 6 = 0x2B := by
  simp [encV3R]

@[simp] theorem encV3R_8_2 (fn : BitVec 8) (d a b : VReg) :
    (encV3R fn d a b).extractLsb' 8 2 = 0 := by
  simp [encV3R]

@[simp] theorem encV3R_0_8 (fn : BitVec 8) (d a b : VReg) :
    (encV3R fn d a b).extractLsb' 0 8 = fn := by
  simp [encV3R]

@[simp] theorem encQp_26_6 (fn : BitVec 9) (q : RingNo) (a : XReg) :
    (encQp fn q a).extractLsb' 26 6 = (0x31 : BitVec 6) := by
  simp [encQp]

@[simp] theorem encQp_0_9 (fn : BitVec 9) (q : RingNo) (a : XReg) :
    (encQp fn q a).extractLsb' 0 9 = fn := by
  simp [encQp]

@[simp] theorem encQn_26_6 (fn : BitVec 9) (q : RingNo) (n : BitVec 8) (a : XReg) :
    (encQn fn q n a).extractLsb' 26 6 = (0x31 : BitVec 6) := by
  simp [encQn]

@[simp] theorem encQn_0_9 (fn : BitVec 9) (q : RingNo) (n : BitVec 8) (a : XReg) :
    (encQn fn q n a).extractLsb' 0 9 = fn := by
  simp [encQn]

@[simp] theorem encQ0_26_6 (fn : BitVec 9) (q : RingNo) :
    (encQ0 fn q).extractLsb' 26 6 = (0x31 : BitVec 6) := by
  simp [encQ0]

@[simp] theorem encQ0_0_9 (fn : BitVec 9) (q : RingNo) :
    (encQ0 fn q).extractLsb' 0 9 = fn := by
  simp [encQ0]

@[simp] theorem encEbe_26_6 (op : BitVec 6) (fn : BitVec 5) (b : XReg) (z : BitVec 8) :
    (encEbe op fn b z).extractLsb' 26 6 = op := by
  simp [encEbe]

@[simp] theorem encEbe_8_5 (op : BitVec 6) (fn : BitVec 5) (b : XReg) (z : BitVec 8) :
    (encEbe op fn b z).extractLsb' 8 5 = fn := by
  simp [encEbe]

@[simp] theorem encEmma_26_6 (op : BitVec 6) (fn : BitVec 5) (qa qb : RingNo) (z : BitVec 8) :
    (encEmma op fn qa qb z).extractLsb' 26 6 = op := by
  simp [encEmma]

@[simp] theorem encEmma_8_5 (op : BitVec 6) (fn : BitVec 5) (qa qb : RingNo) (z : BitVec 8) :
    (encEmma op fn qa qb z).extractLsb' 8 5 = fn := by
  simp [encEmma]

@[simp] theorem encEe_26_6 (op : BitVec 6) (fn : BitVec 5) (z : BitVec 8) :
    (encEe op fn z).extractLsb' 26 6 = op := by
  simp [encEe]

@[simp] theorem encEe_8_5 (op : BitVec 6) (fn : BitVec 5) (z : BitVec 8) :
    (encEe op fn z).extractLsb' 8 5 = fn := by
  simp [encEe]

@[simp] theorem encEtde_26_6 (op : BitVec 6) (fn : BitVec 5) (op2 : BitVec 2) (slot : Fin 4) (z : BitVec 8) :
    (encEtde op fn op2 slot z).extractLsb' 26 6 = op := by
  simp [encEtde]

@[simp] theorem encEtde_8_5 (op : BitVec 6) (fn : BitVec 5) (op2 : BitVec 2) (slot : Fin 4) (z : BitVec 8) :
    (encEtde op fn op2 slot z).extractLsb' 8 5 = fn := by
  simp [encEtde]

@[simp] theorem encEnbe_26_6 (op : BitVec 6) (fn : BitVec 5) (n : BitVec 5) (b : XReg) (z : BitVec 8) :
    (encEnbe op fn n b z).extractLsb' 26 6 = op := by
  simp [encEnbe]

@[simp] theorem encEnbe_8_5 (op : BitVec 6) (fn : BitVec 5) (n : BitVec 5) (b : XReg) (z : BitVec 8) :
    (encEnbe op fn n b z).extractLsb' 8 5 = fn := by
  simp [encEnbe]

@[simp] theorem encEbse_26_6 (op : BitVec 6) (fn : BitVec 5) (b : XReg) (s : Scope) (z : BitVec 8) :
    (encEbse op fn b s z).extractLsb' 26 6 = op := by
  simp [encEbse]

@[simp] theorem encEbse_8_5 (op : BitVec 6) (fn : BitVec 5) (b : XReg) (s : Scope) (z : BitVec 8) :
    (encEbse op fn b s z).extractLsb' 8 5 = fn := by
  simp [encEbse]

@[simp] theorem encEbs_26_6 (op : BitVec 6) (fn : BitVec 5) (b : XReg) (s : Scope) :
    (encEbs op fn b s).extractLsb' 26 6 = op := by
  simp [encEbs]

@[simp] theorem encEbs_8_5 (op : BitVec 6) (fn : BitVec 5) (b : XReg) (s : Scope) :
    (encEbs op fn b s).extractLsb' 8 5 = fn := by
  simp [encEbs]

@[simp] theorem encEabse_26_6 (op : BitVec 6) (fn : BitVec 5) (a b : XReg) (s : Scope) (z : BitVec 8) :
    (encEabse op fn a b s z).extractLsb' 26 6 = op := by
  simp [encEabse]

@[simp] theorem encEabse_8_5 (op : BitVec 6) (fn : BitVec 5) (a b : XReg) (s : Scope) (z : BitVec 8) :
    (encEabse op fn a b s z).extractLsb' 8 5 = fn := by
  simp [encEabse]

@[simp] theorem encEde_26_6 (op : BitVec 6) (fn : BitVec 5) (a : XReg) (z : BitVec 8) :
    (encEde op fn a z).extractLsb' 26 6 = op := by
  simp [encEde]

@[simp] theorem encEde_8_5 (op : BitVec 6) (fn : BitVec 5) (a : XReg) (z : BitVec 8) :
    (encEde op fn a z).extractLsb' 8 5 = fn := by
  simp [encEde]

@[simp] theorem encEdbe_26_6 (op : BitVec 6) (fn : BitVec 5) (a b : XReg) (z : BitVec 8) :
    (encEdbe op fn a b z).extractLsb' 26 6 = op := by
  simp [encEdbe]

@[simp] theorem encEdbe_8_5 (op : BitVec 6) (fn : BitVec 5) (a b : XReg) (z : BitVec 8) :
    (encEdbe op fn a b z).extractLsb' 8 5 = fn := by
  simp [encEdbe]

@[simp] theorem encEskim_26_6 (op : BitVec 6) (fn : BitVec 5) (v : VReg) (a b : XReg) (t : Fin 4) :
    (encEskim op fn v a b t).extractLsb' 26 6 = op := by
  simp [encEskim]

@[simp] theorem encEskim_8_5 (op : BitVec 6) (fn : BitVec 5) (v : VReg) (a b : XReg) (t : Fin 4) :
    (encEskim op fn v a b t).extractLsb' 8 5 = fn := by
  simp [encEskim]

@[simp] theorem encEs_26_6 (op : BitVec 6) (fn : BitVec 5) (s : Scope) :
    (encEs op fn s).extractLsb' 26 6 = op := by
  simp [encEs]

@[simp] theorem encEs_8_5 (op : BitVec 6) (fn : BitVec 5) (s : Scope) :
    (encEs op fn s).extractLsb' 8 5 = fn := by
  simp [encEs]

@[simp] theorem encE0_26_6 (op : BitVec 6) (fn : BitVec 5) :
    (encE0 op fn).extractLsb' 26 6 = op := by
  simp [encE0]

@[simp] theorem encE0_8_5 (op : BitVec 6) (fn : BitVec 5) :
    (encE0 op fn).extractLsb' 8 5 = fn := by
  simp [encE0]

@[simp] theorem encEse_26_6 (op : BitVec 6) (fn : BitVec 5) (s : Scope) (z : BitVec 8) :
    (encEse op fn s z).extractLsb' 26 6 = op := by
  simp [encEse]

@[simp] theorem encEse_8_5 (op : BitVec 6) (fn : BitVec 5) (s : Scope) (z : BitVec 8) :
    (encEse op fn s z).extractLsb' 8 5 = fn := by
  simp [encEse]

@[simp] theorem encEtap_26_6 (op : BitVec 6) (fn : BitVec 5) (n t : Fin 8) :
    (encEtap op fn n t).extractLsb' 26 6 = op := by
  simp [encEtap]

@[simp] theorem encEtap_8_5 (op : BitVec 6) (fn : BitVec 5) (n t : Fin 8) :
    (encEtap op fn n t).extractLsb' 8 5 = fn := by
  simp [encEtap]

@[simp] theorem encEd_26_6 (op : BitVec 6) (fn : BitVec 5) (a : XReg) :
    (encEd op fn a).extractLsb' 26 6 = op := by
  simp [encEd]

@[simp] theorem encEd_8_5 (op : BitVec 6) (fn : BitVec 5) (a : XReg) :
    (encEd op fn a).extractLsb' 8 5 = fn := by
  simp [encEd]

@[simp] theorem encEtde_24_2 (op : BitVec 6) (fn : BitVec 5) (op2 : BitVec 2) (slot : Fin 4) (z : BitVec 8) :
    (encEtde op fn op2 slot z).extractLsb' 24 2 = op2 := by
  simp (disch := decide) only [encEtde, wordE, BitVec.extractLsb'_cast, BitVec.cast_eq, BitVec.extractLsb'_append_eq_of_le,
    BitVec.extractLsb'_append_eq_of_add_le, BitVec.extractLsb'_eq_self, Nat.reduceSub]

end Sys2Proof
end

