-- ==== Sys2Proof/Laws/Dispatch.lean ====
section
/-!
SUPPORT. The dispatch, arm by arm: running an instruction is running its meaning.
-/
set_option Elab.async false

namespace Sys2Proof.Machine
open Sys2Proof

@[simp] theorem exec_add (s : State) (rd ra : XReg) (b : Src) : exec (.add rd ra b) s = execAdd rd ra b s := rfl
@[simp] theorem exec_sub (s : State) (rd ra : XReg) (b : Src) : exec (.sub rd ra b) s = execSub rd ra b s := rfl
@[simp] theorem exec_and (s : State) (rd ra : XReg) (b : Src) : exec (.and rd ra b) s = execAnd rd ra b s := rfl
@[simp] theorem exec_or (s : State) (rd ra : XReg) (b : Src) : exec (.or rd ra b) s = execOr rd ra b s := rfl
@[simp] theorem exec_xor (s : State) (rd ra : XReg) (b : Src) : exec (.xor rd ra b) s = execXor rd ra b s := rfl
@[simp] theorem exec_andn (s : State) (rd ra : XReg) (b : Src) : exec (.andn rd ra b) s = execAndn rd ra b s := rfl
@[simp] theorem exec_shl (s : State) (rd ra : XReg) (b : Src) : exec (.shl rd ra b) s = execShl rd ra b s := rfl
@[simp] theorem exec_shr (s : State) (rd ra : XReg) (b : Src) : exec (.shr rd ra b) s = execShr rd ra b s := rfl
@[simp] theorem exec_sra (s : State) (rd ra : XReg) (b : Src) : exec (.sra rd ra b) s = execSra rd ra b s := rfl
@[simp] theorem exec_rotl (s : State) (rd ra : XReg) (b : Src) : exec (.rotl rd ra b) s = execRotl rd ra b s := rfl
@[simp] theorem exec_slt (s : State) (rd ra : XReg) (b : Src) : exec (.slt rd ra b) s = execSlt rd ra b s := rfl
@[simp] theorem exec_sltn (s : State) (rd ra : XReg) (b : Src) : exec (.sltn rd ra b) s = execSltn rd ra b s := rfl
@[simp] theorem exec_min (s : State) (rd ra : XReg) (b : Src) : exec (.min rd ra b) s = execMin rd ra b s := rfl
@[simp] theorem exec_max (s : State) (rd ra : XReg) (b : Src) : exec (.max rd ra b) s = execMax rd ra b s := rfl
@[simp] theorem exec_minn (s : State) (rd ra : XReg) (b : Src) : exec (.minn rd ra b) s = execMinn rd ra b s := rfl
@[simp] theorem exec_maxn (s : State) (rd ra : XReg) (b : Src) : exec (.maxn rd ra b) s = execMaxn rd ra b s := rfl
@[simp] theorem exec_mul (s : State) (rd ra : XReg) (b : Src) : exec (.mul rd ra b) s = execMul rd ra b s := rfl
@[simp] theorem exec_mulh (s : State) (rd ra : XReg) (b : Src) : exec (.mulh rd ra b) s = execMulh rd ra b s := rfl
@[simp] theorem exec_mulhn (s : State) (rd ra : XReg) (b : Src) : exec (.mulhn rd ra b) s = execMulhn rd ra b s := rfl
@[simp] theorem exec_div (s : State) (rd ra : XReg) (b : Src) : exec (.div rd ra b) s = execDiv rd ra b s := rfl
@[simp] theorem exec_divn (s : State) (rd ra : XReg) (b : Src) : exec (.divn rd ra b) s = execDivn rd ra b s := rfl
@[simp] theorem exec_rem (s : State) (rd ra : XReg) (b : Src) : exec (.rem rd ra b) s = execRem rd ra b s := rfl
@[simp] theorem exec_remn (s : State) (rd ra : XReg) (b : Src) : exec (.remn rd ra b) s = execRemn rd ra b s := rfl
@[simp] theorem exec_clz (s : State) (rd ra : XReg) : exec (.clz rd ra) s = execClz rd ra s := rfl
@[simp] theorem exec_ctz (s : State) (rd ra : XReg) : exec (.ctz rd ra) s = execCtz rd ra s := rfl
@[simp] theorem exec_popc (s : State) (rd ra : XReg) : exec (.popc rd ra) s = execPopc rd ra s := rfl
@[simp] theorem exec_bext (s : State) (rd ra : XReg) (b : Src) : exec (.bext rd ra b) s = execBext rd ra b s := rfl
@[simp] theorem exec_bins (s : State) (rd ra : XReg) (b : Src) : exec (.bins rd ra b) s = execBins rd ra b s := rfl
@[simp] theorem exec_addi (s : State) (rd ra : XReg) (imm : BitVec 16) : exec (.addi rd ra imm) s = execAddi rd ra imm s := rfl
@[simp] theorem exec_andi (s : State) (rd ra : XReg) (imm : BitVec 16) : exec (.andi rd ra imm) s = execAndi rd ra imm s := rfl
@[simp] theorem exec_ori (s : State) (rd ra : XReg) (imm : BitVec 16) : exec (.ori rd ra imm) s = execOri rd ra imm s := rfl
@[simp] theorem exec_xori (s : State) (rd ra : XReg) (imm : BitVec 16) : exec (.xori rd ra imm) s = execXori rd ra imm s := rfl
@[simp] theorem exec_slti (s : State) (rd ra : XReg) (imm : BitVec 16) : exec (.slti rd ra imm) s = execSlti rd ra imm s := rfl
@[simp] theorem exec_sltni (s : State) (rd ra : XReg) (imm : BitVec 16) : exec (.sltni rd ra imm) s = execSltni rd ra imm s := rfl
@[simp] theorem exec_lui (s : State) (rd : XReg) (imm : BitVec 16) : exec (.lui rd imm) s = execLui rd imm s := rfl
@[simp] theorem exec_shli (s : State) (rd ra : XReg) (sh : BitVec 5) : exec (.shli rd ra sh) s = execShli rd ra sh s := rfl
@[simp] theorem exec_shri (s : State) (rd ra : XReg) (sh : BitVec 5) : exec (.shri rd ra sh) s = execShri rd ra sh s := rfl
@[simp] theorem exec_srai (s : State) (rd ra : XReg) (sh : BitVec 5) : exec (.srai rd ra sh) s = execSrai rd ra sh s := rfl
@[simp] theorem exec_lb (s : State) (rd ra : XReg) (ord : MemOrd) (scope : Scope) (off : BitVec 11) : exec (.lb rd ra ord scope off) s = execLb rd ra ord scope off s := rfl
@[simp] theorem exec_lbn (s : State) (rd ra : XReg) (ord : MemOrd) (scope : Scope) (off : BitVec 11) : exec (.lbn rd ra ord scope off) s = execLbn rd ra ord scope off s := rfl
@[simp] theorem exec_lh (s : State) (rd ra : XReg) (ord : MemOrd) (scope : Scope) (off : BitVec 11) : exec (.lh rd ra ord scope off) s = execLh rd ra ord scope off s := rfl
@[simp] theorem exec_lhn (s : State) (rd ra : XReg) (ord : MemOrd) (scope : Scope) (off : BitVec 11) : exec (.lhn rd ra ord scope off) s = execLhn rd ra ord scope off s := rfl
@[simp] theorem exec_lw (s : State) (rd ra : XReg) (ord : MemOrd) (scope : Scope) (off : BitVec 11) : exec (.lw rd ra ord scope off) s = execLw rd ra ord scope off s := rfl
@[simp] theorem exec_ld (s : State) (rd ra : XReg) (ord : MemOrd) (scope : Scope) (off : BitVec 11) : exec (.ld rd ra ord scope off) s = execLd rd ra ord scope off s := rfl
@[simp] theorem exec_sb (s : State) (rs ra : XReg) (ord : MemOrd) (scope : Scope) (off : BitVec 11) : exec (.sb rs ra ord scope off) s = execSb rs ra ord scope off s := rfl
@[simp] theorem exec_sh (s : State) (rs ra : XReg) (ord : MemOrd) (scope : Scope) (off : BitVec 11) : exec (.sh rs ra ord scope off) s = execSh rs ra ord scope off s := rfl
@[simp] theorem exec_sw (s : State) (rs ra : XReg) (ord : MemOrd) (scope : Scope) (off : BitVec 11) : exec (.sw rs ra ord scope off) s = execSw rs ra ord scope off s := rfl
@[simp] theorem exec_sd (s : State) (rs ra : XReg) (ord : MemOrd) (scope : Scope) (off : BitVec 11) : exec (.sd rs ra ord scope off) s = execSd rs ra ord scope off s := rfl
@[simp] theorem exec_amoadd (s : State) (rd ra : XReg) (b : Src) (ord : MemOrd) (scope : Scope) : exec (.amoadd rd ra b ord scope) s = execAmoadd rd ra b ord scope s := rfl
@[simp] theorem exec_amoand (s : State) (rd ra : XReg) (b : Src) (ord : MemOrd) (scope : Scope) : exec (.amoand rd ra b ord scope) s = execAmoand rd ra b ord scope s := rfl
@[simp] theorem exec_amoor (s : State) (rd ra : XReg) (b : Src) (ord : MemOrd) (scope : Scope) : exec (.amoor rd ra b ord scope) s = execAmoor rd ra b ord scope s := rfl
@[simp] theorem exec_amoxor (s : State) (rd ra : XReg) (b : Src) (ord : MemOrd) (scope : Scope) : exec (.amoxor rd ra b ord scope) s = execAmoxor rd ra b ord scope s := rfl
@[simp] theorem exec_amomin (s : State) (rd ra : XReg) (b : Src) (ord : MemOrd) (scope : Scope) : exec (.amomin rd ra b ord scope) s = execAmomin rd ra b ord scope s := rfl
@[simp] theorem exec_amomax (s : State) (rd ra : XReg) (b : Src) (ord : MemOrd) (scope : Scope) : exec (.amomax rd ra b ord scope) s = execAmomax rd ra b ord scope s := rfl
@[simp] theorem exec_amominn (s : State) (rd ra : XReg) (b : Src) (ord : MemOrd) (scope : Scope) : exec (.amominn rd ra b ord scope) s = execAmominn rd ra b ord scope s := rfl
@[simp] theorem exec_amomaxn (s : State) (rd ra : XReg) (b : Src) (ord : MemOrd) (scope : Scope) : exec (.amomaxn rd ra b ord scope) s = execAmomaxn rd ra b ord scope s := rfl
@[simp] theorem exec_amoswp (s : State) (rd ra : XReg) (b : Src) (ord : MemOrd) (scope : Scope) : exec (.amoswp rd ra b ord scope) s = execAmoswp rd ra b ord scope s := rfl
@[simp] theorem exec_amocas (s : State) (rd ra : XReg) (b : PairSrc) (ord : MemOrd) (scope : Scope) : exec (.amocas rd ra b ord scope) s = execAmocas rd ra b ord scope s := rfl
@[simp] theorem exec_beq (s : State) (ra rb : XReg) (off : BitVec 13) : exec (.beq ra rb off) s = execBeq ra rb off s := rfl
@[simp] theorem exec_bne (s : State) (ra rb : XReg) (off : BitVec 13) : exec (.bne ra rb off) s = execBne ra rb off s := rfl
@[simp] theorem exec_blt (s : State) (ra rb : XReg) (off : BitVec 13) : exec (.blt ra rb off) s = execBlt ra rb off s := rfl
@[simp] theorem exec_bge (s : State) (ra rb : XReg) (off : BitVec 13) : exec (.bge ra rb off) s = execBge ra rb off s := rfl
@[simp] theorem exec_bltn (s : State) (ra rb : XReg) (off : BitVec 13) : exec (.bltn ra rb off) s = execBltn ra rb off s := rfl
@[simp] theorem exec_bgen (s : State) (ra rb : XReg) (off : BitVec 13) : exec (.bgen ra rb off) s = execBgen ra rb off s := rfl
@[simp] theorem exec_jal (s : State) (rd : XReg) (off : BitVec 21) : exec (.jal rd off) s = execJal rd off s := rfl
@[simp] theorem exec_jalr (s : State) (rd ra : XReg) (imm : BitVec 16) : exec (.jalr rd ra imm) s = execJalr rd ra imm s := rfl
@[simp] theorem exec_tdone (s : State) : exec (.tdone) s = execTdone s := rfl
@[simp] theorem exec_tyield (s : State) : exec (.tyield) s = execTyield s := rfl
@[simp] theorem exec_tspawn (s : State) (rd ra : XReg) : exec (.tspawn rd ra) s = execTspawn rd ra s := rfl
@[simp] theorem exec_trap (s : State) (code : BitVec 12) : exec (.trap code) s = execTrap code s := rfl
@[simp] theorem exec_tret (s : State) : exec (.tret) s = execTret s := rfl
@[simp] theorem exec_mfs (s : State) (rd : XReg) (num : BitVec 12) : exec (.mfs rd num) s = execMfs rd num s := rfl
@[simp] theorem exec_mts (s : State) (ra : XReg) (num : BitVec 12) : exec (.mts ra num) s = execMts ra num s := rfl
@[simp] theorem exec_breakpt (s : State) (code : BitVec 12) : exec (.breakpt code) s = execBreakpt code s := rfl
@[simp] theorem exec_vaddF (s : State) (vd va : VReg) (b : VSrc) : exec (.vaddF vd va b) s = execVaddF vd va b s := rfl
@[simp] theorem exec_vsubF (s : State) (vd va : VReg) (b : VSrc) : exec (.vsubF vd va b) s = execVsubF vd va b s := rfl
@[simp] theorem exec_vmulF (s : State) (vd va : VReg) (b : VSrc) : exec (.vmulF vd va b) s = execVmulF vd va b s := rfl
@[simp] theorem exec_vfmaF (s : State) (vd va : VReg) (b : VSrc) (vc : VReg) : exec (.vfmaF vd va b vc) s = execVfmaF vd va b vc s := rfl
@[simp] theorem exec_vfmsF (s : State) (vd va : VReg) (b : VSrc) (vc : VReg) : exec (.vfmsF vd va b vc) s = execVfmsF vd va b vc s := rfl
@[simp] theorem exec_vminF (s : State) (vd va : VReg) (b : VSrc) : exec (.vminF vd va b) s = execVminF vd va b s := rfl
@[simp] theorem exec_vmaxF (s : State) (vd va : VReg) (b : VSrc) : exec (.vmaxF vd va b) s = execVmaxF vd va b s := rfl
@[simp] theorem exec_vabsF (s : State) (vd va : VReg) : exec (.vabsF vd va) s = execVabsF vd va s := rfl
@[simp] theorem exec_vcltF (s : State) (vd va : VReg) (b : VSrc) : exec (.vcltF vd va b) s = execVcltF vd va b s := rfl
@[simp] theorem exec_vceqF (s : State) (vd va : VReg) (b : VSrc) : exec (.vceqF vd va b) s = execVceqF vd va b s := rfl
@[simp] theorem exec_vcleF (s : State) (vd va : VReg) (b : VSrc) : exec (.vcleF vd va b) s = execVcleF vd va b s := rfl
@[simp] theorem exec_vaddI (s : State) (vd va : VReg) (b : VSrc) : exec (.vaddI vd va b) s = execVaddI vd va b s := rfl
@[simp] theorem exec_vsubI (s : State) (vd va : VReg) (b : VSrc) : exec (.vsubI vd va b) s = execVsubI vd va b s := rfl
@[simp] theorem exec_vmulI (s : State) (vd va : VReg) (b : VSrc) : exec (.vmulI vd va b) s = execVmulI vd va b s := rfl
@[simp] theorem exec_vminI (s : State) (vd va : VReg) (b : VSrc) : exec (.vminI vd va b) s = execVminI vd va b s := rfl
@[simp] theorem exec_vmaxI (s : State) (vd va : VReg) (b : VSrc) : exec (.vmaxI vd va b) s = execVmaxI vd va b s := rfl
@[simp] theorem exec_vand (s : State) (vd va : VReg) (b : VSrc) : exec (.vand vd va b) s = execVand vd va b s := rfl
@[simp] theorem exec_vor (s : State) (vd va : VReg) (b : VSrc) : exec (.vor vd va b) s = execVor vd va b s := rfl
@[simp] theorem exec_vxor (s : State) (vd va : VReg) (b : VSrc) : exec (.vxor vd va b) s = execVxor vd va b s := rfl
@[simp] theorem exec_vshl (s : State) (vd va : VReg) (b : VSrc) : exec (.vshl vd va b) s = execVshl vd va b s := rfl
@[simp] theorem exec_vshr (s : State) (vd va : VReg) (b : VSrc) : exec (.vshr vd va b) s = execVshr vd va b s := rfl
@[simp] theorem exec_vsra (s : State) (vd va : VReg) (b : VSrc) : exec (.vsra vd va b) s = execVsra vd va b s := rfl
@[simp] theorem exec_vcltI (s : State) (vd va : VReg) (b : VSrc) : exec (.vcltI vd va b) s = execVcltI vd va b s := rfl
@[simp] theorem exec_vceqI (s : State) (vd va : VReg) (b : VSrc) : exec (.vceqI vd va b) s = execVceqI vd va b s := rfl
@[simp] theorem exec_vsel (s : State) (vd va : VReg) (b : VSrc) (vc : VReg) : exec (.vsel vd va b vc) s = execVsel vd va b vc s := rfl
@[simp] theorem exec_vmask (s : State) (vd va : VReg) (b : VSrc) : exec (.vmask vd va b) s = execVmask vd va b s := rfl
@[simp] theorem exec_vshuf (s : State) (vd va : VReg) (b : VSrc) : exec (.vshuf vd va b) s = execVshuf vd va b s := rfl
@[simp] theorem exec_vbcast (s : State) (vd va : VReg) (lane : Fin 16) : exec (.vbcast vd va lane) s = execVbcast vd va lane s := rfl
@[simp] theorem exec_vext (s : State) (vd va : VReg) (b : VSrc) (n : Fin 16) : exec (.vext vd va b n) s = execVext vd va b n s := rfl
@[simp] theorem exec_vraddF (s : State) (vd va : VReg) : exec (.vraddF vd va) s = execVraddF vd va s := rfl
@[simp] theorem exec_vrmaxF (s : State) (vd va : VReg) : exec (.vrmaxF vd va) s = execVrmaxF vd va s := rfl
@[simp] theorem exec_vraddI (s : State) (vd va : VReg) : exec (.vraddI vd va) s = execVraddI vd va s := rfl
@[simp] theorem exec_vld (s : State) (v : VReg) (ra rb : XReg) (ord : MemOrd) (scope : Scope) : exec (.vld v ra rb ord scope) s = execVld v ra rb ord scope s := rfl
@[simp] theorem exec_vst (s : State) (v : VReg) (ra rb : XReg) (ord : MemOrd) (scope : Scope) : exec (.vst v ra rb ord scope) s = execVst v ra rb ord scope s := rfl
@[simp] theorem exec_vldt (s : State) (v : VReg) (ra rb : XReg) : exec (.vldt v ra rb) s = execVldt v ra rb s := rfl
@[simp] theorem exec_vldq (s : State) (v : VReg) (q : RingNo) (rb : XReg) : exec (.vldq v q rb) s = execVldq v q rb s := rfl
@[simp] theorem exec_vstq (s : State) (v : VReg) (q : RingNo) (rb : XReg) : exec (.vstq v q rb) s = execVstq v q rb s := rfl
@[simp] theorem exec_vgath (s : State) (v : VReg) (ra rb : XReg) (ord : MemOrd) (scope : Scope) : exec (.vgath v ra rb ord scope) s = execVgath v ra rb ord scope s := rfl
@[simp] theorem exec_vscat (s : State) (v : VReg) (ra rb : XReg) (ord : MemOrd) (scope : Scope) : exec (.vscat v ra rb ord scope) s = execVscat v ra rb ord scope s := rfl
@[simp] theorem exec_vlds (s : State) (v : VReg) (ra rb : XReg) (df : Fin 8) : exec (.vlds v ra rb df) s = execVlds v ra rb df s := rfl
@[simp] theorem exec_vcvtfi (s : State) (vd va : VReg) : exec (.vcvtfi vd va) s = execVcvtfi vd va s := rfl
@[simp] theorem exec_vcvtif (s : State) (vd va : VReg) : exec (.vcvtif vd va) s = execVcvtif vd va s := rfl
@[simp] theorem exec_vpkbf (s : State) (vd va vb : VReg) (churn : Bool) : exec (.vpkbf vd va vb churn) s = execVpkbf vd va vb churn s := rfl
@[simp] theorem exec_vupbf (s : State) (vd va : VReg) (half : Bool) : exec (.vupbf vd va half) s = execVupbf vd va half s := rfl
@[simp] theorem exec_vdec8 (s : State) (vd va vb : VReg) (e : Fin 16) : exec (.vdec8 vd va vb e) s = execVdec8 vd va vb e s := rfl
@[simp] theorem exec_vdec6 (s : State) (vd va vb : VReg) (e : Fin 16) : exec (.vdec6 vd va vb e) s = execVdec6 vd va vb e s := rfl
@[simp] theorem exec_venc8 (s : State) (vd va : VReg) (held : Bool) (sc : Fin 64) : exec (.venc8 vd va held sc) s = execVenc8 vd va held sc s := rfl
@[simp] theorem exec_venc6 (s : State) (vd va : VReg) (held : Bool) (sc : Fin 64) : exec (.venc6 vd va held sc) s = execVenc6 vd va held sc s := rfl
@[simp] theorem exec_vexp2 (s : State) (vd va : VReg) : exec (.vexp2 vd va) s = execVexp2 vd va s := rfl
@[simp] theorem exec_vlog2 (s : State) (vd va : VReg) : exec (.vlog2 vd va) s = execVlog2 vd va s := rfl
@[simp] theorem exec_vrcp (s : State) (vd va : VReg) : exec (.vrcp vd va) s = execVrcp vd va s := rfl
@[simp] theorem exec_vrsq (s : State) (vd va : VReg) : exec (.vrsq vd va) s = execVrsq vd va s := rfl
@[simp] theorem exec_vtanh (s : State) (vd va : VReg) : exec (.vtanh vd va) s = execVtanh vd va s := rfl
@[simp] theorem exec_vsmx (s : State) (vd va : VReg) : exec (.vsmx vd va) s = execVsmx vd va s := rfl
@[simp] theorem exec_vsmxap (s : State) (vd va vb : VReg) : exec (.vsmxap vd va vb) s = execVsmxap vd va vb s := rfl
@[simp] theorem exec_tshape (s : State) (rb : XReg) (esel : BitVec 8) : exec (.tshape rb esel) s = execTshape rb esel s := rfl
@[simp] theorem exec_tgeom (s : State) (rb : XReg) (esel : BitVec 8) : exec (.tgeom rb esel) s = execTgeom rb esel s := rfl
@[simp] theorem exec_mma (s : State) (qa qb : RingNo) (esel : BitVec 8) : exec (.mma qa qb esel) s = execMma qa qb esel s := rfl
@[simp] theorem exec_mmaw (s : State) (qa qb : RingNo) (esel : BitVec 8) : exec (.mmaw qa qb esel) s = execMmaw qa qb esel s := rfl
@[simp] theorem exec_tqnt (s : State) (esel : BitVec 8) : exec (.tqnt esel) s = execTqnt esel s := rfl
@[simp] theorem exec_tdqnt (s : State) (esel : BitVec 8) : exec (.tdqnt esel) s = execTdqnt esel s := rfl
@[simp] theorem exec_tstpair (s : State) (esel : BitVec 8) : exec (.tstpair esel) s = execTstpair esel s := rfl
@[simp] theorem exec_tdecay (s : State) (slot : Fin 4) (esel : BitVec 8) : exec (.tdecay slot esel) s = execTdecay slot esel s := rfl
@[simp] theorem exec_tdecaySweep (s : State) (slot : Fin 4) (esel : BitVec 8) : exec (.tdecaySweep slot esel) s = execTdecaySweep slot esel s := rfl
@[simp] theorem exec_tdecayDrop (s : State) (slot : Fin 4) (esel : BitVec 8) : exec (.tdecayDrop slot esel) s = execTdecayDrop slot esel s := rfl
@[simp] theorem exec_tsadd (s : State) (esel : BitVec 8) : exec (.tsadd esel) s = execTsadd esel s := rfl
@[simp] theorem exec_tnorm (s : State) (rb : XReg) (esel : BitVec 8) : exec (.tnorm rb esel) s = execTnorm rb esel s := rfl
@[simp] theorem exec_tscl (s : State) (n : BitVec 5) (rb : XReg) (esel : BitVec 8) : exec (.tscl n rb esel) s = execTscl n rb esel s := rfl
@[simp] theorem exec_tfact (s : State) (rb : XReg) (esel : BitVec 8) : exec (.tfact rb esel) s = execTfact rb esel s := rfl
@[simp] theorem exec_qcfg (s : State) (q : RingNo) (rp : XReg) : exec (.qcfg q rp) s = execQcfg q rp s := rfl
@[simp] theorem exec_qwaitf (s : State) (q : RingNo) (n : BitVec 8) (ra : XReg) : exec (.qwaitf q n ra) s = execQwaitf q n ra s := rfl
@[simp] theorem exec_qwaite (s : State) (q : RingNo) (n : BitVec 8) (ra : XReg) : exec (.qwaite q n ra) s = execQwaite q n ra s := rfl
@[simp] theorem exec_qadvh (s : State) (q : RingNo) (n : BitVec 8) (ra : XReg) : exec (.qadvh q n ra) s = execQadvh q n ra s := rfl
@[simp] theorem exec_qadvt (s : State) (q : RingNo) (n : BitVec 8) (ra : XReg) : exec (.qadvt q n ra) s = execQadvt q n ra s := rfl
@[simp] theorem exec_qstat (s : State) (q : RingNo) (rd : XReg) : exec (.qstat q rd) s = execQstat q rd s := rfl
@[simp] theorem exec_qreset (s : State) (q : RingNo) : exec (.qreset q) s = execQreset q s := rfl
@[simp] theorem exec_msend (s : State) (rb : XReg) (scope : Scope) (esel : BitVec 8) : exec (.msend rb scope esel) s = execMsend rb scope esel s := rfl
@[simp] theorem exec_mput (s : State) (rb : XReg) (scope : Scope) : exec (.mput rb scope) s = execMput rb scope s := rfl
@[simp] theorem exec_mget (s : State) (rb : XReg) (scope : Scope) : exec (.mget rb scope) s = execMget rb scope s := rfl
@[simp] theorem exec_mamo (s : State) (ra rb : XReg) (scope : Scope) (esel : BitVec 8) : exec (.mamo ra rb scope esel) s = execMamo ra rb scope esel s := rfl
@[simp] theorem exec_mbind (s : State) (rb : XReg) (esel : BitVec 8) : exec (.mbind rb esel) s = execMbind rb esel s := rfl
@[simp] theorem exec_mrecv (s : State) (rd : XReg) (esel : BitVec 8) : exec (.mrecv rd esel) s = execMrecv rd esel s := rfl
@[simp] theorem exec_fscfg (s : State) (rb : XReg) (esel : BitVec 8) : exec (.fscfg rb esel) s = execFscfg rb esel s := rfl
@[simp] theorem exec_fsum (s : State) (rb : XReg) (esel : BitVec 8) : exec (.fsum rb esel) s = execFsum rb esel s := rfl
@[simp] theorem exec_fsraise (s : State) (rb : XReg) (esel : BitVec 8) : exec (.fsraise rb esel) s = execFsraise rb esel s := rfl
@[simp] theorem exec_fsres (s : State) (rd rb : XReg) (esel : BitVec 8) : exec (.fsres rd rb esel) s = execFsres rd rb esel s := rfl
@[simp] theorem exec_cbcast (s : State) (rb : XReg) (esel : BitVec 8) : exec (.cbcast rb esel) s = execCbcast rb esel s := rfl
@[simp] theorem exec_cjoin (s : State) (rb : XReg) (esel : BitVec 8) : exec (.cjoin rb esel) s = execCjoin rb esel s := rfl
@[simp] theorem exec_cskim (s : State) (vd : VReg) (rd rb : XReg) (tag : Fin 4) : exec (.cskim vd rd rb tag) s = execCskim vd rd rb tag s := rfl
@[simp] theorem exec_ccut (s : State) (rb : XReg) (esel : BitVec 8) : exec (.ccut rb esel) s = execCcut rb esel s := rfl
@[simp] theorem exec_cgath (s : State) (rb : XReg) (esel : BitVec 8) : exec (.cgath rb esel) s = execCgath rb esel s := rfl
@[simp] theorem exec_cprec (s : State) (rd rb : XReg) (esel : BitVec 8) : exec (.cprec rd rb esel) s = execCprec rd rb esel s := rfl
@[simp] theorem exec_cadd (s : State) (rb : XReg) (scope : Scope) (esel : BitVec 8) : exec (.cadd rb scope esel) s = execCadd rb scope esel s := rfl
@[simp] theorem exec_cwait (s : State) (ra rb : XReg) (scope : Scope) (esel : BitVec 8) : exec (.cwait ra rb scope esel) s = execCwait ra rb scope esel s := rfl
@[simp] theorem exec_cread (s : State) (rd : XReg) (esel : BitVec 8) : exec (.cread rd esel) s = execCread rd esel s := rfl
@[simp] theorem exec_craise (s : State) (ra rb : XReg) (scope : Scope) (esel : BitVec 8) : exec (.craise ra rb scope esel) s = execCraise ra rb scope esel s := rfl
@[simp] theorem exec_cbrk (s : State) (esel : BitVec 8) : exec (.cbrk esel) s = execCbrk esel s := rfl
@[simp] theorem exec_ctest (s : State) (rd rb : XReg) (esel : BitVec 8) : exec (.ctest rd rb esel) s = execCtest rd rb esel s := rfl
@[simp] theorem exec_fence (s : State) (scope : Scope) : exec (.fence scope) s = execFence scope s := rfl
@[simp] theorem exec_fencee (s : State) : exec (.fencee) s = execFencee s := rfl
@[simp] theorem exec_barcfg (s : State) (rb : XReg) (esel : BitVec 8) : exec (.barcfg rb esel) s = execBarcfg rb esel s := rfl
@[simp] theorem exec_barrive (s : State) (scope : Scope) (esel : BitVec 8) : exec (.barrive scope esel) s = execBarrive scope esel s := rfl
@[simp] theorem exec_barwait (s : State) (rb : XReg) (scope : Scope) (esel : BitVec 8) : exec (.barwait rb scope esel) s = execBarwait rb scope esel s := rfl
@[simp] theorem exec_bartap (s : State) (bar : Fin 8) (slot : Fin 8) : exec (.bartap bar slot) s = execBartap bar slot s := rfl
@[simp] theorem exec_stepadv (s : State) : exec (.stepadv) s = execStepadv s := rfl
@[simp] theorem exec_steprd (s : State) (rd : XReg) : exec (.steprd rd) s = execSteprd rd s := rfl
@[simp] theorem exec_erinit (s : State) (rb : XReg) (esel : BitVec 8) : exec (.erinit rb esel) s = execErinit rb esel s := rfl
@[simp] theorem exec_erdone (s : State) (scope : Scope) : exec (.erdone scope) s = execErdone scope s := rfl
@[simp] theorem exec_erpass (s : State) : exec (.erpass) s = execErpass s := rfl
@[simp] theorem exec_erhalt (s : State) : exec (.erhalt) s = execErhalt s := rfl
@[simp] theorem exec_erchk (s : State) (rd : XReg) (esel : BitVec 8) : exec (.erchk rd esel) s = execErchk rd esel s := rfl
@[simp] theorem exec_erstat (s : State) (rd : XReg) (esel : BitVec 8) : exec (.erstat rd esel) s = execErstat rd esel s := rfl
@[simp] theorem exec_sgeom (s : State) (rb : XReg) (esel : BitVec 8) : exec (.sgeom rb esel) s = execSgeom rb esel s := rfl
@[simp] theorem exec_scopy (s : State) (rb : XReg) (scope : Scope) (esel : BitVec 8) : exec (.scopy rb scope esel) s = execScopy rb scope esel s := rfl
@[simp] theorem exec_sload (s : State) (rb : XReg) (scope : Scope) (esel : BitVec 8) : exec (.sload rb scope esel) s = execSload rb scope esel s := rfl
@[simp] theorem exec_sstore (s : State) (rb : XReg) (scope : Scope) (esel : BitVec 8) : exec (.sstore rb scope esel) s = execSstore rb scope esel s := rfl
@[simp] theorem exec_sfeed (s : State) (rb : XReg) (esel : BitVec 8) : exec (.sfeed rb esel) s = execSfeed rb esel s := rfl
@[simp] theorem exec_sdrain (s : State) (rb : XReg) (esel : BitVec 8) : exec (.sdrain rb esel) s = execSdrain rb esel s := rfl
@[simp] theorem exec_sred (s : State) (rb : XReg) (scope : Scope) (esel : BitVec 8) : exec (.sred rb scope esel) s = execSred rb scope esel s := rfl
@[simp] theorem exec_sxput (s : State) (rb : XReg) (scope : Scope) (esel : BitVec 8) : exec (.sxput rb scope esel) s = execSxput rb scope esel s := rfl
@[simp] theorem exec_sbar (s : State) (esel : BitVec 8) : exec (.sbar esel) s = execSbar esel s := rfl
@[simp] theorem exec_scancel (s : State) (esel : BitVec 8) : exec (.scancel esel) s = execScancel esel s := rfl
@[simp] theorem exec_sresume (s : State) (esel : BitVec 8) : exec (.sresume esel) s = execSresume esel s := rfl
@[simp] theorem exec_sstat (s : State) (rd rb : XReg) (esel : BitVec 8) : exec (.sstat rd rb esel) s = execSstat rd rb esel s := rfl
@[simp] theorem exec_simg (s : State) (ra rb : XReg) (esel : BitVec 8) : exec (.simg ra rb esel) s = execSimg ra rb esel s := rfl
@[simp] theorem exec_mergedContribution (s : State) (rejected : Bool) : exec (.mergedContribution rejected) s = execMergedContribution rejected s := rfl
@[simp] theorem exec_flitArrives (s : State) (flit : Flit) : exec (.flitArrives flit) s = execFlitArrives flit s := rfl
@[simp] theorem exec_acknowledge (s : State) (seq : BitVec 12) : exec (.acknowledge seq) s = execAcknowledge seq s := rfl
@[simp] theorem exec_submit (s : State) (val : DWord) : exec (.submit val) s = execSubmit val s := rfl
@[simp] theorem exec_queueEnable (s : State) (port : Fin 2) : exec (.queueEnable port) s = execQueueEnable port s := rfl
@[simp] theorem exec_registerWrite (s : State) (off : Nat) (val : DWord) : exec (.registerWrite off val) s = execRegisterWrite off val s := rfl
@[simp] theorem exec_governor (s : State) (occupancy : Nat) : exec (.governor occupancy) s = execGovernor occupancy s := rfl
@[simp] theorem exec_powerSample (s : State) (watts amps : Nat) : exec (.powerSample watts amps) s = execPowerSample watts amps s := rfl
@[simp] theorem exec_fieldSelfTest (s : State) (result : SelfTest) : exec (.fieldSelfTest result) s = execFieldSelfTest result s := rfl
@[simp] theorem exec_illegalEncoding (s : State) (w : Word) : exec (.illegalEncoding w) s = execIllegalEncoding w s := rfl
@[simp] theorem exec_instructionFetchFault (s : State) (locked : Bool) (addr : Word) : exec (.instructionFetchFault locked addr) s = execInstructionFetchFault locked addr s := rfl
@[simp] theorem exec_meshLinkLoss (s : State) (dir : Dir) : exec (.meshLinkLoss dir) s = execMeshLinkLoss dir s := rfl
@[simp] theorem exec_asyncFault (s : State) : exec (.asyncFault) s = execAsyncFault s := rfl
@[simp] theorem exec_wake (s : State) : exec (.wake) s = execWake s := rfl
@[simp] theorem exec_caddPerformed (s : State) : exec (.caddPerformed) s = execCaddPerformed s := rfl
@[simp] theorem exec_injection (s : State) : exec (.injection) s = execInjection s := rfl
@[simp] theorem exec_requestArrival (s : State) : exec (.requestArrival) s = execRequestArrival s := rfl
@[simp] theorem exec_sendServed (s : State) : exec (.sendServed) s = execSendServed s := rfl
@[simp] theorem exec_putServed (s : State) : exec (.putServed) s = execPutServed s := rfl
@[simp] theorem exec_getServed (s : State) : exec (.getServed) s = execGetServed s := rfl
@[simp] theorem exec_amoServed (s : State) : exec (.amoServed) s = execAmoServed s := rfl
@[simp] theorem exec_ackLands (s : State) : exec (.ackLands) s = execAckLands s := rfl
@[simp] theorem exec_getrLands (s : State) : exec (.getrLands) s = execGetrLands s := rfl
@[simp] theorem exec_amorLands (s : State) : exec (.amorLands) s = execAmorLands s := rfl
@[simp] theorem exec_nackLands (s : State) : exec (.nackLands) s = execNackLands s := rfl
@[simp] theorem exec_sumLands (s : State) : exec (.sumLands) s = execSumLands s := rfl
@[simp] theorem exec_renupLands (s : State) : exec (.renupLands) s = execRenupLands s := rfl
@[simp] theorem exec_rendnLands (s : State) : exec (.rendnLands) s = execRendnLands s := rfl
@[simp] theorem exec_sumDoneLands (s : State) : exec (.sumDoneLands) s = execSumDoneLands s := rfl
@[simp] theorem exec_sumFailLands (s : State) : exec (.sumFailLands) s = execSumFailLands s := rfl
@[simp] theorem exec_openLands (s : State) : exec (.openLands) s = execOpenLands s := rfl
@[simp] theorem exec_trainDataBeat (s : State) : exec (.trainDataBeat) s = execTrainDataBeat s := rfl
@[simp] theorem exec_endLands (s : State) : exec (.endLands) s = execEndLands s := rfl
@[simp] theorem exec_cutLands (s : State) : exec (.cutLands) s = execCutLands s := rfl
@[simp] theorem exec_trainDone (s : State) : exec (.trainDone) s = execTrainDone s := rfl
@[simp] theorem exec_stepBeat (s : State) : exec (.stepBeat) s = execStepBeat s := rfl
@[simp] theorem exec_arrivalBeat (s : State) : exec (.arrivalBeat) s = execArrivalBeat s := rfl
@[simp] theorem exec_releaseBeat (s : State) : exec (.releaseBeat) s = execReleaseBeat s := rfl
@[simp] theorem exec_barrierArrivalSent (s : State) : exec (.barrierArrivalSent) s = execBarrierArrivalSent s := rfl
@[simp] theorem exec_handshakeLands (s : State) : exec (.handshakeLands) s = execHandshakeLands s := rfl
@[simp] theorem exec_mismatchBeat (s : State) : exec (.mismatchBeat) s = execMismatchBeat s := rfl
@[simp] theorem exec_flipLands (s : State) : exec (.flipLands) s = execFlipLands s := rfl
@[simp] theorem exec_haltLands (s : State) : exec (.haltLands) s = execHaltLands s := rfl
@[simp] theorem exec_fire (s : State) : exec (.fire) s = execFire s := rfl
@[simp] theorem exec_waveFrame (s : State) : exec (.waveFrame) s = execWaveFrame s := rfl
@[simp] theorem exec_creditLands (s : State) : exec (.creditLands) s = execCreditLands s := rfl
@[simp] theorem exec_creditReset (s : State) : exec (.creditReset) s = execCreditReset s := rfl
@[simp] theorem exec_failFrame (s : State) : exec (.failFrame) s = execFailFrame s := rfl
@[simp] theorem exec_tensorStart (s : State) : exec (.tensorStart) s = execTensorStart s := rfl
@[simp] theorem exec_mmaRow (s : State) : exec (.mmaRow) s = execMmaRow s := rfl
@[simp] theorem exec_tensorComplete (s : State) : exec (.tensorComplete) s = execTensorComplete s := rfl
@[simp] theorem exec_decaySweep (s : State) : exec (.decaySweep) s = execDecaySweep s := rfl
@[simp] theorem exec_streamActivate (s : State) : exec (.streamActivate) s = execStreamActivate s := rfl
@[simp] theorem exec_granule (s : State) : exec (.granule) s = execGranule s := rfl
@[simp] theorem exec_streamEnd (s : State) : exec (.streamEnd) s = execStreamEnd s := rfl
@[simp] theorem exec_homePortAccess (s : State) : exec (.homePortAccess) s = execHomePortAccess s := rfl
@[simp] theorem exec_windowContribution (s : State) : exec (.windowContribution) s = execWindowContribution s := rfl
@[simp] theorem exec_holdTimeExpiry (s : State) : exec (.holdTimeExpiry) s = execHoldTimeExpiry s := rfl
@[simp] theorem exec_lossOfLock (s : State) : exec (.lossOfLock) s = execLossOfLock s := rfl
@[simp] theorem exec_retrainComplete (s : State) : exec (.retrainComplete) s = execRetrainComplete s := rfl
@[simp] theorem exec_retrainTimeout (s : State) : exec (.retrainTimeout) s = execRetrainTimeout s := rfl
@[simp] theorem exec_queueDisable (s : State) : exec (.queueDisable) s = execQueueDisable s := rfl
@[simp] theorem exec_launchRecord (s : State) : exec (.launchRecord) s = execLaunchRecord s := rfl
@[simp] theorem exec_launchPlacement (s : State) : exec (.launchPlacement) s = execLaunchPlacement s := rfl
@[simp] theorem exec_launchStart (s : State) : exec (.launchStart) s = execLaunchStart s := rfl
@[simp] theorem exec_launchComplete (s : State) : exec (.launchComplete) s = execLaunchComplete s := rfl
@[simp] theorem exec_preempt (s : State) : exec (.preempt) s = execPreempt s := rfl
@[simp] theorem exec_drainDone (s : State) : exec (.drainDone) s = execDrainDone s := rfl
@[simp] theorem exec_resume (s : State) : exec (.resume) s = execResume s := rfl
@[simp] theorem exec_pageEviction (s : State) : exec (.pageEviction) s = execPageEviction s := rfl
@[simp] theorem exec_pageRestore (s : State) : exec (.pageRestore) s = execPageRestore s := rfl
@[simp] theorem exec_configurePartitions (s : State) : exec (.configurePartitions) s = execConfigurePartitions s := rfl
@[simp] theorem exec_invalidateTranslations (s : State) : exec (.invalidateTranslations) s = execInvalidateTranslations s := rfl
@[simp] theorem exec_writeReductionWindow (s : State) : exec (.writeReductionWindow) s = execWriteReductionWindow s := rfl
@[simp] theorem exec_cancelLaunch (s : State) : exec (.cancelLaunch) s = execCancelLaunch s := rfl
@[simp] theorem exec_retireAsid (s : State) : exec (.retireAsid) s = execRetireAsid s := rfl
@[simp] theorem exec_attest (s : State) : exec (.attest) s = execAttest s := rfl
@[simp] theorem exec_extend (s : State) : exec (.extend) s = execExtend s := rfl
@[simp] theorem exec_progressWatchdog (s : State) : exec (.progressWatchdog) s = execProgressWatchdog s := rfl
@[simp] theorem exec_coolantFault (s : State) : exec (.coolantFault) s = execCoolantFault s := rfl
@[simp] theorem exec_fieldLoss (s : State) : exec (.fieldLoss) s = execFieldLoss s := rfl
@[simp] theorem exec_powerOnReset (s : State) : exec (.powerOnReset) s = execPowerOnReset s := rfl
@[simp] theorem exec_go (s : State) : exec (.go) s = execGo s := rfl
@[simp] theorem exec_vectorEnginePerform (s : State) : exec (.vectorEnginePerform) s = execVectorEnginePerform s := rfl
@[simp] theorem exec_flitReplay (s : State) : exec (.flitReplay) s = execFlitReplay s := rfl

end Sys2Proof.Machine
end

