-- ==== Sys2Proof/Laws/Order.lean ====
section
/-!
SUPPORT. What issuing an instruction, and an access out of its place, can do: one lemma for each function of
Sys2Proof/Machine/Order.lean that a step calls.
-/
set_option Elab.async false

namespace Sys2Proof.Machine
open Sys2Proof

/-! ## Nothing in flight and nothing read ahead -/

theorem marksAfter_none {s t : State} (i : Instr) (h : s.here.late = []) : marksAfter s t i = t := by
  simp [marksAfter, h]

theorem linesAfter_none {s t : State} (i : Instr) (h : s.here.scratch.ahead = []) : linesAfter s t i = t := by
  simp [linesAfter, h]

/-- With no access in flight and no line read ahead at the core, only an acquire is heard of elsewhere. -/
theorem afterIssue_none {s t : State} (i : Instr) (hl : s.here.late = []) (ha : s.here.scratch.ahead = []) :
    afterIssue s t i = hearAfter s t i := by
  rw [afterIssue, marksAfter_none i hl, linesAfter_none i ha]

/-- An instruction that makes no acquire beyond its core is heard of nowhere. -/
theorem hearAfter_near {s t : State} (i : Instr) (h : ∀ sc ∈ (passOf s i).acquire, sc.code ≤ 1) : hearAfter s t i = t := by
  unfold hearAfter
  split
  · rfl
  · rename_i sc g
    split
    · rfl
    · simp [State.hear, h sc (by simp [g])]

theorem lateRoom_none {s t : State} (h : s.here.late = []) : lateRoom s t = true := by simp [lateRoom, h]

/-- With no sweep pending a VLDS demands no rewrite. -/
theorem firstDemand_none {c : Core} (step a : Nat) (h : ∀ w ∈ c.tensor.sweeps.toList, w.pend = []) :
    firstDemand c step a = none := by
  unfold firstDemand
  rw [List.find?_eq_none]
  intro g hg
  obtain ⟨w, hw, hg⟩ := List.mem_flatMap.mp hg
  split at hg
  · cases hg
  · split at hg
    · cases hg
    · simp [h w hw] at hg
theorem demandOf_none {s t : State} (i : Instr) (h : ∀ w ∈ s.here.tensor.sweeps.toList, w.pend = []) :
    demandOf s t i = none := by
  unfold demandOf
  split
  · split
    · exact firstDemand_none _ _ h
    · rfl
  · rfl

/-- With no access in flight, no line read ahead, no sweep pending and no message of its own to what it accesses, an instruction
that issues at once is its meaning, and an acquire it makes is heard of. -/
theorem issueInstr_quiet {s : State} (i : Instr) (hl : s.here.late = []) (ha : s.here.scratch.ahead = [])
    (hw : ∀ w ∈ s.here.tensor.sweeps.toList, w.pend = [])
    (hm : ownMessage s.here s.cur.1 s.cur.2 (passOf s (effective s i)).spans (passOf s (effective s i)).awaits = false) :
    issueInstr .now i s = match exec i s with
      | .next t => .next (hearAfter s t (effective s i))
      | r => r := by
  cases h : exec i s <;>
    simp [issueInstr, issueOther, issueWith, hl, hm, lateRoom_none hl, demandOf_none _ hw, afterIssue_none _ hl ha, h]

theorem performTurn_none {s : State} {p : Site} (n : Nat) (h : (s.core p).late = []) : performTurn p n s = s := by
  simp [performTurn, h, takeAt]

/-! ## What they can do -/

/-- The first access that may be performed is performed, or nothing happens. -/
theorem performFirst_cases (p : Site) (want : Late → Bool) (s : State) :
    performFirst p want s = s ∨ ∃ n, performFirst p want s = performTurn p n s := by
  unfold performFirst
  dsimp only
  split
  · exact .inl rfl
  · exact .inr ⟨_, rfl⟩

/-- An access in flight is performed if it may be; else nothing happens. -/
theorem performTurn_cases (p : Site) (n : Nat) (s : State) :
    performTurn p n s = s ∨ ∃ e rest, takeAt (s.core p).late n = some (e, rest) ∧ lateReady (s.core p) n e = true
      ∧ performTurn p n s = (s.onCore p fun c => { c with late := rest }).performLate p e := by
  unfold performTurn
  dsimp only
  split
  · exact .inl rfl
  · rename_i e rest h
    split
    · rename_i g
      rw [Bool.and_eq_true] at g
      exact .inr ⟨e, rest, h, g.2, rfl⟩
    · exact .inl rfl

/-- An instruction that issues with an outcome lets an access in flight go first, waits, leaves a rewrite to be made first, or leads
to that outcome but for what becomes of the accesses in flight and the lines read ahead. -/
theorem issueWith_next {i : Instr} {s u : State} {r : Host.Outcome State Fault Refusal} (h : issueWith i s r = .next u) :
    (∃ want, u = performFirst s.cur.1 want s) ∨ u = s ∨ (∃ f, u = s.onHere f)
      ∨ ∃ t, r = .next t ∧ u = afterIssue s t (effective s i) := by
  unfold issueWith at h
  dsimp only at h
  split at h
  · injection h with h; exact .inl ⟨_, h.symm⟩
  · split at h
    · injection h with h; exact .inr (.inl h.symm)
    · split at h
      · split at h
        · injection h with h; exact .inl ⟨_, h.symm⟩
        · split at h
          · injection h with h; exact .inr (.inl h.symm)
          · split at h
            · injection h with h; exact .inr (.inr (.inl ⟨_, h.symm⟩))
            · injection h with h; exact .inr (.inr (.inr ⟨_, rfl, h.symm⟩))
      · rename_i g; exact absurd h (g u)

/-- An instruction that issues lets an access in flight go first, waits, leaves a rewrite to be made first, or has its own effect in
one of the three manners. -/
theorem issueInstr_next {m : Manner} {i : Instr} {s u : State} (h : issueInstr m i s = .next u) :
    (∃ want, u = performFirst s.cur.1 want s) ∨ u = s ∨ (∃ f, u = s.onHere f)
      ∨ ∃ j t, (exec i s = .next t ∨ issueLate i s = some t ∨ issueAhead i s = some t) ∧ u = afterIssue s t j := by
  unfold issueInstr at h
  split at h
  · rename_i j t g
    obtain h | h | h | ⟨t', h, hu⟩ := issueWith_next h
    · exact .inl h
    · exact .inr (.inl h)
    · exact .inr (.inr (.inl h))
    · injection h with h
      subst h
      cases m with
      | now => cases g
      | late =>
        simp only [issueOther, Option.map_eq_some_iff] at g
        obtain ⟨t', g, e⟩ := g
        injection e with _ e
        exact .inr (.inr (.inr ⟨_, t, .inr (.inl (e ▸ g)), hu⟩))
      | ahead =>
        simp only [issueOther, Option.map_eq_some_iff] at g
        obtain ⟨t', g, e⟩ := g
        injection e with _ e
        exact .inr (.inr (.inr ⟨_, t, .inr (.inr (e ▸ g)), hu⟩))
  · obtain h | h | h | ⟨t, h, hu⟩ := issueWith_next h
    · exact .inl h
    · exact .inr (.inl h)
    · exact .inr (.inr (.inl h))
    · exact .inr (.inr (.inr ⟨_, t, .inl h, hu⟩))

/-! ## They leave the memories outside the cores alone -/

@[simp] theorem keepAhead_edge (s : State) (keep : Ahead → Option Ahead) : (s.keepAhead keep).edge = s.edge := rfl
@[simp] theorem keepAhead_host (s : State) (keep : Ahead → Option Ahead) : (s.keepAhead keep).host = s.host := rfl
@[simp] theorem keepAhead_agenda (s : State) (keep : Ahead → Option Ahead) : (s.keepAhead keep).agenda = s.agenda := rfl
@[simp] theorem keepAhead_mesh (s : State) (keep : Ahead → Option Ahead) : (s.keepAhead keep).mesh = s.mesh := rfl

/-- What the lines read ahead become changes nothing but them. -/
theorem linesAfter_cases (s t : State) (i : Instr) : linesAfter s t i = t ∨ ∃ keep, linesAfter s t i = t.keepAhead keep := by
  unfold linesAfter
  split
  · exact .inl rfl
  · dsimp only
    split
    · exact .inr ⟨_, rfl⟩
    · split
      · exact .inl rfl
      · split <;> exact .inr ⟨_, rfl⟩

theorem marksAfter_cases (s t : State) (i : Instr) : marksAfter s t i = t ∨ ∃ f, marksAfter s t i = t.onHere f := by
  unfold marksAfter
  dsimp only
  split
  · exact .inl rfl
  · exact .inr ⟨_, rfl⟩

@[simp] theorem hear_edge (s : State) (q : Site) (sc : Scope) : (s.hear q sc).edge = s.edge := by unfold State.hear; dsimp only; split <;> rfl
@[simp] theorem hear_host (s : State) (q : Site) (sc : Scope) : (s.hear q sc).host = s.host := by unfold State.hear; dsimp only; split <;> rfl
@[simp] theorem hear_agenda (s : State) (q : Site) (sc : Scope) : (s.hear q sc).agenda = s.agenda := by
  unfold State.hear; dsimp only; split <;> rfl
@[simp] theorem hear_mesh (s : State) (q : Site) (sc : Scope) : (s.hear q sc).mesh = s.mesh := by unfold State.hear; dsimp only; split <;> rfl

theorem hearAfter_cases (s t : State) (i : Instr) : hearAfter s t i = t ∨ ∃ sc, hearAfter s t i = t.hear s.cur.1 sc := by
  unfold hearAfter
  split
  · exact .inl rfl
  · split
    · exact .inl rfl
    · exact .inr ⟨_, rfl⟩

/-- What else follows from an issue changes the core, and what the cores know of an acquire. -/
theorem afterIssue_cases (s t : State) (i : Instr) :
    ∃ u, (u = t ∨ ∃ f, u = t.onHere f) ∧ (afterIssue s t i = u ∨ ∃ sc, afterIssue s t i = u.hear s.cur.1 sc) := by
  refine ⟨linesAfter s (marksAfter s t i) i, ?_, hearAfter_cases s _ i⟩
  obtain h | ⟨f, h⟩ := marksAfter_cases s t i <;> rw [h]
  · obtain h | ⟨keep, h⟩ := linesAfter_cases s t i
    · exact .inl h
    · exact .inr ⟨_, h⟩
  · obtain h | ⟨keep, h⟩ := linesAfter_cases s (t.onHere f) i
    · exact .inr ⟨_, h⟩
    · exact .inr ⟨_, by rw [h, State.keepAhead, onHere_onHere]⟩

@[simp] theorem afterIssue_edge (s t : State) (i : Instr) : (afterIssue s t i).edge = t.edge := by
  obtain ⟨u, rfl | ⟨_, rfl⟩, h | ⟨_, h⟩⟩ := afterIssue_cases s t i <;> rw [h] <;> simp
@[simp] theorem afterIssue_host (s t : State) (i : Instr) : (afterIssue s t i).host = t.host := by
  obtain ⟨u, rfl | ⟨_, rfl⟩, h | ⟨_, h⟩⟩ := afterIssue_cases s t i <;> rw [h] <;> simp

/-- A line read ahead is noted at its core, or nothing happens. -/
theorem lookTurn_cases (p : Site) (k : CtxNo) (base line : Nat) (s : State) :
    lookTurn p k base line s = s ∨ ∃ f, lookTurn p k base line s = s.onCore p f := by
  unfold lookTurn
  dsimp only
  split
  · exact .inl rfl
  · exact .inr ⟨_, rfl⟩

theorem addLate_onHere (s : State) (f : Core → Core) (ops : List LateOp) (hold : Bool) :
    ∃ g, (s.onHere f).addLate ops hold = s.onHere g := ⟨_, onHere_onHere s f _⟩
theorem undone_onHere (s t : State) (release : Bool) : ∃ g, s.undone t release = t.onHere g := ⟨_, onHere_onHere t _ _⟩

/-- An instruction issued late is a meaning's next state but for its core. -/
theorem issueLate_next {i : Instr} {s t : State} (h : issueLate i s = some t) :
    ∃ j u f, (j = i ∨ j = unreleased i) ∧ exec j s = .next u ∧ t = u.onHere f := by
  unfold issueLate at h
  split at h
  · split at h
    · rename_i u g
      dsimp only at h
      split at h
      · cases h
      · injection h with h
        subst h
        obtain ⟨f, hf⟩ := addLate_onHere u (fun c => { c with locks := c.locks.filter fun l => decide (l.cmd < s.here.nextCmd) })
          [.command s.here.nextCmd (newLocks s u)] false
        exact ⟨i, u, f, .inl rfl, g, hf⟩
    · cases h
  · split at h
    · rename_i u g
      split at h
      · cases h
      · simp only [Option.map_eq_some_iff] at h
        obtain ⟨l, _, h⟩ := h
        subst h
        obtain ⟨f, hf⟩ := undone_onHere s u (l.1.any fun op => op.release.isSome)
        rw [hf]
        obtain ⟨f', hf'⟩ := addLate_onHere u f l.1 l.2
        exact ⟨_, u, f', .inr rfl, g, hf'⟩
    · cases h

theorem issueAhead_next {i : Instr} {s t : State} (h : issueAhead i s = some t) :
    ∃ v u f, (v = s ∨ ∃ g, v = s.onHere g) ∧ exec i v = .next u ∧ t = u.onHere f := by
  unfold issueAhead at h
  dsimp only at h
  split at h
  · split at h
    · rename_i u g
      injection h with h
      exact ⟨_, u, _, .inr ⟨_, rfl⟩, g, h.symm⟩
    · cases h
  · split at h
    all_goals first
      | cases h
      | (split at h
         · rename_i u g
           split at h
           · injection h with h
             exact ⟨s, u, _, .inl rfl, g, h.symm⟩
           · cases h
         · cases h)

end Sys2Proof.Machine
end

