-- ==== Sys2Proof/Laws/PerInstr.lean ====
section
/-!
SUPPORT. The coding of each instruction, constructor by constructor: the words the encoder writes decode to it, and its lit
field calls for the literal words that follow (R76, R80, R83, R87). An event row has no word, and nothing to show.
-/
set_option Elab.async false
set_option linter.unusedSimpArgs false

namespace Sys2Proof.Laws.Coding
open Sys2Proof

/-- A well-formed instruction that has an encoding decodes from its words, and its first word tells how many there are. -/
def Statement (i : Instr) : Prop :=
  i.wf = true → i.encoded = true →
    decodeWords ((encode i)[0]?.getD 0#32) ((encode i)[1]?.getD 0#32) ((encode i)[2]?.getD 0#32) = some i
      ∧ (encode i).length = litWords ((encode i)[0]?.getD 0#32) + 1

theorem add (rd ra : XReg) (b : Src) : Statement (.add rd ra b) := by
  intro h _
  refine ⟨?_, ?_⟩
  · simp [encode, decodeWords, decodeFields, decodeAlu, h]
  · cases b <;> simp [encode, litWords, srcLit, srcWords]

theorem sub (rd ra : XReg) (b : Src) : Statement (.sub rd ra b) := by
  intro h _
  refine ⟨?_, ?_⟩
  · simp [encode, decodeWords, decodeFields, decodeAlu, h]
  · cases b <;> simp [encode, litWords, srcLit, srcWords]

theorem and (rd ra : XReg) (b : Src) : Statement (.and rd ra b) := by
  intro h _
  refine ⟨?_, ?_⟩
  · simp [encode, decodeWords, decodeFields, decodeAlu, h]
  · cases b <;> simp [encode, litWords, srcLit, srcWords]

theorem or (rd ra : XReg) (b : Src) : Statement (.or rd ra b) := by
  intro h _
  refine ⟨?_, ?_⟩
  · simp [encode, decodeWords, decodeFields, decodeAlu, h]
  · cases b <;> simp [encode, litWords, srcLit, srcWords]

theorem xor (rd ra : XReg) (b : Src) : Statement (.xor rd ra b) := by
  intro h _
  refine ⟨?_, ?_⟩
  · simp [encode, decodeWords, decodeFields, decodeAlu, h]
  · cases b <;> simp [encode, litWords, srcLit, srcWords]

theorem andn (rd ra : XReg) (b : Src) : Statement (.andn rd ra b) := by
  intro h _
  refine ⟨?_, ?_⟩
  · simp [encode, decodeWords, decodeFields, decodeAlu, h]
  · cases b <;> simp [encode, litWords, srcLit, srcWords]

theorem shl (rd ra : XReg) (b : Src) : Statement (.shl rd ra b) := by
  intro h _
  refine ⟨?_, ?_⟩
  · simp [encode, decodeWords, decodeFields, decodeAlu, h]
  · cases b <;> simp [encode, litWords, srcLit, srcWords]

theorem shr (rd ra : XReg) (b : Src) : Statement (.shr rd ra b) := by
  intro h _
  refine ⟨?_, ?_⟩
  · simp [encode, decodeWords, decodeFields, decodeAlu, h]
  · cases b <;> simp [encode, litWords, srcLit, srcWords]

theorem sra (rd ra : XReg) (b : Src) : Statement (.sra rd ra b) := by
  intro h _
  refine ⟨?_, ?_⟩
  · simp [encode, decodeWords, decodeFields, decodeAlu, h]
  · cases b <;> simp [encode, litWords, srcLit, srcWords]

theorem rotl (rd ra : XReg) (b : Src) : Statement (.rotl rd ra b) := by
  intro h _
  refine ⟨?_, ?_⟩
  · simp [encode, decodeWords, decodeFields, decodeAlu, h]
  · cases b <;> simp [encode, litWords, srcLit, srcWords]

theorem slt (rd ra : XReg) (b : Src) : Statement (.slt rd ra b) := by
  intro h _
  refine ⟨?_, ?_⟩
  · simp [encode, decodeWords, decodeFields, decodeAlu, h]
  · cases b <;> simp [encode, litWords, srcLit, srcWords]

theorem sltn (rd ra : XReg) (b : Src) : Statement (.sltn rd ra b) := by
  intro h _
  refine ⟨?_, ?_⟩
  · simp [encode, decodeWords, decodeFields, decodeAlu, h]
  · cases b <;> simp [encode, litWords, srcLit, srcWords]

theorem min (rd ra : XReg) (b : Src) : Statement (.min rd ra b) := by
  intro h _
  refine ⟨?_, ?_⟩
  · simp [encode, decodeWords, decodeFields, decodeAlu, h]
  · cases b <;> simp [encode, litWords, srcLit, srcWords]

theorem max (rd ra : XReg) (b : Src) : Statement (.max rd ra b) := by
  intro h _
  refine ⟨?_, ?_⟩
  · simp [encode, decodeWords, decodeFields, decodeAlu, h]
  · cases b <;> simp [encode, litWords, srcLit, srcWords]

theorem minn (rd ra : XReg) (b : Src) : Statement (.minn rd ra b) := by
  intro h _
  refine ⟨?_, ?_⟩
  · simp [encode, decodeWords, decodeFields, decodeAlu, h]
  · cases b <;> simp [encode, litWords, srcLit, srcWords]

theorem maxn (rd ra : XReg) (b : Src) : Statement (.maxn rd ra b) := by
  intro h _
  refine ⟨?_, ?_⟩
  · simp [encode, decodeWords, decodeFields, decodeAlu, h]
  · cases b <;> simp [encode, litWords, srcLit, srcWords]

theorem mul (rd ra : XReg) (b : Src) : Statement (.mul rd ra b) := by
  intro h _
  refine ⟨?_, ?_⟩
  · simp [encode, decodeWords, decodeFields, decodeAlu, h]
  · cases b <;> simp [encode, litWords, srcLit, srcWords]

theorem mulh (rd ra : XReg) (b : Src) : Statement (.mulh rd ra b) := by
  intro h _
  refine ⟨?_, ?_⟩
  · simp [encode, decodeWords, decodeFields, decodeAlu, h]
  · cases b <;> simp [encode, litWords, srcLit, srcWords]

theorem mulhn (rd ra : XReg) (b : Src) : Statement (.mulhn rd ra b) := by
  intro h _
  refine ⟨?_, ?_⟩
  · simp [encode, decodeWords, decodeFields, decodeAlu, h]
  · cases b <;> simp [encode, litWords, srcLit, srcWords]

theorem div (rd ra : XReg) (b : Src) : Statement (.div rd ra b) := by
  intro h _
  refine ⟨?_, ?_⟩
  · simp [encode, decodeWords, decodeFields, decodeAlu, h]
  · cases b <;> simp [encode, litWords, srcLit, srcWords]

theorem divn (rd ra : XReg) (b : Src) : Statement (.divn rd ra b) := by
  intro h _
  refine ⟨?_, ?_⟩
  · simp [encode, decodeWords, decodeFields, decodeAlu, h]
  · cases b <;> simp [encode, litWords, srcLit, srcWords]

theorem rem (rd ra : XReg) (b : Src) : Statement (.rem rd ra b) := by
  intro h _
  refine ⟨?_, ?_⟩
  · simp [encode, decodeWords, decodeFields, decodeAlu, h]
  · cases b <;> simp [encode, litWords, srcLit, srcWords]

theorem remn (rd ra : XReg) (b : Src) : Statement (.remn rd ra b) := by
  intro h _
  refine ⟨?_, ?_⟩
  · simp [encode, decodeWords, decodeFields, decodeAlu, h]
  · cases b <;> simp [encode, litWords, srcLit, srcWords]

theorem clz (rd ra : XReg) : Statement (.clz rd ra) := by
  intro h _
  refine ⟨?_, ?_⟩
  · simp [encode, decodeWords, decodeFields, decodeAlu, h]
  · simp [encode, litWords]

theorem ctz (rd ra : XReg) : Statement (.ctz rd ra) := by
  intro h _
  refine ⟨?_, ?_⟩
  · simp [encode, decodeWords, decodeFields, decodeAlu, h]
  · simp [encode, litWords]

theorem popc (rd ra : XReg) : Statement (.popc rd ra) := by
  intro h _
  refine ⟨?_, ?_⟩
  · simp [encode, decodeWords, decodeFields, decodeAlu, h]
  · simp [encode, litWords]

theorem bext (rd ra : XReg) (b : Src) : Statement (.bext rd ra b) := by
  intro h _
  refine ⟨?_, ?_⟩
  · simp [encode, decodeWords, decodeFields, decodeAlu, h]
  · cases b <;> simp [encode, litWords, srcLit, srcWords]

theorem bins (rd ra : XReg) (b : Src) : Statement (.bins rd ra b) := by
  intro h _
  refine ⟨?_, ?_⟩
  · simp [encode, decodeWords, decodeFields, decodeAlu, h]
  · cases b <;> simp [encode, litWords, srcLit, srcWords]

theorem addi (rd ra : XReg) (imm : BitVec 16) : Statement (.addi rd ra imm) := by
  intro h _
  refine ⟨?_, ?_⟩
  · simp [encode, decodeWords, decodeFields, h]
  · simp [encode, litWords]

theorem andi (rd ra : XReg) (imm : BitVec 16) : Statement (.andi rd ra imm) := by
  intro h _
  refine ⟨?_, ?_⟩
  · simp [encode, decodeWords, decodeFields, h]
  · simp [encode, litWords]

theorem ori (rd ra : XReg) (imm : BitVec 16) : Statement (.ori rd ra imm) := by
  intro h _
  refine ⟨?_, ?_⟩
  · simp [encode, decodeWords, decodeFields, h]
  · simp [encode, litWords]

theorem xori (rd ra : XReg) (imm : BitVec 16) : Statement (.xori rd ra imm) := by
  intro h _
  refine ⟨?_, ?_⟩
  · simp [encode, decodeWords, decodeFields, h]
  · simp [encode, litWords]

theorem slti (rd ra : XReg) (imm : BitVec 16) : Statement (.slti rd ra imm) := by
  intro h _
  refine ⟨?_, ?_⟩
  · simp [encode, decodeWords, decodeFields, h]
  · simp [encode, litWords]

theorem sltni (rd ra : XReg) (imm : BitVec 16) : Statement (.sltni rd ra imm) := by
  intro h _
  refine ⟨?_, ?_⟩
  · simp [encode, decodeWords, decodeFields, h]
  · simp [encode, litWords]

theorem lui (rd : XReg) (imm : BitVec 16) : Statement (.lui rd imm) := by
  intro h _
  refine ⟨?_, ?_⟩
  · simp [encode, decodeWords, decodeFields, h]
  · simp [encode, litWords]

theorem shli (rd ra : XReg) (sh : BitVec 5) : Statement (.shli rd ra sh) := by
  intro h _
  refine ⟨?_, ?_⟩
  · simp [encode, decodeWords, decodeFields, h]
  · simp [encode, litWords]

theorem shri (rd ra : XReg) (sh : BitVec 5) : Statement (.shri rd ra sh) := by
  intro h _
  refine ⟨?_, ?_⟩
  · simp [encode, decodeWords, decodeFields, h]
  · simp [encode, litWords]

theorem srai (rd ra : XReg) (sh : BitVec 5) : Statement (.srai rd ra sh) := by
  intro h _
  refine ⟨?_, ?_⟩
  · simp [encode, decodeWords, decodeFields, h]
  · simp [encode, litWords]

theorem lb (rd ra : XReg) (ord : MemOrd) (scope : Scope) (off : BitVec 11) : Statement (.lb rd ra ord scope off) := by
  intro h _
  refine ⟨?_, ?_⟩
  · simp [encode, decodeWords, decodeFields, h]
  · simp [encode, litWords]

theorem lbn (rd ra : XReg) (ord : MemOrd) (scope : Scope) (off : BitVec 11) : Statement (.lbn rd ra ord scope off) := by
  intro h _
  refine ⟨?_, ?_⟩
  · simp [encode, decodeWords, decodeFields, h]
  · simp [encode, litWords]

theorem lh (rd ra : XReg) (ord : MemOrd) (scope : Scope) (off : BitVec 11) : Statement (.lh rd ra ord scope off) := by
  intro h _
  refine ⟨?_, ?_⟩
  · simp [encode, decodeWords, decodeFields, h]
  · simp [encode, litWords]

theorem lhn (rd ra : XReg) (ord : MemOrd) (scope : Scope) (off : BitVec 11) : Statement (.lhn rd ra ord scope off) := by
  intro h _
  refine ⟨?_, ?_⟩
  · simp [encode, decodeWords, decodeFields, h]
  · simp [encode, litWords]

theorem lw (rd ra : XReg) (ord : MemOrd) (scope : Scope) (off : BitVec 11) : Statement (.lw rd ra ord scope off) := by
  intro h _
  refine ⟨?_, ?_⟩
  · simp [encode, decodeWords, decodeFields, h]
  · simp [encode, litWords]

theorem ld (rd ra : XReg) (ord : MemOrd) (scope : Scope) (off : BitVec 11) : Statement (.ld rd ra ord scope off) := by
  intro h _
  refine ⟨?_, ?_⟩
  · simp [encode, decodeWords, decodeFields, h]
  · simp [encode, litWords]

theorem sb (rs ra : XReg) (ord : MemOrd) (scope : Scope) (off : BitVec 11) : Statement (.sb rs ra ord scope off) := by
  intro h _
  refine ⟨?_, ?_⟩
  · simp [encode, decodeWords, decodeFields, h]
  · simp [encode, litWords]

theorem sh (rs ra : XReg) (ord : MemOrd) (scope : Scope) (off : BitVec 11) : Statement (.sh rs ra ord scope off) := by
  intro h _
  refine ⟨?_, ?_⟩
  · simp [encode, decodeWords, decodeFields, h]
  · simp [encode, litWords]

theorem sw (rs ra : XReg) (ord : MemOrd) (scope : Scope) (off : BitVec 11) : Statement (.sw rs ra ord scope off) := by
  intro h _
  refine ⟨?_, ?_⟩
  · simp [encode, decodeWords, decodeFields, h]
  · simp [encode, litWords]

theorem sd (rs ra : XReg) (ord : MemOrd) (scope : Scope) (off : BitVec 11) : Statement (.sd rs ra ord scope off) := by
  intro h _
  refine ⟨?_, ?_⟩
  · simp [encode, decodeWords, decodeFields, h]
  · simp [encode, litWords]

theorem amoadd (rd ra : XReg) (b : Src) (ord : MemOrd) (scope : Scope) : Statement (.amoadd rd ra b ord scope) := by
  intro h _
  refine ⟨?_, ?_⟩
  · simp [encode, decodeWords, decodeFields, decodeAmo, h]
  · cases b <;> simp [encode, litWords, srcLit, srcWords]

theorem amoand (rd ra : XReg) (b : Src) (ord : MemOrd) (scope : Scope) : Statement (.amoand rd ra b ord scope) := by
  intro h _
  refine ⟨?_, ?_⟩
  · simp [encode, decodeWords, decodeFields, decodeAmo, h]
  · cases b <;> simp [encode, litWords, srcLit, srcWords]

theorem amoor (rd ra : XReg) (b : Src) (ord : MemOrd) (scope : Scope) : Statement (.amoor rd ra b ord scope) := by
  intro h _
  refine ⟨?_, ?_⟩
  · simp [encode, decodeWords, decodeFields, decodeAmo, h]
  · cases b <;> simp [encode, litWords, srcLit, srcWords]

theorem amoxor (rd ra : XReg) (b : Src) (ord : MemOrd) (scope : Scope) : Statement (.amoxor rd ra b ord scope) := by
  intro h _
  refine ⟨?_, ?_⟩
  · simp [encode, decodeWords, decodeFields, decodeAmo, h]
  · cases b <;> simp [encode, litWords, srcLit, srcWords]

theorem amomin (rd ra : XReg) (b : Src) (ord : MemOrd) (scope : Scope) : Statement (.amomin rd ra b ord scope) := by
  intro h _
  refine ⟨?_, ?_⟩
  · simp [encode, decodeWords, decodeFields, decodeAmo, h]
  · cases b <;> simp [encode, litWords, srcLit, srcWords]

theorem amomax (rd ra : XReg) (b : Src) (ord : MemOrd) (scope : Scope) : Statement (.amomax rd ra b ord scope) := by
  intro h _
  refine ⟨?_, ?_⟩
  · simp [encode, decodeWords, decodeFields, decodeAmo, h]
  · cases b <;> simp [encode, litWords, srcLit, srcWords]

theorem amominn (rd ra : XReg) (b : Src) (ord : MemOrd) (scope : Scope) : Statement (.amominn rd ra b ord scope) := by
  intro h _
  refine ⟨?_, ?_⟩
  · simp [encode, decodeWords, decodeFields, decodeAmo, h]
  · cases b <;> simp [encode, litWords, srcLit, srcWords]

theorem amomaxn (rd ra : XReg) (b : Src) (ord : MemOrd) (scope : Scope) : Statement (.amomaxn rd ra b ord scope) := by
  intro h _
  refine ⟨?_, ?_⟩
  · simp [encode, decodeWords, decodeFields, decodeAmo, h]
  · cases b <;> simp [encode, litWords, srcLit, srcWords]

theorem amoswp (rd ra : XReg) (b : Src) (ord : MemOrd) (scope : Scope) : Statement (.amoswp rd ra b ord scope) := by
  intro h _
  refine ⟨?_, ?_⟩
  · simp [encode, decodeWords, decodeFields, decodeAmo, h]
  · cases b <;> simp [encode, litWords, srcLit, srcWords]

theorem amocas (rd ra : XReg) (b : PairSrc) (ord : MemOrd) (scope : Scope) : Statement (.amocas rd ra b ord scope) := by
  intro h _
  refine ⟨?_, ?_⟩
  · simp [encode, decodeWords, decodeFields, decodeAmo, h]
  · cases b <;> simp [encode, litWords, pairLit, pairWords]

theorem beq (ra rb : XReg) (off : BitVec 13) : Statement (.beq ra rb off) := by
  intro h _
  refine ⟨?_, ?_⟩
  · simp [encode, decodeWords, decodeFields, decodeBranch, h]
  · simp [encode, litWords]

theorem bne (ra rb : XReg) (off : BitVec 13) : Statement (.bne ra rb off) := by
  intro h _
  refine ⟨?_, ?_⟩
  · simp [encode, decodeWords, decodeFields, decodeBranch, h]
  · simp [encode, litWords]

theorem blt (ra rb : XReg) (off : BitVec 13) : Statement (.blt ra rb off) := by
  intro h _
  refine ⟨?_, ?_⟩
  · simp [encode, decodeWords, decodeFields, decodeBranch, h]
  · simp [encode, litWords]

theorem bge (ra rb : XReg) (off : BitVec 13) : Statement (.bge ra rb off) := by
  intro h _
  refine ⟨?_, ?_⟩
  · simp [encode, decodeWords, decodeFields, decodeBranch, h]
  · simp [encode, litWords]

theorem bltn (ra rb : XReg) (off : BitVec 13) : Statement (.bltn ra rb off) := by
  intro h _
  refine ⟨?_, ?_⟩
  · simp [encode, decodeWords, decodeFields, decodeBranch, h]
  · simp [encode, litWords]

theorem bgen (ra rb : XReg) (off : BitVec 13) : Statement (.bgen ra rb off) := by
  intro h _
  refine ⟨?_, ?_⟩
  · simp [encode, decodeWords, decodeFields, decodeBranch, h]
  · simp [encode, litWords]

theorem jal (rd : XReg) (off : BitVec 21) : Statement (.jal rd off) := by
  intro h _
  refine ⟨?_, ?_⟩
  · simp [encode, decodeWords, decodeFields, h]
  · simp [encode, litWords]

theorem jalr (rd ra : XReg) (imm : BitVec 16) : Statement (.jalr rd ra imm) := by
  intro h _
  refine ⟨?_, ?_⟩
  · simp [encode, decodeWords, decodeFields, h]
  · simp [encode, litWords]

theorem tdone : Statement .tdone := by
  intro h _
  refine ⟨?_, ?_⟩
  · simp [encode, decodeWords, decodeFields, decodeSys, h]
  · simp [encode, litWords]

theorem tyield : Statement .tyield := by
  intro h _
  refine ⟨?_, ?_⟩
  · simp [encode, decodeWords, decodeFields, decodeSys, h]
  · simp [encode, litWords]

theorem tspawn (rd ra : XReg) : Statement (.tspawn rd ra) := by
  intro h _
  refine ⟨?_, ?_⟩
  · simp [encode, decodeWords, decodeFields, decodeSys, h]
  · simp [encode, litWords]

theorem trap (code : BitVec 12) : Statement (.trap code) := by
  intro h _
  refine ⟨?_, ?_⟩
  · simp [encode, decodeWords, decodeFields, decodeSys, h]
  · simp [encode, litWords]

theorem tret : Statement .tret := by
  intro h _
  refine ⟨?_, ?_⟩
  · simp [encode, decodeWords, decodeFields, decodeSys, h]
  · simp [encode, litWords]

theorem mfs (rd : XReg) (num : BitVec 12) : Statement (.mfs rd num) := by
  intro h _
  refine ⟨?_, ?_⟩
  · simp [encode, decodeWords, decodeFields, decodeSys, h]
  · simp [encode, litWords]

theorem mts (ra : XReg) (num : BitVec 12) : Statement (.mts ra num) := by
  intro h _
  refine ⟨?_, ?_⟩
  · simp [encode, decodeWords, decodeFields, decodeSys, h]
  · simp [encode, litWords]

theorem breakpt (code : BitVec 12) : Statement (.breakpt code) := by
  intro h _
  refine ⟨?_, ?_⟩
  · simp [encode, decodeWords, decodeFields, decodeSys, h]
  · simp [encode, litWords]

theorem vaddF (vd va : VReg) (b : VSrc) : Statement (.vaddF vd va b) := by
  intro h _
  refine ⟨?_, ?_⟩
  · simp [encode, decodeWords, decodeFields, decodeVop, h]
  · cases b <;> simp [encode, litWords, vsrcLit, vsrcWords]

theorem vsubF (vd va : VReg) (b : VSrc) : Statement (.vsubF vd va b) := by
  intro h _
  refine ⟨?_, ?_⟩
  · simp [encode, decodeWords, decodeFields, decodeVop, h]
  · cases b <;> simp [encode, litWords, vsrcLit, vsrcWords]

theorem vmulF (vd va : VReg) (b : VSrc) : Statement (.vmulF vd va b) := by
  intro h _
  refine ⟨?_, ?_⟩
  · simp [encode, decodeWords, decodeFields, decodeVop, h]
  · cases b <;> simp [encode, litWords, vsrcLit, vsrcWords]

theorem vfmaF (vd va : VReg) (b : VSrc) (vc : VReg) : Statement (.vfmaF vd va b vc) := by
  intro h _
  refine ⟨?_, ?_⟩
  · simp [encode, decodeWords, decodeFields, decodeVop, h]
  · cases b <;> simp [encode, litWords, vsrcLit, vsrcWords]

theorem vfmsF (vd va : VReg) (b : VSrc) (vc : VReg) : Statement (.vfmsF vd va b vc) := by
  intro h _
  refine ⟨?_, ?_⟩
  · simp [encode, decodeWords, decodeFields, decodeVop, h]
  · cases b <;> simp [encode, litWords, vsrcLit, vsrcWords]

theorem vminF (vd va : VReg) (b : VSrc) : Statement (.vminF vd va b) := by
  intro h _
  refine ⟨?_, ?_⟩
  · simp [encode, decodeWords, decodeFields, decodeVop, h]
  · cases b <;> simp [encode, litWords, vsrcLit, vsrcWords]

theorem vmaxF (vd va : VReg) (b : VSrc) : Statement (.vmaxF vd va b) := by
  intro h _
  refine ⟨?_, ?_⟩
  · simp [encode, decodeWords, decodeFields, decodeVop, h]
  · cases b <;> simp [encode, litWords, vsrcLit, vsrcWords]

theorem vabsF (vd va : VReg) : Statement (.vabsF vd va) := by
  intro h _
  refine ⟨?_, ?_⟩
  · simp [encode, decodeWords, decodeFields, decodeVop, h]
  · simp [encode, litWords]

theorem vcltF (vd va : VReg) (b : VSrc) : Statement (.vcltF vd va b) := by
  intro h _
  refine ⟨?_, ?_⟩
  · simp [encode, decodeWords, decodeFields, decodeVop, h]
  · cases b <;> simp [encode, litWords, vsrcLit, vsrcWords]

theorem vceqF (vd va : VReg) (b : VSrc) : Statement (.vceqF vd va b) := by
  intro h _
  refine ⟨?_, ?_⟩
  · simp [encode, decodeWords, decodeFields, decodeVop, h]
  · cases b <;> simp [encode, litWords, vsrcLit, vsrcWords]

theorem vcleF (vd va : VReg) (b : VSrc) : Statement (.vcleF vd va b) := by
  intro h _
  refine ⟨?_, ?_⟩
  · simp [encode, decodeWords, decodeFields, decodeVop, h]
  · cases b <;> simp [encode, litWords, vsrcLit, vsrcWords]

theorem vaddI (vd va : VReg) (b : VSrc) : Statement (.vaddI vd va b) := by
  intro h _
  refine ⟨?_, ?_⟩
  · simp [encode, decodeWords, decodeFields, decodeVop, h]
  · cases b <;> simp [encode, litWords, vsrcLit, vsrcWords]

theorem vsubI (vd va : VReg) (b : VSrc) : Statement (.vsubI vd va b) := by
  intro h _
  refine ⟨?_, ?_⟩
  · simp [encode, decodeWords, decodeFields, decodeVop, h]
  · cases b <;> simp [encode, litWords, vsrcLit, vsrcWords]

theorem vmulI (vd va : VReg) (b : VSrc) : Statement (.vmulI vd va b) := by
  intro h _
  refine ⟨?_, ?_⟩
  · simp [encode, decodeWords, decodeFields, decodeVop, h]
  · cases b <;> simp [encode, litWords, vsrcLit, vsrcWords]

theorem vminI (vd va : VReg) (b : VSrc) : Statement (.vminI vd va b) := by
  intro h _
  refine ⟨?_, ?_⟩
  · simp [encode, decodeWords, decodeFields, decodeVop, h]
  · cases b <;> simp [encode, litWords, vsrcLit, vsrcWords]

theorem vmaxI (vd va : VReg) (b : VSrc) : Statement (.vmaxI vd va b) := by
  intro h _
  refine ⟨?_, ?_⟩
  · simp [encode, decodeWords, decodeFields, decodeVop, h]
  · cases b <;> simp [encode, litWords, vsrcLit, vsrcWords]

theorem vand (vd va : VReg) (b : VSrc) : Statement (.vand vd va b) := by
  intro h _
  refine ⟨?_, ?_⟩
  · simp [encode, decodeWords, decodeFields, decodeVop, h]
  · cases b <;> simp [encode, litWords, vsrcLit, vsrcWords]

theorem vor (vd va : VReg) (b : VSrc) : Statement (.vor vd va b) := by
  intro h _
  refine ⟨?_, ?_⟩
  · simp [encode, decodeWords, decodeFields, decodeVop, h]
  · cases b <;> simp [encode, litWords, vsrcLit, vsrcWords]

theorem vxor (vd va : VReg) (b : VSrc) : Statement (.vxor vd va b) := by
  intro h _
  refine ⟨?_, ?_⟩
  · simp [encode, decodeWords, decodeFields, decodeVop, h]
  · cases b <;> simp [encode, litWords, vsrcLit, vsrcWords]

theorem vshl (vd va : VReg) (b : VSrc) : Statement (.vshl vd va b) := by
  intro h _
  refine ⟨?_, ?_⟩
  · simp [encode, decodeWords, decodeFields, decodeVop, h]
  · cases b <;> simp [encode, litWords, vsrcLit, vsrcWords]

theorem vshr (vd va : VReg) (b : VSrc) : Statement (.vshr vd va b) := by
  intro h _
  refine ⟨?_, ?_⟩
  · simp [encode, decodeWords, decodeFields, decodeVop, h]
  · cases b <;> simp [encode, litWords, vsrcLit, vsrcWords]

theorem vsra (vd va : VReg) (b : VSrc) : Statement (.vsra vd va b) := by
  intro h _
  refine ⟨?_, ?_⟩
  · simp [encode, decodeWords, decodeFields, decodeVop, h]
  · cases b <;> simp [encode, litWords, vsrcLit, vsrcWords]

theorem vcltI (vd va : VReg) (b : VSrc) : Statement (.vcltI vd va b) := by
  intro h _
  refine ⟨?_, ?_⟩
  · simp [encode, decodeWords, decodeFields, decodeVop, h]
  · cases b <;> simp [encode, litWords, vsrcLit, vsrcWords]

theorem vceqI (vd va : VReg) (b : VSrc) : Statement (.vceqI vd va b) := by
  intro h _
  refine ⟨?_, ?_⟩
  · simp [encode, decodeWords, decodeFields, decodeVop, h]
  · cases b <;> simp [encode, litWords, vsrcLit, vsrcWords]

theorem vsel (vd va : VReg) (b : VSrc) (vc : VReg) : Statement (.vsel vd va b vc) := by
  intro h _
  refine ⟨?_, ?_⟩
  · simp [encode, decodeWords, decodeFields, decodeVop, h]
  · cases b <;> simp [encode, litWords, vsrcLit, vsrcWords]

theorem vmask (vd va : VReg) (b : VSrc) : Statement (.vmask vd va b) := by
  intro h _
  refine ⟨?_, ?_⟩
  · simp [encode, decodeWords, decodeFields, decodeVop, h]
  · cases b <;> simp [encode, litWords, vsrcLit, vsrcWords]

theorem vshuf (vd va : VReg) (b : VSrc) : Statement (.vshuf vd va b) := by
  intro h _
  refine ⟨?_, ?_⟩
  · simp [encode, decodeWords, decodeFields, decodeVop, h]
  · cases b <;> simp [encode, litWords, vsrcLit, vsrcWords]

theorem vbcast (vd va : VReg) (lane : Fin 16) : Statement (.vbcast vd va lane) := by
  intro h _
  refine ⟨?_, ?_⟩
  · simp [encode, decodeWords, decodeFields, decodeVop, h]
  · simp [encode, litWords]

theorem vext (vd va : VReg) (b : VSrc) (n : Fin 16) : Statement (.vext vd va b n) := by
  intro h _
  refine ⟨?_, ?_⟩
  · simp [encode, decodeWords, decodeFields, decodeVop, h]
  · cases b <;> simp [encode, litWords, vsrcLit, vsrcWords]

theorem vraddF (vd va : VReg) : Statement (.vraddF vd va) := by
  intro h _
  refine ⟨?_, ?_⟩
  · simp [encode, decodeWords, decodeFields, decodeVop, h]
  · simp [encode, litWords]

theorem vrmaxF (vd va : VReg) : Statement (.vrmaxF vd va) := by
  intro h _
  refine ⟨?_, ?_⟩
  · simp [encode, decodeWords, decodeFields, decodeVop, h]
  · simp [encode, litWords]

theorem vraddI (vd va : VReg) : Statement (.vraddI vd va) := by
  intro h _
  refine ⟨?_, ?_⟩
  · simp [encode, decodeWords, decodeFields, decodeVop, h]
  · simp [encode, litWords]

theorem vld (v : VReg) (ra rb : XReg) (ord : MemOrd) (scope : Scope) : Statement (.vld v ra rb ord scope) := by
  intro h _
  have hs : scope ≠ .system := bne_iff_ne.1 ((Bool.and_eq_true_iff.mp (show (_ && scope != .system) = true from h)).2)
  refine ⟨?_, ?_⟩
  · simp [encode, decodeWords, decodeFields, decodeVmem, h, hs]
  · simp [encode, litWords]

theorem vst (v : VReg) (ra rb : XReg) (ord : MemOrd) (scope : Scope) : Statement (.vst v ra rb ord scope) := by
  intro h _
  have hs : scope ≠ .system := bne_iff_ne.1 ((Bool.and_eq_true_iff.mp (show (_ && scope != .system) = true from h)).2)
  refine ⟨?_, ?_⟩
  · simp [encode, decodeWords, decodeFields, decodeVmem, h, hs]
  · simp [encode, litWords]

theorem vldt (v : VReg) (ra rb : XReg) : Statement (.vldt v ra rb) := by
  intro h _
  refine ⟨?_, ?_⟩
  · simp [encode, decodeWords, decodeFields, decodeVmem, h]
  · simp [encode, litWords]

theorem vldq (v : VReg) (q : RingNo) (rb : XReg) : Statement (.vldq v q rb) := by
  intro h _
  refine ⟨?_, ?_⟩
  · simp [encode, decodeWords, decodeFields, decodeVmem, h]
  · simp [encode, litWords]

theorem vstq (v : VReg) (q : RingNo) (rb : XReg) : Statement (.vstq v q rb) := by
  intro h _
  refine ⟨?_, ?_⟩
  · simp [encode, decodeWords, decodeFields, decodeVmem, h]
  · simp [encode, litWords]

theorem vgath (v : VReg) (ra rb : XReg) (ord : MemOrd) (scope : Scope) : Statement (.vgath v ra rb ord scope) := by
  intro h _
  have hs : scope ≠ .system := bne_iff_ne.1 ((Bool.and_eq_true_iff.mp (show (_ && scope != .system) = true from h)).2)
  refine ⟨?_, ?_⟩
  · simp [encode, decodeWords, decodeFields, decodeVmem, h, hs]
  · simp [encode, litWords]

theorem vscat (v : VReg) (ra rb : XReg) (ord : MemOrd) (scope : Scope) : Statement (.vscat v ra rb ord scope) := by
  intro h _
  have hs : scope ≠ .system := bne_iff_ne.1 ((Bool.and_eq_true_iff.mp (show (_ && scope != .system) = true from h)).2)
  refine ⟨?_, ?_⟩
  · simp [encode, decodeWords, decodeFields, decodeVmem, h, hs]
  · simp [encode, litWords]

theorem vlds (v : VReg) (ra rb : XReg) (df : Fin 8) : Statement (.vlds v ra rb df) := by
  intro h _
  refine ⟨?_, ?_⟩
  · simp [encode, decodeWords, decodeFields, decodeVmem, h]
  · simp [encode, litWords]

theorem vcvtfi (vd va : VReg) : Statement (.vcvtfi vd va) := by
  intro h _
  refine ⟨?_, ?_⟩
  · simp [encode, decodeWords, decodeFields, decodeVcvt, h]
  · simp [encode, litWords]

theorem vcvtif (vd va : VReg) : Statement (.vcvtif vd va) := by
  intro h _
  refine ⟨?_, ?_⟩
  · simp [encode, decodeWords, decodeFields, decodeVcvt, h]
  · simp [encode, litWords]

theorem vpkbf (vd va vb : VReg) (churn : Bool) : Statement (.vpkbf vd va vb churn) := by
  intro h _
  refine ⟨?_, ?_⟩
  · simp [encode, decodeWords, decodeFields, decodeVcvt, h]
  · simp [encode, litWords]

theorem vupbf (vd va : VReg) (half : Bool) : Statement (.vupbf vd va half) := by
  intro h _
  refine ⟨?_, ?_⟩
  · simp [encode, decodeWords, decodeFields, decodeVcvt, h]
  · simp [encode, litWords]

theorem vdec8 (vd va vb : VReg) (e : Fin 16) : Statement (.vdec8 vd va vb e) := by
  intro h _
  refine ⟨?_, ?_⟩
  · simp [encode, decodeWords, decodeFields, decodeVcvt, h]
  · simp [encode, litWords]

theorem vdec6 (vd va vb : VReg) (e : Fin 16) : Statement (.vdec6 vd va vb e) := by
  intro h _
  refine ⟨?_, ?_⟩
  · simp [encode, decodeWords, decodeFields, decodeVcvt, h]
  · simp [encode, litWords]

theorem venc8 (vd va : VReg) (held : Bool) (sc : Fin 64) : Statement (.venc8 vd va held sc) := by
  intro h _
  refine ⟨?_, ?_⟩
  · simp [encode, decodeWords, decodeFields, decodeVcvt, h]
  · simp [encode, litWords]

theorem venc6 (vd va : VReg) (held : Bool) (sc : Fin 64) : Statement (.venc6 vd va held sc) := by
  intro h _
  refine ⟨?_, ?_⟩
  · simp [encode, decodeWords, decodeFields, decodeVcvt, h]
  · simp [encode, litWords]

theorem vexp2 (vd va : VReg) : Statement (.vexp2 vd va) := by
  intro h _
  refine ⟨?_, ?_⟩
  · simp [encode, decodeWords, decodeFields, decodeVspc, h]
  · simp [encode, litWords]

theorem vlog2 (vd va : VReg) : Statement (.vlog2 vd va) := by
  intro h _
  refine ⟨?_, ?_⟩
  · simp [encode, decodeWords, decodeFields, decodeVspc, h]
  · simp [encode, litWords]

theorem vrcp (vd va : VReg) : Statement (.vrcp vd va) := by
  intro h _
  refine ⟨?_, ?_⟩
  · simp [encode, decodeWords, decodeFields, decodeVspc, h]
  · simp [encode, litWords]

theorem vrsq (vd va : VReg) : Statement (.vrsq vd va) := by
  intro h _
  refine ⟨?_, ?_⟩
  · simp [encode, decodeWords, decodeFields, decodeVspc, h]
  · simp [encode, litWords]

theorem vtanh (vd va : VReg) : Statement (.vtanh vd va) := by
  intro h _
  refine ⟨?_, ?_⟩
  · simp [encode, decodeWords, decodeFields, decodeVspc, h]
  · simp [encode, litWords]

theorem vsmx (vd va : VReg) : Statement (.vsmx vd va) := by
  intro h _
  refine ⟨?_, ?_⟩
  · simp [encode, decodeWords, decodeFields, decodeVspc, h]
  · simp [encode, litWords]

theorem vsmxap (vd va vb : VReg) : Statement (.vsmxap vd va vb) := by
  intro h _
  refine ⟨?_, ?_⟩
  · simp [encode, decodeWords, decodeFields, decodeVspc, h]
  · simp [encode, litWords]

theorem tshape (rb : XReg) (esel : BitVec 8) : Statement (.tshape rb esel) := by
  intro h _
  refine ⟨?_, ?_⟩
  · simp [encode, decodeWords, decodeFields, decodeTen, h]
  · simp [encode, litWords]

theorem tgeom (rb : XReg) (esel : BitVec 8) : Statement (.tgeom rb esel) := by
  intro h _
  refine ⟨?_, ?_⟩
  · simp [encode, decodeWords, decodeFields, decodeTen, h]
  · simp [encode, litWords]

theorem mma (qa qb : RingNo) (esel : BitVec 8) : Statement (.mma qa qb esel) := by
  intro h _
  refine ⟨?_, ?_⟩
  · simp [encode, decodeWords, decodeFields, decodeTen, h]
  · simp [encode, litWords]

theorem mmaw (qa qb : RingNo) (esel : BitVec 8) : Statement (.mmaw qa qb esel) := by
  intro h _
  refine ⟨?_, ?_⟩
  · simp [encode, decodeWords, decodeFields, decodeTen, h]
  · simp [encode, litWords]

theorem tqnt (esel : BitVec 8) : Statement (.tqnt esel) := by
  intro h _
  refine ⟨?_, ?_⟩
  · simp [encode, decodeWords, decodeFields, decodeTen, h]
  · simp [encode, litWords]

theorem tdqnt (esel : BitVec 8) : Statement (.tdqnt esel) := by
  intro h _
  refine ⟨?_, ?_⟩
  · simp [encode, decodeWords, decodeFields, decodeTen, h]
  · simp [encode, litWords]

theorem tstpair (esel : BitVec 8) : Statement (.tstpair esel) := by
  intro h _
  refine ⟨?_, ?_⟩
  · simp [encode, decodeWords, decodeFields, decodeTen, h]
  · simp [encode, litWords]

theorem tdecay (slot : Fin 4) (esel : BitVec 8) : Statement (.tdecay slot esel) := by
  intro h _
  refine ⟨?_, ?_⟩
  · simp [encode, decodeWords, decodeFields, decodeTen, h]
  · simp [encode, litWords]

theorem tdecaySweep (slot : Fin 4) (esel : BitVec 8) : Statement (.tdecaySweep slot esel) := by
  intro h _
  refine ⟨?_, ?_⟩
  · simp [encode, decodeWords, decodeFields, decodeTen, h]
  · simp [encode, litWords]

theorem tdecayDrop (slot : Fin 4) (esel : BitVec 8) : Statement (.tdecayDrop slot esel) := by
  intro h _
  refine ⟨?_, ?_⟩
  · simp [encode, decodeWords, decodeFields, decodeTen, h]
  · simp [encode, litWords]

theorem tsadd (esel : BitVec 8) : Statement (.tsadd esel) := by
  intro h _
  refine ⟨?_, ?_⟩
  · simp [encode, decodeWords, decodeFields, decodeTen, h]
  · simp [encode, litWords]

theorem tnorm (rb : XReg) (esel : BitVec 8) : Statement (.tnorm rb esel) := by
  intro h _
  refine ⟨?_, ?_⟩
  · simp [encode, decodeWords, decodeFields, decodeTen, h]
  · simp [encode, litWords]

theorem tscl (n : BitVec 5) (rb : XReg) (esel : BitVec 8) : Statement (.tscl n rb esel) := by
  intro h _
  refine ⟨?_, ?_⟩
  · simp [encode, decodeWords, decodeFields, decodeTen, h]
  · simp [encode, litWords]

theorem tfact (rb : XReg) (esel : BitVec 8) : Statement (.tfact rb esel) := by
  intro h _
  refine ⟨?_, ?_⟩
  · simp [encode, decodeWords, decodeFields, decodeTen, h]
  · simp [encode, litWords]

theorem qcfg (q : RingNo) (rp : XReg) : Statement (.qcfg q rp) := by
  intro h _
  refine ⟨?_, ?_⟩
  · simp [encode, decodeWords, decodeFields, decodeRing, h]
  · simp [encode, litWords]

theorem qwaitf (q : RingNo) (n : BitVec 8) (ra : XReg) : Statement (.qwaitf q n ra) := by
  intro h _
  refine ⟨?_, ?_⟩
  · simp [encode, decodeWords, decodeFields, decodeRing, h]
  · simp [encode, litWords]

theorem qwaite (q : RingNo) (n : BitVec 8) (ra : XReg) : Statement (.qwaite q n ra) := by
  intro h _
  refine ⟨?_, ?_⟩
  · simp [encode, decodeWords, decodeFields, decodeRing, h]
  · simp [encode, litWords]

theorem qadvh (q : RingNo) (n : BitVec 8) (ra : XReg) : Statement (.qadvh q n ra) := by
  intro h _
  refine ⟨?_, ?_⟩
  · simp [encode, decodeWords, decodeFields, decodeRing, h]
  · simp [encode, litWords]

theorem qadvt (q : RingNo) (n : BitVec 8) (ra : XReg) : Statement (.qadvt q n ra) := by
  intro h _
  refine ⟨?_, ?_⟩
  · simp [encode, decodeWords, decodeFields, decodeRing, h]
  · simp [encode, litWords]

theorem qstat (q : RingNo) (rd : XReg) : Statement (.qstat q rd) := by
  intro h _
  refine ⟨?_, ?_⟩
  · simp [encode, decodeWords, decodeFields, decodeRing, h]
  · simp [encode, litWords]

theorem qreset (q : RingNo) : Statement (.qreset q) := by
  intro h _
  refine ⟨?_, ?_⟩
  · simp [encode, decodeWords, decodeFields, decodeRing, h]
  · simp [encode, litWords]

theorem msend (rb : XReg) (scope : Scope) (esel : BitVec 8) : Statement (.msend rb scope esel) := by
  intro h _
  refine ⟨?_, ?_⟩
  · simp [encode, decodeWords, decodeFields, decodeMsg, h]
  · simp [encode, litWords]

theorem mput (rb : XReg) (scope : Scope) : Statement (.mput rb scope) := by
  intro h _
  refine ⟨?_, ?_⟩
  · simp [encode, decodeWords, decodeFields, decodeMsg, h]
  · simp [encode, litWords]

theorem mget (rb : XReg) (scope : Scope) : Statement (.mget rb scope) := by
  intro h _
  refine ⟨?_, ?_⟩
  · simp [encode, decodeWords, decodeFields, decodeMsg, h]
  · simp [encode, litWords]

theorem mamo (ra rb : XReg) (scope : Scope) (esel : BitVec 8) : Statement (.mamo ra rb scope esel) := by
  intro h _
  refine ⟨?_, ?_⟩
  · simp [encode, decodeWords, decodeFields, decodeMsg, h]
  · simp [encode, litWords]

theorem mbind (rb : XReg) (esel : BitVec 8) : Statement (.mbind rb esel) := by
  intro h _
  refine ⟨?_, ?_⟩
  · simp [encode, decodeWords, decodeFields, decodeMsg, h]
  · simp [encode, litWords]

theorem mrecv (rd : XReg) (esel : BitVec 8) : Statement (.mrecv rd esel) := by
  intro h _
  refine ⟨?_, ?_⟩
  · simp [encode, decodeWords, decodeFields, decodeMsg, h]
  · simp [encode, litWords]

theorem fscfg (rb : XReg) (esel : BitVec 8) : Statement (.fscfg rb esel) := by
  intro h _
  refine ⟨?_, ?_⟩
  · simp [encode, decodeWords, decodeFields, decodeMsg, h]
  · simp [encode, litWords]

theorem fsum (rb : XReg) (esel : BitVec 8) : Statement (.fsum rb esel) := by
  intro h _
  refine ⟨?_, ?_⟩
  · simp [encode, decodeWords, decodeFields, decodeMsg, h]
  · simp [encode, litWords]

theorem fsraise (rb : XReg) (esel : BitVec 8) : Statement (.fsraise rb esel) := by
  intro h _
  refine ⟨?_, ?_⟩
  · simp [encode, decodeWords, decodeFields, decodeMsg, h]
  · simp [encode, litWords]

theorem fsres (rd rb : XReg) (esel : BitVec 8) : Statement (.fsres rd rb esel) := by
  intro h _
  refine ⟨?_, ?_⟩
  · simp [encode, decodeWords, decodeFields, decodeMsg, h]
  · simp [encode, litWords]

theorem cbcast (rb : XReg) (esel : BitVec 8) : Statement (.cbcast rb esel) := by
  intro h _
  refine ⟨?_, ?_⟩
  · simp [encode, decodeWords, decodeFields, decodeCrm, h]
  · simp [encode, litWords]

theorem cjoin (rb : XReg) (esel : BitVec 8) : Statement (.cjoin rb esel) := by
  intro h _
  refine ⟨?_, ?_⟩
  · simp [encode, decodeWords, decodeFields, decodeCrm, h]
  · simp [encode, litWords]

theorem cskim (vd : VReg) (rd rb : XReg) (tag : Fin 4) : Statement (.cskim vd rd rb tag) := by
  intro h _
  refine ⟨?_, ?_⟩
  · simp [encode, decodeWords, decodeFields, decodeCrm, h]
  · simp [encode, litWords]

theorem ccut (rb : XReg) (esel : BitVec 8) : Statement (.ccut rb esel) := by
  intro h _
  refine ⟨?_, ?_⟩
  · simp [encode, decodeWords, decodeFields, decodeCrm, h]
  · simp [encode, litWords]

theorem cgath (rb : XReg) (esel : BitVec 8) : Statement (.cgath rb esel) := by
  intro h _
  refine ⟨?_, ?_⟩
  · simp [encode, decodeWords, decodeFields, decodeCrm, h]
  · simp [encode, litWords]

theorem cprec (rd rb : XReg) (esel : BitVec 8) : Statement (.cprec rd rb esel) := by
  intro h _
  refine ⟨?_, ?_⟩
  · simp [encode, decodeWords, decodeFields, decodeCrm, h]
  · simp [encode, litWords]

theorem cadd (rb : XReg) (scope : Scope) (esel : BitVec 8) : Statement (.cadd rb scope esel) := by
  intro h _
  refine ⟨?_, ?_⟩
  · simp [encode, decodeWords, decodeFields, decodeSyn, h]
  · simp [encode, litWords]

theorem cwait (ra rb : XReg) (scope : Scope) (esel : BitVec 8) : Statement (.cwait ra rb scope esel) := by
  intro h _
  refine ⟨?_, ?_⟩
  · simp [encode, decodeWords, decodeFields, decodeSyn, h]
  · simp [encode, litWords]

theorem cread (rd : XReg) (esel : BitVec 8) : Statement (.cread rd esel) := by
  intro h _
  refine ⟨?_, ?_⟩
  · simp [encode, decodeWords, decodeFields, decodeSyn, h]
  · simp [encode, litWords]

theorem craise (ra rb : XReg) (scope : Scope) (esel : BitVec 8) : Statement (.craise ra rb scope esel) := by
  intro h _
  refine ⟨?_, ?_⟩
  · simp [encode, decodeWords, decodeFields, decodeSyn, h]
  · simp [encode, litWords]

theorem cbrk (esel : BitVec 8) : Statement (.cbrk esel) := by
  intro h _
  refine ⟨?_, ?_⟩
  · simp [encode, decodeWords, decodeFields, decodeSyn, h]
  · simp [encode, litWords]

theorem ctest (rd rb : XReg) (esel : BitVec 8) : Statement (.ctest rd rb esel) := by
  intro h _
  refine ⟨?_, ?_⟩
  · simp [encode, decodeWords, decodeFields, decodeSyn, h]
  · simp [encode, litWords]

theorem fence (scope : Scope) : Statement (.fence scope) := by
  intro h _
  refine ⟨?_, ?_⟩
  · simp [encode, decodeWords, decodeFields, decodeSyn, h]
  · simp [encode, litWords]

theorem fencee : Statement .fencee := by
  intro h _
  refine ⟨?_, ?_⟩
  · simp [encode, decodeWords, decodeFields, decodeSyn, h]
  · simp [encode, litWords]

theorem barcfg (rb : XReg) (esel : BitVec 8) : Statement (.barcfg rb esel) := by
  intro h _
  refine ⟨?_, ?_⟩
  · simp [encode, decodeWords, decodeFields, decodeSyn, h]
  · simp [encode, litWords]

theorem barrive (scope : Scope) (esel : BitVec 8) : Statement (.barrive scope esel) := by
  intro h _
  refine ⟨?_, ?_⟩
  · simp [encode, decodeWords, decodeFields, decodeSyn, h]
  · simp [encode, litWords]

theorem barwait (rb : XReg) (scope : Scope) (esel : BitVec 8) : Statement (.barwait rb scope esel) := by
  intro h _
  refine ⟨?_, ?_⟩
  · simp [encode, decodeWords, decodeFields, decodeSyn, h]
  · simp [encode, litWords]

theorem bartap (bar : Fin 8) (slot : Fin 8) : Statement (.bartap bar slot) := by
  intro h _
  refine ⟨?_, ?_⟩
  · simp [encode, decodeWords, decodeFields, decodeSyn, h]
  · simp [encode, litWords]

theorem stepadv : Statement .stepadv := by
  intro h _
  refine ⟨?_, ?_⟩
  · simp [encode, decodeWords, decodeFields, decodeSyn, h]
  · simp [encode, litWords]

theorem steprd (rd : XReg) : Statement (.steprd rd) := by
  intro h _
  refine ⟨?_, ?_⟩
  · simp [encode, decodeWords, decodeFields, decodeSyn, h]
  · simp [encode, litWords]

theorem erinit (rb : XReg) (esel : BitVec 8) : Statement (.erinit rb esel) := by
  intro h _
  refine ⟨?_, ?_⟩
  · simp [encode, decodeWords, decodeFields, decodeSyn, h]
  · simp [encode, litWords]

theorem erdone (scope : Scope) : Statement (.erdone scope) := by
  intro h _
  refine ⟨?_, ?_⟩
  · simp [encode, decodeWords, decodeFields, decodeSyn, h]
  · simp [encode, litWords]

theorem erpass : Statement .erpass := by
  intro h _
  refine ⟨?_, ?_⟩
  · simp [encode, decodeWords, decodeFields, decodeSyn, h]
  · simp [encode, litWords]

theorem erhalt : Statement .erhalt := by
  intro h _
  refine ⟨?_, ?_⟩
  · simp [encode, decodeWords, decodeFields, decodeSyn, h]
  · simp [encode, litWords]

theorem erchk (rd : XReg) (esel : BitVec 8) : Statement (.erchk rd esel) := by
  intro h _
  refine ⟨?_, ?_⟩
  · simp [encode, decodeWords, decodeFields, decodeSyn, h]
  · simp [encode, litWords]

theorem erstat (rd : XReg) (esel : BitVec 8) : Statement (.erstat rd esel) := by
  intro h _
  refine ⟨?_, ?_⟩
  · simp [encode, decodeWords, decodeFields, decodeSyn, h]
  · simp [encode, litWords]

theorem sgeom (rb : XReg) (esel : BitVec 8) : Statement (.sgeom rb esel) := by
  intro h _
  refine ⟨?_, ?_⟩
  · simp [encode, decodeWords, decodeFields, decodeStr, h]
  · simp [encode, litWords]

theorem scopy (rb : XReg) (scope : Scope) (esel : BitVec 8) : Statement (.scopy rb scope esel) := by
  intro h _
  refine ⟨?_, ?_⟩
  · simp [encode, decodeWords, decodeFields, decodeStr, h]
  · simp [encode, litWords]

theorem sload (rb : XReg) (scope : Scope) (esel : BitVec 8) : Statement (.sload rb scope esel) := by
  intro h _
  refine ⟨?_, ?_⟩
  · simp [encode, decodeWords, decodeFields, decodeStr, h]
  · simp [encode, litWords]

theorem sstore (rb : XReg) (scope : Scope) (esel : BitVec 8) : Statement (.sstore rb scope esel) := by
  intro h _
  refine ⟨?_, ?_⟩
  · simp [encode, decodeWords, decodeFields, decodeStr, h]
  · simp [encode, litWords]

theorem sfeed (rb : XReg) (esel : BitVec 8) : Statement (.sfeed rb esel) := by
  intro h _
  refine ⟨?_, ?_⟩
  · simp [encode, decodeWords, decodeFields, decodeStr, h]
  · simp [encode, litWords]

theorem sdrain (rb : XReg) (esel : BitVec 8) : Statement (.sdrain rb esel) := by
  intro h _
  refine ⟨?_, ?_⟩
  · simp [encode, decodeWords, decodeFields, decodeStr, h]
  · simp [encode, litWords]

theorem sred (rb : XReg) (scope : Scope) (esel : BitVec 8) : Statement (.sred rb scope esel) := by
  intro h _
  refine ⟨?_, ?_⟩
  · simp [encode, decodeWords, decodeFields, decodeStr, h]
  · simp [encode, litWords]

theorem sxput (rb : XReg) (scope : Scope) (esel : BitVec 8) : Statement (.sxput rb scope esel) := by
  intro h _
  refine ⟨?_, ?_⟩
  · simp [encode, decodeWords, decodeFields, decodeStr, h]
  · simp [encode, litWords]

theorem sbar (esel : BitVec 8) : Statement (.sbar esel) := by
  intro h _
  refine ⟨?_, ?_⟩
  · simp [encode, decodeWords, decodeFields, decodeStr, h]
  · simp [encode, litWords]

theorem scancel (esel : BitVec 8) : Statement (.scancel esel) := by
  intro h _
  refine ⟨?_, ?_⟩
  · simp [encode, decodeWords, decodeFields, decodeStr, h]
  · simp [encode, litWords]

theorem sresume (esel : BitVec 8) : Statement (.sresume esel) := by
  intro h _
  refine ⟨?_, ?_⟩
  · simp [encode, decodeWords, decodeFields, decodeStr, h]
  · simp [encode, litWords]

theorem sstat (rd rb : XReg) (esel : BitVec 8) : Statement (.sstat rd rb esel) := by
  intro h _
  refine ⟨?_, ?_⟩
  · simp [encode, decodeWords, decodeFields, decodeStr, h]
  · simp [encode, litWords]

theorem simg (ra rb : XReg) (esel : BitVec 8) : Statement (.simg ra rb esel) := by
  intro h _
  refine ⟨?_, ?_⟩
  · simp [encode, decodeWords, decodeFields, decodeStr, h]
  · simp [encode, litWords]

theorem mergedContribution (rejected : Bool) : Statement (.mergedContribution rejected) := fun _ h => nomatch h

theorem flitArrives (flit : Flit) : Statement (.flitArrives flit) := fun _ h => nomatch h

theorem acknowledge (seq : BitVec 12) : Statement (.acknowledge seq) := fun _ h => nomatch h

theorem submit (val : DWord) : Statement (.submit val) := fun _ h => nomatch h

theorem queueEnable (port : Fin 2) : Statement (.queueEnable port) := fun _ h => nomatch h

theorem registerWrite (off : Nat) (val : DWord) : Statement (.registerWrite off val) := fun _ h => nomatch h

theorem governor (occupancy : Nat) : Statement (.governor occupancy) := fun _ h => nomatch h

theorem powerSample (watts amps : Nat) : Statement (.powerSample watts amps) := fun _ h => nomatch h

theorem fieldSelfTest (result : SelfTest) : Statement (.fieldSelfTest result) := fun _ h => nomatch h

theorem illegalEncoding (w : Word) : Statement (.illegalEncoding w) := fun _ h => nomatch h

theorem instructionFetchFault (locked : Bool) (addr : Word) : Statement (.instructionFetchFault locked addr) := fun _ h => nomatch h

theorem meshLinkLoss (dir : Dir) : Statement (.meshLinkLoss dir) := fun _ h => nomatch h

theorem asyncFault : Statement .asyncFault := fun _ h => nomatch h

theorem wake : Statement .wake := fun _ h => nomatch h

theorem caddPerformed : Statement .caddPerformed := fun _ h => nomatch h

theorem injection : Statement .injection := fun _ h => nomatch h

theorem requestArrival : Statement .requestArrival := fun _ h => nomatch h

theorem sendServed : Statement .sendServed := fun _ h => nomatch h

theorem putServed : Statement .putServed := fun _ h => nomatch h

theorem getServed : Statement .getServed := fun _ h => nomatch h

theorem amoServed : Statement .amoServed := fun _ h => nomatch h

theorem ackLands : Statement .ackLands := fun _ h => nomatch h

theorem getrLands : Statement .getrLands := fun _ h => nomatch h

theorem amorLands : Statement .amorLands := fun _ h => nomatch h

theorem nackLands : Statement .nackLands := fun _ h => nomatch h

theorem sumLands : Statement .sumLands := fun _ h => nomatch h

theorem renupLands : Statement .renupLands := fun _ h => nomatch h

theorem rendnLands : Statement .rendnLands := fun _ h => nomatch h

theorem sumDoneLands : Statement .sumDoneLands := fun _ h => nomatch h

theorem sumFailLands : Statement .sumFailLands := fun _ h => nomatch h

theorem openLands : Statement .openLands := fun _ h => nomatch h

theorem trainDataBeat : Statement .trainDataBeat := fun _ h => nomatch h

theorem endLands : Statement .endLands := fun _ h => nomatch h

theorem cutLands : Statement .cutLands := fun _ h => nomatch h

theorem trainDone : Statement .trainDone := fun _ h => nomatch h

theorem stepBeat : Statement .stepBeat := fun _ h => nomatch h

theorem arrivalBeat : Statement .arrivalBeat := fun _ h => nomatch h

theorem releaseBeat : Statement .releaseBeat := fun _ h => nomatch h

theorem barrierArrivalSent : Statement .barrierArrivalSent := fun _ h => nomatch h

theorem handshakeLands : Statement .handshakeLands := fun _ h => nomatch h

theorem mismatchBeat : Statement .mismatchBeat := fun _ h => nomatch h

theorem flipLands : Statement .flipLands := fun _ h => nomatch h

theorem haltLands : Statement .haltLands := fun _ h => nomatch h

theorem fire : Statement .fire := fun _ h => nomatch h

theorem waveFrame : Statement .waveFrame := fun _ h => nomatch h

theorem creditLands : Statement .creditLands := fun _ h => nomatch h

theorem creditReset : Statement .creditReset := fun _ h => nomatch h

theorem failFrame : Statement .failFrame := fun _ h => nomatch h

theorem tensorStart : Statement .tensorStart := fun _ h => nomatch h

theorem mmaRow : Statement .mmaRow := fun _ h => nomatch h

theorem tensorComplete : Statement .tensorComplete := fun _ h => nomatch h

theorem decaySweep : Statement .decaySweep := fun _ h => nomatch h

theorem streamActivate : Statement .streamActivate := fun _ h => nomatch h

theorem granule : Statement .granule := fun _ h => nomatch h

theorem streamEnd : Statement .streamEnd := fun _ h => nomatch h

theorem homePortAccess : Statement .homePortAccess := fun _ h => nomatch h

theorem windowContribution : Statement .windowContribution := fun _ h => nomatch h

theorem holdTimeExpiry : Statement .holdTimeExpiry := fun _ h => nomatch h

theorem lossOfLock : Statement .lossOfLock := fun _ h => nomatch h

theorem retrainComplete : Statement .retrainComplete := fun _ h => nomatch h

theorem retrainTimeout : Statement .retrainTimeout := fun _ h => nomatch h

theorem queueDisable : Statement .queueDisable := fun _ h => nomatch h

theorem launchRecord : Statement .launchRecord := fun _ h => nomatch h

theorem launchPlacement : Statement .launchPlacement := fun _ h => nomatch h

theorem launchStart : Statement .launchStart := fun _ h => nomatch h

theorem launchComplete : Statement .launchComplete := fun _ h => nomatch h

theorem preempt : Statement .preempt := fun _ h => nomatch h

theorem drainDone : Statement .drainDone := fun _ h => nomatch h

theorem resume : Statement .resume := fun _ h => nomatch h

theorem pageEviction : Statement .pageEviction := fun _ h => nomatch h

theorem pageRestore : Statement .pageRestore := fun _ h => nomatch h

theorem configurePartitions : Statement .configurePartitions := fun _ h => nomatch h

theorem invalidateTranslations : Statement .invalidateTranslations := fun _ h => nomatch h

theorem writeReductionWindow : Statement .writeReductionWindow := fun _ h => nomatch h

theorem cancelLaunch : Statement .cancelLaunch := fun _ h => nomatch h

theorem retireAsid : Statement .retireAsid := fun _ h => nomatch h

theorem attest : Statement .attest := fun _ h => nomatch h

theorem extend : Statement .extend := fun _ h => nomatch h

theorem progressWatchdog : Statement .progressWatchdog := fun _ h => nomatch h

theorem coolantFault : Statement .coolantFault := fun _ h => nomatch h

theorem fieldLoss : Statement .fieldLoss := fun _ h => nomatch h

theorem powerOnReset : Statement .powerOnReset := fun _ h => nomatch h

theorem go : Statement .go := fun _ h => nomatch h

theorem vectorEnginePerform : Statement .vectorEnginePerform := fun _ h => nomatch h

theorem flitReplay : Statement .flitReplay := fun _ h => nomatch h

end Sys2Proof.Laws.Coding
end

