-- ==== Sys2Proof/Tests/Slice0.lean ====
section
/-!
SUPPORT. Tests: ill-formed terms the checks refuse, a word of every instruction decoded, and for every statement of
Sys2Proof/Certificates/Slice0/Obligations.lean states and operands that meet its hypotheses.
-/
set_option Elab.async false
set_option maxRecDepth 100000

namespace Sys2Proof.Tests
open Sys2Proof Sys2Proof.Machine Sys2Proof.Claim

/-! ## Ill-formed terms -/

/-- A term that fails each check of WellFormed.lean on scalar instructions is refused. -/
theorem test_ill_formed_scalar : ∀ i ∈ ([
    .ld 3 2 .plain .task 0, .sd 5 2 .plain .task 0, .lb 3 2 .rl .core 0, .lbn 3 2 .ar .core 0, .lh 3 2 .plain .core 0,
    .lhn 3 2 .rl .task 0, .lw 3 2 .ar .task 0, .sb 3 2 .aq .core 0, .sh 3 2 .ar .core 0, .sw 3 2 .plain .die 0,
    .amoadd 3 2 (.reg 4) .plain .core, .amocas 3 2 (.pair 5) .plain .task, .mfs 3 0x030, .mts 3 0x7FF, .mfs 3 0x204] :
      List Instr), i.wf = false := by decide

/-- The same on vector and tensor instructions and rings. -/
theorem test_ill_formed_engines : ∀ i ∈ ([
    .vld 3 2 4 .rl .core, .vld 3 2 4 .aq .system, .vst 3 2 4 .aq .core, .vst 3 2 4 .rl .system, .vldt 14 2 3,
    .vgath 3 2 4 .rl .core, .vscat 15 2 3 .plain .task, .vdec8 0 13 1 0, .vdec6 0 14 1 0, .vsmx 3 1, .vsmxap 0 1 3,
    .tshape 2 1, .tshape 2 10, .tgeom 5 0, .tgeom 4 8, .mma 3 3 0x80, .mmaw 3 4 63, .tqnt 64, .tdqnt 0x81, .tstpair 63,
    .tdecay 0 63, .tdecaySweep 0 63, .tdecayDrop 0 63, .tsadd 63, .tnorm 2 63, .tscl 31 2 33, .tscl 0 2 64, .qcfg 3 5,
    .qwaitf 3 1 2, .qwaite 3 1 2, .qadvh 3 1 2, .qadvt 3 1 2] : List Instr), i.wf = false := by decide

/-- The same on messages, collectives, synchronisation and streams. -/
theorem test_ill_formed_network : ∀ i ∈ ([
    .msend 2 .core 64, .mamo 3 2 .core 10, .mamo 3 2 .core 9, .mbind 5 0, .mbind 4 64, .mrecv 3 8, .fscfg 2 4, .fsum 2 4,
    .fsraise 2 4, .fsres 3 2 4, .cbcast 2 4, .cjoin 2 4, .ccut 2 4, .cgath 2 4, .cprec 3 2 4, .cadd 2 .core 63,
    .cwait 2 3 .core 64, .cread 3 0, .cread 4 64, .craise 2 3 .core 63, .cbrk 63, .ctest 3 2 64, .barcfg 2 8, .barcfg 3 0,
    .barrive .core 8, .barwait 2 .core 8, .erinit 3 0, .erinit 2 32, .erchk 3 32, .erstat 3 32, .sgeom 3 0, .sgeom 2 9,
    .scopy 2 .core 8, .sload 2 .core 8, .sstore 2 .core 8, .sfeed 2 8, .sdrain 2 8, .sred 2 .core 8, .sxput 2 .core 8,
    .scancel 8, .sresume 8, .sstat 3 2 8, .simg 2 3 8] : List Instr), i.wf = false := by decide

/-! ## Words of every encoded instruction, from the fields of spec/opcode_table.json -/

/-- Words of alu, from the fields of spec/opcode_table.json. -/
theorem test_decode_alu : ∀ e ∈ ([
    (0x0531B000, .add 9 17 (.reg 22)),
    (0x0531B001, .sub 9 17 (.reg 22)),
    (0x0531B002, .and 9 17 (.reg 22)),
    (0x0531B003, .or 9 17 (.reg 22)),
    (0x0531B004, .xor 9 17 (.reg 22)),
    (0x0531B005, .andn 9 17 (.reg 22)),
    (0x0531B006, .shl 9 17 (.reg 22)),
    (0x0531B007, .shr 9 17 (.reg 22)),
    (0x0531B008, .sra 9 17 (.reg 22)),
    (0x0531B009, .rotl 9 17 (.reg 22)),
    (0x0531B00A, .slt 9 17 (.reg 22)),
    (0x0531B00B, .sltn 9 17 (.reg 22)),
    (0x0531B00C, .min 9 17 (.reg 22)),
    (0x0531B00D, .max 9 17 (.reg 22)),
    (0x0531B00E, .minn 9 17 (.reg 22)),
    (0x0531B00F, .maxn 9 17 (.reg 22)),
    (0x0531B010, .mul 9 17 (.reg 22)),
    (0x0531B011, .mulh 9 17 (.reg 22)),
    (0x0531B012, .mulhn 9 17 (.reg 22)),
    (0x0531B013, .div 9 17 (.reg 22)),
    (0x0531B014, .divn 9 17 (.reg 22)),
    (0x0531B015, .rem 9 17 (.reg 22)),
    (0x0531B016, .remn 9 17 (.reg 22)),
    (0x05310017, .clz 9 17),
    (0x05310018, .ctz 9 17),
    (0x05310019, .popc 9 17),
    (0x0531B01A, .bext 9 17 (.reg 22)),
    (0x0531B01B, .bins 9 17 (.reg 22))] : List (Word × Instr)), decodeWords e.1 0 0 = some e.2 := by decide

/-- Words of immediates, from the fields of spec/opcode_table.json. -/
theorem test_decode_immediates : ∀ e ∈ ([
    (0x0BC58ABC, .addi 30 5 35516),
    (0x0FC58ABC, .andi 30 5 35516),
    (0x13C58ABC, .ori 30 5 35516),
    (0x17C58ABC, .xori 30 5 35516),
    (0x1BC58ABC, .slti 30 5 35516),
    (0x1FC58ABC, .sltni 30 5 35516),
    (0x23C08ABC, .lui 30 35516),
    (0x27C50013, .shli 30 5 19),
    (0x2BC50013, .shri 30 5 19),
    (0x2FC50013, .srai 30 5 19)] : List (Word × Instr)), decodeWords e.1 0 0 = some e.2 := by decide

/-- Words of loads stores, from the fields of spec/opcode_table.json. -/
theorem test_decode_loads_stores : ∀ e ∈ ([
    (0x41555DA3, .lb 10 21 .aq .device 1443),
    (0x45555DA3, .lbn 10 21 .aq .device 1443),
    (0x49555DA3, .lh 10 21 .aq .device 1443),
    (0x4D555DA3, .lhn 10 21 .aq .device 1443),
    (0x51555DA3, .lw 10 21 .aq .device 1443),
    (0x55555DA3, .ld 10 21 .aq .device 1443),
    (0x615595A3, .sb 10 21 .rl .die 1443),
    (0x655595A3, .sh 10 21 .rl .die 1443),
    (0x695595A3, .sw 10 21 .rl .die 1443),
    (0x6D5595A3, .sd 10 21 .rl .die 1443)] : List (Word × Instr)), decodeWords e.1 0 0 = some e.2 := by decide

/-- Words of atomics, from the fields of spec/opcode_table.json. -/
theorem test_decode_atomics : ∀ e ∈ ([
    (0x7174681C, .amoadd 11 20 (.reg 13) .ar .system),
    (0x7174683C, .amoand 11 20 (.reg 13) .ar .system),
    (0x7174685C, .amoor 11 20 (.reg 13) .ar .system),
    (0x7174687C, .amoxor 11 20 (.reg 13) .ar .system),
    (0x7174689C, .amomin 11 20 (.reg 13) .ar .system),
    (0x717468BC, .amomax 11 20 (.reg 13) .ar .system),
    (0x717468DC, .amominn 11 20 (.reg 13) .ar .system),
    (0x717468FC, .amomaxn 11 20 (.reg 13) .ar .system),
    (0x7174691C, .amoswp 11 20 (.reg 13) .ar .system),
    (0x7174713C, .amocas 11 20 (.pair 14) .ar .system)] : List (Word × Instr)), decodeWords e.1 0 0 = some e.2 := by decide

/-- Words of control, from the fields of spec/opcode_table.json. -/
theorem test_decode_control : ∀ e ∈ ([
    (0x82471234, .beq 18 7 4660),
    (0x82473234, .bne 18 7 4660),
    (0x82475234, .blt 18 7 4660),
    (0x82477234, .bge 18 7 4660),
    (0x82479234, .bltn 18 7 4660),
    (0x8247B234, .bgen 18 7 4660),
    (0x87F5A5A5, .jal 31 1418661),
    (0x8BC58ABC, .jalr 30 5 35516),
    (0x90000000, .tdone),
    (0x90001000, .tyield),
    (0x919B2000, .tspawn 12 27),
    (0x90003ABC, .trap 2748),
    (0x90004000, .tret),
    (0x9180525A, .mfs 12 602),
    (0x900C625A, .mts 12 602),
    (0x90007ABC, .breakpt 2748)] : List (Word × Instr)), decodeWords e.1 0 0 = some e.2 := by decide

/-- Words of vector, from the fields of spec/opcode_table.json. -/
theorem test_decode_vector : ∀ e ∈ ([
    (0xA0F18000, .vaddF 3 12 (.reg 6)),
    (0xA0F18001, .vsubF 3 12 (.reg 6)),
    (0xA0F18002, .vmulF 3 12 (.reg 6)),
    (0xA0F1A403, .vfmaF 3 12 (.reg 6) 9),
    (0xA0F1A404, .vfmsF 3 12 (.reg 6) 9),
    (0xA0F18005, .vminF 3 12 (.reg 6)),
    (0xA0F18006, .vmaxF 3 12 (.reg 6)),
    (0xA1300007, .vabsF 4 12),
    (0xA0F18008, .vcltF 3 12 (.reg 6)),
    (0xA0F18009, .vceqF 3 12 (.reg 6)),
    (0xA0F1800A, .vcleF 3 12 (.reg 6)),
    (0xA0F1800B, .vaddI 3 12 (.reg 6)),
    (0xA0F1800C, .vsubI 3 12 (.reg 6)),
    (0xA0F1800D, .vmulI 3 12 (.reg 6)),
    (0xA0F1800E, .vminI 3 12 (.reg 6)),
    (0xA0F1800F, .vmaxI 3 12 (.reg 6)),
    (0xA0F18010, .vand 3 12 (.reg 6)),
    (0xA0F18011, .vor 3 12 (.reg 6)),
    (0xA0F18012, .vxor 3 12 (.reg 6)),
    (0xA0F18013, .vshl 3 12 (.reg 6)),
    (0xA0F18014, .vshr 3 12 (.reg 6)),
    (0xA0F18015, .vsra 3 12 (.reg 6)),
    (0xA0F18016, .vcltI 3 12 (.reg 6)),
    (0xA0F18017, .vceqI 3 12 (.reg 6)),
    (0xA0F1A418, .vsel 3 12 (.reg 6) 9),
    (0xA0F18019, .vmask 3 12 (.reg 6)),
    (0xA0F1801A, .vshuf 3 12 (.reg 6)),
    (0xA0F0281B, .vbcast 3 12 10),
    (0xA0F1A81C, .vext 3 12 (.reg 6) 10),
    (0xA130001D, .vraddF 4 12),
    (0xA130001E, .vrmaxF 4 12),
    (0xA130001F, .vraddI 4 12)] : List (Word × Instr)), decodeWords e.1 0 0 = some e.2 := by decide

/-- Words of vector memory, from the fields of spec/opcode_table.json. -/
theorem test_decode_vector_memory : ∀ e ∈ ([
    (0xA5A7C600, .vld 6 19 28 .aq .die),
    (0xA5A7CA01, .vst 6 19 28 .rl .die),
    (0xA727C002, .vldt 12 19 28),
    (0xA557C003, .vldq 5 11 28),
    (0xA557C004, .vstq 5 11 28),
    (0xA5A7C605, .vgath 6 19 28 .aq .die),
    (0xA5A7CA06, .vscat 6 19 28 .rl .die),
    (0xA567C607, .vlds 5 19 28 6)] : List (Word × Instr)), decodeWords e.1 0 0 = some e.2 := by decide

/-- Words of conversions, from the fields of spec/opcode_table.json. -/
theorem test_decode_conversions : ∀ e ∈ ([
    (0xA9300000, .vcvtfi 4 12),
    (0xA9300001, .vcvtif 4 12),
    (0xA8F18402, .vpkbf 3 12 6 true),
    (0xA8F00403, .vupbf 3 12 true),
    (0xA8F1B404, .vdec8 3 12 6 13),
    (0xA8F1B405, .vdec6 3 12 6 13),
    (0xA8F1B406, .venc8 3 12 true 45),
    (0xA8F1B407, .venc6 3 12 true 45),
    (0xAD300000, .vexp2 4 12),
    (0xAD300001, .vlog2 4 12),
    (0xAD300002, .vrcp 4 12),
    (0xAD300003, .vrsq 4 12),
    (0xAD300004, .vtanh 4 12),
    (0xAD300005, .vsmx 4 12),
    (0xACF18006, .vsmxap 3 12 6)] : List (Word × Instr)), decodeWords e.1 0 0 = some e.2 := by decide

/-- Words of tensor, from the fields of spec/opcode_table.json. -/
theorem test_decode_tensor : ∀ e ∈ ([
    (0xC0120005, .tshape 18 5),
    (0xC0140103, .tgeom 20 3),
    (0xC1A60280, .mma 13 6 128),
    (0xC1A60380, .mmaw 13 6 128),
    (0xC0000400, .tqnt 0),
    (0xC0000503, .tdqnt 3),
    (0xC0000602, .tstpair 2),
    (0xC000073D, .tdecay 0 61),
    (0xC140073D, .tdecaySweep 2 61),
    (0xC240073D, .tdecayDrop 2 61),
    (0xC0000802, .tsadd 2),
    (0xC0120901, .tnorm 18 1),
    (0xC2B20A07, .tscl 21 18 7),
    (0xC0120B91, .tfact 18 145)] : List (Word × Instr)), decodeWords e.1 0 0 = some e.2 := by decide

/-- Words of rings, from the fields of spec/opcode_table.json. -/
theorem test_decode_rings : ∀ e ∈ ([
    (0xC7802C00, .qcfg 14 22),
    (0xC7A94001, .qwaitf 14 165 0),
    (0xC7A94002, .qwaite 14 165 0),
    (0xC7A94003, .qadvh 14 165 0),
    (0xC7A94004, .qadvt 14 165 0),
    (0xC7802E05, .qstat 14 23),
    (0xC7800006, .qreset 14)] : List (Word × Instr)), decodeWords e.1 0 0 = some e.2 := by decide

/-- Words of messages, from the fields of spec/opcode_table.json. -/
theorem test_decode_messages : ∀ e ∈ ([
    (0xD0126003, .msend 18 .device 3),
    (0xD0126100, .mput 18 .device),
    (0xD0126200, .mget 18 .device),
    (0xD1526300, .mamo 10 18 .device 0),
    (0xD0140403, .mbind 20 3),
    (0xD1400502, .mrecv 10 2),
    (0xD0120601, .fscfg 18 1),
    (0xD0120700, .fsum 18 0),
    (0xD0120803, .fsraise 18 3),
    (0xD1520902, .fsres 10 18 2)] : List (Word × Instr)), decodeWords e.1 0 0 = some e.2 := by decide

/-- Words of cream, from the fields of spec/opcode_table.json. -/
theorem test_decode_cream : ∀ e ∈ ([
    (0xD4120001, .cbcast 18 1),
    (0xD4120100, .cjoin 18 0),
    (0xD5520227, .cskim 7 10 18 2),
    (0xD4120302, .ccut 18 2),
    (0xD4120401, .cgath 18 1),
    (0xD5520500, .cprec 10 18 0)] : List (Word × Instr)), decodeWords e.1 0 0 = some e.2 := by decide

/-- Words of sync, from the fields of spec/opcode_table.json. -/
theorem test_decode_sync : ∀ e ∈ ([
    (0xE0126003, .cadd 18 .device 3),
    (0xE1526102, .cwait 10 18 .device 2),
    (0xE1400201, .cread 10 1),
    (0xE1526300, .craise 10 18 .device 0),
    (0xE0000403, .cbrk 3),
    (0xE1520502, .ctest 10 18 2),
    (0xE0006600, .fence .device),
    (0xE0000700, .fencee),
    (0xE0140803, .barcfg 20 3),
    (0xE0006902, .barrive .device 2),
    (0xE0126A01, .barwait 18 .device 1),
    (0xE0000B35, .bartap 5 6),
    (0xE0000C00, .stepadv),
    (0xE1400D00, .steprd 10),
    (0xE0140E01, .erinit 20 1),
    (0xE0006F00, .erdone .device),
    (0xE0001000, .erpass),
    (0xE0001100, .erhalt),
    (0xE1401201, .erchk 10 1),
    (0xE1401300, .erstat 10 0)] : List (Word × Instr)), decodeWords e.1 0 0 = some e.2 := by decide

/-- Words of streams, from the fields of spec/opcode_table.json. -/
theorem test_decode_streams : ∀ e ∈ ([
    (0xF0120003, .sgeom 18 3),
    (0xF0126102, .scopy 18 .device 2),
    (0xF0126201, .sload 18 .device 1),
    (0xF0126300, .sstore 18 .device 0),
    (0xF0120403, .sfeed 18 3),
    (0xF0120502, .sdrain 18 2),
    (0xF0126601, .sred 18 .device 1),
    (0xF0126700, .sxput 18 .device 0),
    (0xF0000803, .sbar 3),
    (0xF0000902, .scancel 2),
    (0xF0000A01, .sresume 1),
    (0xF1520B00, .sstat 10 18 0),
    (0xF1520C03, .simg 10 18 3)] : List (Word × Instr)), decodeWords e.1 0 0 = some e.2 := by decide

/-- The four banks of the table of R122. -/
theorem test_banks : bankOf 0x2D9 0x12340 = 3 ∧ bankOf 0 0x12340 = 4 ∧ bankOf 0x2D9 0x12380 = 15 ∧ bankOf 0 0x12380 = 8 := by decide

/-! ## States -/

/-- Context 0 of core (0, 0), ready, with TVEC enabled. -/
def ctx0 : Ctx := { Ctx.blank with status := .ready, tvec := 0x101, pc := 0x40 }

/-- Core (0, 0) under a launch whose role declares every object (log entry 3), with a context 0 of its own. -/
def core0 (x : Ctx) : Core := { Core.blank with live := true, role := placedRole, ctxs := Core.blank.ctxs.set 0 x }

/-- The module with that one core, changed. -/
def world (f : Ctx → Ctx) (g : Core → Core := id) : State := { State.reset with cores := [(0, g (core0 (f ctx0)))] }

/-- Registers x5 on, written one by one. -/
def regs (l : List (XReg × Word)) (x : Ctx) : Ctx := l.foldl (fun x e => x.wx e.1 e.2) x

/-- What Clear says, as a value. -/
def clear (i : Instr) (s : State) : Bool :=
  s.issuing && (rangeFault s.here.role i).isNone && (privFault i).isNone
    && ((readCodes i).all fun r => !s.me.badRegs.contains r && !s.me.softRegs.contains r) && !queueFull s.here i

theorem clear_of {i : Instr} {s : State} (h : clear i s = true) : Clear i s := by
  simp only [clear, Bool.and_eq_true, List.all_eq_true, Option.isNone_iff_eq_none, Bool.not_eq_true'] at h
  refine ⟨h.1.1.1.1, h.1.1.1.2, h.1.1.2, fun r hr => ?_, h.2⟩
  simpa using h.1.2 r hr

theorem all_clear {l : List Instr} {s : State} (h : l.all (clear · s) = true) : ∀ i ∈ l, Clear i s :=
  fun i hi => clear_of (List.all_eq_true.mp h i hi)

/-! ## Hypotheses met: scalar instructions -/

/-- A state for the scalar statements: x5 to x9 hold 1, all ones, the most negative number, 0 and 5. -/
def scalars : State := world (regs [(5, 1), (6, 0xFFFFFFFF), (7, 0x80000000), (9, 5)])

/-- The ALU rows with given operands. -/
def aluRows (rd ra : XReg) (b : Src) : List Instr :=
  [.add rd ra b, .sub rd ra b, .and rd ra b, .or rd ra b, .xor rd ra b, .andn rd ra b, .shl rd ra b, .shr rd ra b,
    .sra rd ra b, .rotl rd ra b, .slt rd ra b, .sltn rd ra b, .min rd ra b, .max rd ra b, .minn rd ra b, .maxn rd ra b,
    .mul rd ra b, .mulh rd ra b, .mulhn rd ra b, .clz rd ra, .ctz rd ra, .popc rd ra, .bext rd ra b, .bins rd ra b]

theorem witness_AluResults :
    (∀ i ∈ aluRows 31 5 (.reg 6) ++ aluRows 0 0 (.lit 0xFFFFFFFF), Clear i scalars)
    ∧ (2 ^ (31 - 31) ≤ (scalars.me.rx 5).toNat ∧ (scalars.me.rx 5).toNat < 2 ^ (32 - 31))
    ∧ (2 ^ (31 - 0) ≤ (scalars.me.rx 6).toNat ∧ (scalars.me.rx 6).toNat < 2 ^ (32 - 0)) ∧ scalars.me.rx 8 = 0
    ∧ ((scalars.me.rx 7).getLsbD 31 = true ∧ ∀ j < 31, (scalars.me.rx 7).getLsbD j = false)
    ∧ (scalars.me.rx 6).getLsbD 0 = true := by
  refine ⟨all_clear (by decide), ?_, ?_, ?_, ?_, ?_⟩ <;> decide

theorem witness_DivisionResults :
    (∀ i ∈ [Instr.div 4 7 (.reg 6), .rem 4 7 (.reg 6), .divn 4 7 (.lit 3), .remn 4 7 (.lit 3), .div 4 7 (.lit 0),
      .rem 4 7 (.reg 8), .divn 4 7 (.reg 0), .remn 4 7 (.lit 0)], Clear i scalars)
    ∧ (scalars.me.src (.reg 6) ≠ 0 ∧ (scalars.me.rx 7).toInt = -2 ^ 31 ∧ (scalars.me.src (.reg 6)).toInt = -1)
    ∧ scalars.me.src (.lit 3) ≠ 0 ∧ scalars.me.src (.reg 8) = 0 ∧ scalars.me.src (.lit 0) = 0 := by
  refine ⟨all_clear (by decide), ?_, ?_, ?_, ?_⟩ <;> decide

theorem witness_BitFieldResults : ∀ i ∈ [Instr.bext 4 7 (.lit 0x3FF), .bins 4 7 (.reg 0), .bins 0 7 (.lit 31)],
    Clear i scalars := all_clear (by decide)

theorem witness_ImmediateResults : ∀ i ∈ [Instr.addi 4 6 0x8000, .andi 4 6 0xFFFF, .ori 4 6 0xFFFF, .xori 4 6 0xFFFF,
    .slti 4 7 0x8000, .sltni 4 6 0xFFFF, .lui 0 0xFFFF, .shli 4 5 31, .shri 4 7 31, .srai 4 7 31], Clear i scalars :=
  all_clear (by decide)

/-- x10 points at the last bytes of the data region, x11 at its first word plus the longest reach down of a byte load. -/
def memory : State := world (regs [(10, 0x1FFF8), (11, 0x2400), (12, 0x2000), (14, 7)]) fun c =>
  { c with scratch := { c.scratch with mem := [(0x2000, 7), (0x1FFF8, 0xFF), (0x1FFFF, 0x80)] } }

theorem witness_LoadResults :
    (∀ i ∈ [Instr.lb 4 10 .plain .task 7, .lbn 4 11 .aq .core 0x400, .lh 4 10 .plain .task 3, .lhn 4 12 .aq .system 0,
      .lw 0 10 .plain .task 1, .ld 4 10 .plain .task 0, .ld 0 12 .aq .device 0], Clear i memory)
    ∧ Reaches memory .load (eaOf memory 10 7 1) 1 ∧ Reaches memory .load (eaOf memory 11 0x400 1) 1
    ∧ Reaches memory .load (eaOf memory 10 3 2) 2 ∧ Reaches memory .load (eaOf memory 12 0 2) 2
    ∧ Reaches memory .load (eaOf memory 10 1 4) 4 ∧ Reaches memory .load (eaOf memory 10 0 8) 8
    ∧ Reaches memory .load (eaOf memory 12 0 8) 8 ∧ acquireStalls memory .aq = false ∧ acquireStalls memory .plain = false := by
  refine ⟨all_clear (by decide), ?_, ?_, ?_, ?_, ?_, ?_, ?_, by decide, by decide⟩ <;> exact ⟨by decide, by decide⟩

theorem witness_StoreResults :
    (∀ i ∈ [Instr.sb 4 10 .plain .task 7, .sh 4 12 .rl .core 0, .sw 0 10 .plain .task 1, .sd 4 10 .rl .system 0],
      Clear i memory)
    ∧ (Reaches memory .store (eaOf memory 10 7 1) 1 ∧ Reaches memory .store (eaOf memory 12 0 2) 2
      ∧ Reaches memory .store (eaOf memory 10 1 4) 4 ∧ Reaches memory .store (eaOf memory 10 0 8) 8)
    ∧ ∀ sc : Scope, releaseStalls memory .plain sc = false ∧ releaseStalls memory .rl sc = false := by
  refine ⟨all_clear (by decide), ⟨?_, ?_, ?_, ?_⟩, fun sc => ?_⟩ <;> first | exact ⟨by decide, by decide⟩ | (cases sc <;> decide)

/-- A core with a write lock on 0x2000 to 0x200F, a read lock on 0x2010 to 0x201F and a bad word at 0x2020. -/
def guarded : Core :=
  { core0 ctx0 with
    locks := [⟨0, 0x200, 0x200, true⟩, ⟨1, 0x201, 0x201, false⟩], scratch := { Scratch.blank with bad := [0x2020] } }

theorem witness_AccessFaultOrder :
    0x2001 % 2 ≠ 0 ∧ oneRegion guarded.role 0 .load 0x11FF 1 = true ∧ oneRegion guarded.role 0 .store 0x3FFFF 1 = true
    ∧ (oneRegion guarded.role 0 .load 0x40000 1 = false ∧ oneRegion guarded.role 0 .store 0xFFC 4 = false)
    ∧ (∃ l ∈ guarded.locks, (Access.load = .store ∨ l.write = true) ∧ l.meets 0x200F 1 = true)
    ∧ (∃ l ∈ guarded.locks, (Access.store = .store ∨ l.write = true) ∧ l.meets 0x2010 1 = true)
    ∧ (∀ l ∈ guarded.locks, (Access.load = .store ∨ l.write = true) → l.meets 0x2010 4 = false)
    ∧ (∀ l ∈ guarded.locks, (Access.store = .store ∨ l.write = true) → l.meets 0x2020 8 = false)
    ∧ (0x2020 ∈ guarded.scratch.bad ∧ 0x2020 < 0x2027 + 1 ∧ 0x2027 < 0x2020 + 8)
    ∧ ∀ w ∈ guarded.scratch.bad, ¬ (w < 0x2028 + 8 ∧ 0x2028 < w + 8) := by decide

/-- The atomics with given operands, but for AMOCAS. -/
def amoRows (rd ra : XReg) (b : Src) (ord : MemOrd) (scope : Scope) : List Instr :=
  [.amoadd rd ra b ord scope, .amoand rd ra b ord scope, .amoor rd ra b ord scope, .amoxor rd ra b ord scope,
    .amomin rd ra b ord scope, .amomax rd ra b ord scope, .amominn rd ra b ord scope, .amomaxn rd ra b ord scope,
    .amoswp rd ra b ord scope]

theorem witness_AtomicResults :
    (∀ i ∈ amoRows 4 12 (.reg 14) .ar .core ++ amoRows 0 12 (.lit 5) .plain .task ++ [.amocas 4 12 (.pair 14) .rl .core,
      .amocas 4 12 (.pair 0) .plain .task, .amocas 4 12 (.lit 7) .ar .system], Clear i memory)
    ∧ Reaches memory .store (memory.me.rx 12).toNat 4 ∧ (releaseStalls memory .ar .core = false ∧ releaseStalls memory .rl .core = false ∧ acquireReady memory.here 0 = true)
    ∧ memory.here.word 0x2000 = (memory.me.pairSrc (.pair 14)).extractLsb' 0 32
    ∧ memory.here.word 0x2000 = (memory.me.pairSrc (.lit 7)).extractLsb' 0 32
    ∧ memory.here.word 0x2000 ≠ (memory.me.pairSrc (.pair 0)).extractLsb' 0 32 := by
  refine ⟨all_clear (by decide), ⟨by decide, by decide⟩, ?_, ?_, ?_, ?_⟩ <;> decide

/-- The branches with given operands. -/
def branches (ra rb : XReg) (off : BitVec 13) : List Instr :=
  [.beq ra rb off, .bne ra rb off, .blt ra rb off, .bge ra rb off, .bltn ra rb off, .bgen ra rb off]

/-- Each condition holds of some pair of registers and fails of another. -/
theorem witness_BranchResults :
    (∀ i ∈ branches 5 6 0x1FF0 ++ branches 7 0 0x3FF ++ branches 6 6 0xFFF, Clear i scalars)
    ∧ (MayJump scalars (scalars.me.pc + BitVec.ofInt 32 (-64)) ∧ MayJump scalars (scalars.me.pc + BitVec.ofInt 32 (0x3EF * 4)))
    ∧ (let a := scalars.me.rx 5; let b := scalars.me.rx 6; a ≠ b ∧ b.toInt ≤ a.toInt ∧ a.toNat < b.toNat)
    ∧ (let a := scalars.me.rx 7; let b := scalars.me.rx 0; a ≠ b ∧ a.toInt < b.toInt ∧ b.toNat ≤ a.toNat)
    ∧ (let target := scalars.me.pc + BitVec.ofInt 32 (0xFFF * 4)
       target.toNat % 4 = 0 ∧ oneRegion scalars.here.role 0 .fetch target.toNat 4 = false) := by
  refine ⟨all_clear (by decide), ⟨⟨by decide, by decide⟩, ⟨by decide, by decide⟩⟩, ?_, ?_, ?_⟩ <;> decide

theorem witness_JumpResults :
    (∀ i ∈ [Instr.jal 1 0x1FFFF0, .jal 0 0x3EF, .jal 1 0xFFFFF, .jalr 9 9 0xFFFF, .jalr 1 9 0, .jalr 1 6 1], Clear i scalars)
    ∧ (MayJump scalars (scalars.me.pc + BitVec.ofInt 32 (-64)) ∧ MayJump scalars (scalars.me.pc + BitVec.ofInt 32 (0x3EF * 4))
      ∧ MayJump scalars (scalars.me.rx 9 + BitVec.ofInt 32 (-1)))
    ∧ (scalars.me.rx 9 + BitVec.ofInt 32 0).toNat % 4 ≠ 0
    ∧ ((scalars.me.pc + BitVec.ofInt 32 (0xFFFFF * 4)).toNat % 4 = 0
      ∧ oneRegion scalars.here.role 0 .fetch (scalars.me.pc + BitVec.ofInt 32 (0xFFFFF * 4)).toNat 4 = false) := by
  refine ⟨all_clear (by decide), ⟨⟨by decide, by decide⟩, ⟨by decide, by decide⟩, ⟨by decide, by decide⟩⟩, ?_, ?_⟩ <;> decide

theorem witness_TrapEntry : ctx0.tvec.getLsbD 0 = true ∧ ctx0.tlevel = 0 ∧ { ctx0 with tlevel := 1 }.tlevel = 1 := by decide

/-- A launch to which a context's records go. -/
def launch0 : Launch := { (default : Launch) with id := 0 }

theorem witness_TrapKill :
    (∀ n ∈ [0, 1, 2], let x : Ctx := { ctx0 with tlevel := n, tvec := if n = 2 then 0x101 else 0x100 }
      (x.tlevel = 2 ∨ (x.tlevel ≤ 1 ∧ x.tvec.getLsbD 0 = false)) ∧ vecPending (core0 x) 0 = false ∧ x.pending = [])
    ∧ ∃ l, [launch0] = [l] ∧ l.id = (core0 ctx0).role.launch := by
  exact ⟨by decide, launch0, rfl, by decide⟩

/-- A context at each level, its EPCs in the code region. -/
def trapped (n : Nat) : State := world fun x => { x with tlevel := n, epc1 := 0xFFC, epc2 := 0 }

theorem witness_TrapInstructions :
    (∀ i ∈ [Instr.trap 0xFFF, .breakpt 0, .tret], Clear i (trapped 0)) ∧ (trapped 0).me.tlevel = 0
    ∧ (Clear .tret (trapped 1) ∧ (trapped 1).me.tlevel = 1 ∧ MayJump (trapped 1) (trapped 1).me.epc1)
    ∧ (Clear .tret (trapped 2) ∧ (trapped 2).me.tlevel = 2 ∧ MayJump (trapped 2) (trapped 2).me.epc2) :=
  ⟨all_clear (by decide), by decide, ⟨clear_of (by decide), by decide, by decide, by decide⟩,
    clear_of (by decide), by decide, by decide, by decide⟩

/-- All four ordinary contexts busy; the same with only context 3 dormant. -/
def crowded (last : CtxStatus) : State := world (regs [(6, 0xFFC)]) fun c =>
  { c with ctxs := #v[c.ctx 0, { ctx0 with status := .waiting (.counter 0 1) (.cwait 0 1 .core 0) }, ctx0, { ctx0 with status := last },
      Ctx.blank, Ctx.blank, Ctx.blank, Ctx.blank] }

theorem witness_TaskResults :
    (∀ i ∈ [Instr.tdone, .tyield, .tspawn 5 6], Clear i (crowded .ready) ∧ Clear i (crowded .dormant))
    ∧ ((crowded .ready).me.kind ≠ .edgeReversal ∧ vecPending (crowded .ready).here 0 = false)
    ∧ MayJump (crowded .ready) ((crowded .ready).me.rx 6)
    ∧ (∀ k : CtxNo, ¬ (k.val < (crowded .ready).here.role.ord ∧ ((crowded .ready).here.ctx k).status = .dormant))
    ∧ (let c := (crowded .dormant).here; (3 < c.role.ord ∧ (c.ctx 3).status = .dormant)
      ∧ ∀ j < (3 : CtxNo), ¬ (j.val < c.role.ord ∧ (c.ctx j).status = .dormant)) :=
  ⟨fun i hi => ⟨all_clear (by decide) i hi, all_clear (by decide) i hi⟩, by decide, ⟨by decide, by decide⟩, by decide, by decide⟩

/-- Its spawner's write of a scale waits in the tensor queue. -/
theorem witness_TaskResults_write :
    let c := ((crowded .dormant).onHere fun c => { c with nextCmd := 4, tensor := { c.tensor with queue := [.mts 3 0 0x27F 1] } }).here
    (.mts 3 0 0x27F 1) ∈ c.tensor.queue ∧ 3 < c.nextCmd ∧ c.late = [] := by decide

theorem witness_SystemRegisterReads :
    (∀ n ∈ [0x000, 0x001, 0x002, 0x003, 0x010, 0x01F, 0x020, 0x021, 0x022, 0x024, 0x025, 0x026, 0x027, 0x028, 0x029, 0x02A,
      0x100, 0x200, 0x201, 0x202, 0x203, 0x210, 0x21F, 0x220, 0x227, 0x240, 0x27F, 0x400, 0x407, 0x500, 0x510, 0x51F],
      clear (.mfs 4 (BitVec.ofNat 12 n)) scalars = true)
    ∧ scalars.here.vec = [] ∧ scalars.here.tensor.queue = [] ∧ scalars.here.tensor.run = [] ∧ scalars.here.sync.queue = [] := by
  decide

theorem witness_SystemRegisterWrites :
    (∀ n ∈ [0x021, 0x022, 0x024, 0x025, 0x026, 0x027, 0x028, 0x029, 0x100, 0x200, 0x201, 0x220, 0x227, 0x240, 0x27F],
      clear (.mts 6 (BitVec.ofNat 12 n)) scalars = true)
    ∧ scalars.here.vec.length < 8 ∧ scalars.here.tensor.queue.length < 8 ∧ scalars.issuing = true
    ∧ (31 : XReg).val < scalars.here.role.xn
    ∧ (scalars.onHere fun c => { c with vec := [.mts 0 0 0x41] }).here.vec = .mts 0 0 0x41 :: [] := by decide

/-- Whether an outcome is a next state. -/
def answers (i : Instr) (s : State) : Bool := match exec i s with
  | .next _ => true
  | _ => false

theorem next_of {i : Instr} {s : State} (h : answers i s = true) : ∃ t, exec i s = .next t := by
  unfold answers at h
  split at h
  · exact ⟨_, by assumption⟩
  · cases h

/-- Every row of the frame of the scalar instructions has a target and answers a next state. -/
theorem witness_ScalarFrame : ∀ i ∈ aluRows 4 5 (.reg 6) ++ branches 5 6 1 ++ [.div 4 5 (.reg 8), .divn 4 5 (.lit 3),
      .rem 4 5 (.lit 3), .remn 4 5 (.lit 3), .addi 4 5 1, .andi 4 5 1, .ori 4 5 1, .xori 4 5 1, .slti 4 5 1, .sltni 4 5 1,
      .lui 4 1, .shli 4 5 1, .shri 4 5 1, .srai 4 5 1, .jal 1 1, .jalr 1 9 0, .tyield, .trap 1, .breakpt 1, .mrecv 4 7,
      .fsres 4 5 3, .cprec 4 5 3, .ctest 4 5 62, .steprd 4, .erchk 4 31, .erstat 4 31, .qstat 15 4, .sstat 4 5 7],
    ∃ d, scalarTarget i = some d ∧ ∃ t, exec i scalars = .next t := by
  intro i hi
  have h : ∀ i ∈ aluRows 4 5 (.reg 6) ++ branches 5 6 1 ++ [.div 4 5 (.reg 8), .divn 4 5 (.lit 3),
      .rem 4 5 (.lit 3), .remn 4 5 (.lit 3), .addi 4 5 1, .andi 4 5 1, .ori 4 5 1, .xori 4 5 1, .slti 4 5 1, .sltni 4 5 1,
      .lui 4 1, .shli 4 5 1, .shri 4 5 1, .srai 4 5 1, .jal 1 1, .jalr 1 9 0, .tyield, .trap 1, .breakpt 1, .mrecv 4 7,
      .fsres 4 5 3, .cprec 4 5 3, .ctest 4 5 62, .steprd 4, .erchk 4 31, .erstat 4 31, .qstat 15 4, .sstat 4 5 7],
      (scalarTarget i).isSome = true ∧ answers i scalars = true := by decide
  obtain ⟨d, hd⟩ := Option.isSome_iff_exists.mp (h i hi).1
  exact ⟨d, hd, next_of (h i hi).2⟩

theorem witness_StoreFrame : ∀ i ∈ [Instr.sb 4 10 .plain .task 7, .sh 4 12 .rl .core 0, .sw 0 10 .plain .task 1,
      .sd 4 10 .rl .system 0, .amocas 4 12 (.pair 14) .rl .core, .amocas 4 12 (.pair 0) .plain .task] ++
      amoRows 4 12 (.reg 14) .ar .core, ∃ g, storeSpan memory i = some g ∧ ∃ t, exec i memory = .next t := by
  intro i hi
  have h : ∀ i ∈ [Instr.sb 4 10 .plain .task 7, .sh 4 12 .rl .core 0, .sw 0 10 .plain .task 1,
      .sd 4 10 .rl .system 0, .amocas 4 12 (.pair 14) .rl .core, .amocas 4 12 (.pair 0) .plain .task] ++
      amoRows 4 12 (.reg 14) .ar .core, (storeSpan memory i).isSome = true ∧ answers i memory = true := by decide
  obtain ⟨g, hg⟩ := Option.isSome_iff_exists.mp (h i hi).1
  exact ⟨g, hg, next_of (h i hi).2⟩

/-! ## Hypotheses met: decoding and steps -/

/-- Well-formed terms at the ends of their operands' ranges. -/
theorem witness_DecodeInvertsEncode : ∀ i ∈ ([
    .add 31 31 (.reg 31), .xor 0 0 (.lit 0xFFFFFFFF), .ld 30 31 .aq .system 0x400, .amocas 31 31 (.lit 0xFFFFFFFFFFFFFFFF) .ar .system,
    .amocas 31 31 (.pair 30) .rl .core, .bgen 31 31 0x1000, .jal 31 0x100000, .trap 0xFFF, .mts 31 0x6FF,
    .vfmaF 15 15 (.lit 0x80000000) 15, .vext 15 15 (.reg 15) 15, .vscat 14 31 31 .rl .device, .vdec8 15 12 15 15,
    .venc6 15 15 true 63, .vsmxap 15 15 14, .mma 15 0 62, .tdecaySweep 3 0x80, .tscl 31 31 32, .qwaitf 15 0xFF 0,
    .qadvt 15 0 31, .msend 31 .system 63, .mamo 30 31 .device 9, .cskim 15 31 31 3, .cwait 31 31 .system 63, .bartap 7 7,
    .erinit 30 31, .sgeom 31 8, .simg 31 31 7, .sbar 0xFF] : List Instr), i.wf = true ∧ i.encoded = true := by decide

theorem witness_DecodeIsWellFormed : decodeWords 0x04A60204 0xFFFFFFFF 0 = some (.xor 5 6 (.lit 0xFFFFFFFF))
    ∧ decodeWords 0xE0000C00 0 0 ≠ none := by decide

/-- A word, and the two after it, at PC 0x40 of a context whose turn is next. -/
def fetching (w l1 l2 : Word) (f : Ctx → Ctx := id) (g : Core → Core := id) : State :=
  { world f fun c => g (c.put 0x40 ((bytesOfNat 4 w.toNat) ++ bytesOfNat 4 l1.toNat ++ bytesOfNat 4 l2.toNat)) with
    agenda := [.issue 0 0] }

/-- The turn the statements about steps speak of. -/
def turnOf (s : State) : State := atTurn s 0 0 []

theorem witness_StepRunsDecoded :
    (let s := fetching 0x04A63813 0 0; s.agenda = [.issue 0 0] ∧ Issues (turnOf s)
      ∧ decode ((turnOf s).here.bytes 0x40 12) = some (.div 5 6 (.reg 7), [0, 0, 0, 0, 0, 0, 0, 0])
      ∧ fetchBad (turnOf s) = none ∧ ∀ j < 1, fetchFault (turnOf s) (0x40 + 4 * j) = none)
    ∧ (let s := fetching 0x70000520 1 2 (fun x => { x with tlevel := 1, pending := [⟨0, 0, 0, 0⟩] }); Issues (turnOf s)
      ∧ decode ((turnOf s).here.bytes 0x40 12) = some (.amocas 0 0 (.lit 0x200000001) .plain .task, [])
      ∧ ∀ j < 3, fetchFault (turnOf s) (0x40 + 4 * j) = none) := by
  refine ⟨⟨rfl, ⟨by decide, by decide, by decide⟩, by decide, by decide, by decide⟩, ⟨by decide, by decide, by decide⟩, by decide, by decide⟩

theorem witness_StepTrapsOnBadFetch :
    (let u := turnOf (fetching 0 0 0); Issues u ∧ decode (u.here.bytes 0x40 12) = none ∧ fetchBad u = none
      ∧ ∀ j ≤ litWords (u.here.word 0x40), fetchFault u (0x40 + 4 * j) = none)
    ∧ (let u := turnOf (fetching 0 0 0 fun x => { x with pc := 0x1000 }); Issues u
      ∧ oneRegion u.here.role 0 .fetch 0x1000 4 = false)
    ∧ (let u := turnOf (fetching 0 0 0 id fun c => { c with locks := [⟨0, 4, 4, true⟩] }); Issues u
      ∧ oneRegion u.here.role 0 .fetch 0x40 4 = true ∧ ∃ l ∈ u.here.locks, l.write = true ∧ l.meets 0x40 4 = true) :=
  ⟨⟨⟨by decide, by decide, by decide⟩, by decide, by decide, by decide⟩, ⟨⟨by decide, by decide, by decide⟩, by decide⟩,
    ⟨by decide, by decide, by decide⟩, by decide, by decide⟩

/-- A context that would be killed while the vector engine holds an instruction of it. -/
def doomed (c : Core) : Core :=
  { c.onCtx 0 (fun x => { x with tvec := 0 }) with vec := [.op 0 0 (.vabsF 0 0) 0] }

/-- An uncorrectable error in the second word of an instruction that is fetched, under a trap that is entered and one that waits. -/
theorem witness_StepTrapsOnBadFetch_error : ∀ f ∈ [id, doomed],
    let u := turnOf (fetching 0x04A60204 0 0 id fun c => f { c with scratch := { c.scratch with bad := [0x40] } })
    u.issuing = true ∧ u.me.pending = [] ∧ fetchStalls u = false ∧ Unhurried u
      ∧ (∀ j ≤ litWords (u.here.word 0x40), fetchFault u (0x40 + 4 * j) = none)
      ∧ badWord u.here 0x40 (4 + 4 * litWords (u.here.word 0x40)) = some 0x40
      ∧ (trapWaits u 0 0 = true ↔ u.me.tvec = 0) := by
  intro f h
  refine ⟨?_, ?_, ?_, ⟨?_, ?_⟩, ?_, ?_, ?_⟩ <;>
    (simp only [List.mem_cons, List.not_mem_nil, or_false] at h; obtain rfl | rfl := h) <;> decide

/-- The same two traps, of an access and of a register. -/
theorem witness_ErrorTraps : trapWaits (world id) 0 0 = false ∧ trapWaits (world id doomed) 0 0 = true := by decide
theorem witness_AsyncFaultDelivery :
    let f : AsyncFault := ⟨0x0D, 1, 2, 3⟩
    let s := fetching 0 0 0 fun x => { x with pending := [f] }
    let w := fetching 0 0 0 fun x => { x with pending := [f], status := .waiting (.counter 0 1) (.cwait 0 1 .core 0) }
    (s.agenda = [.issue 0 0] ∧ (turnOf s).me.pending = [f] ∧ (turnOf s).me.tlevel = 0
      ∧ (turnOf s).me.tvec.getLsbD 0 = true ∧ (turnOf s).issuing = true)
    ∧ ((turnOf w).me.pending = [f] ∧ (turnOf w).here.live = true ∧ (turnOf w).here.halted = false
      ∧ (turnOf w).me.status ≠ .dormant) := by decide

theorem witness_CheckOrder :
    (let s := world id fun c => { c with role := { c.role with xn := 8 } }
     s.issuing = true ∧ rangeFault s.here.role (.add 8 1 (.reg 2)) = some 8)
    ∧ (rangeFault scalars.here.role (.mts 5 0x600) = none ∧ privFault (.mts 5 0x600) = some 0x600)
    ∧ (let s := world fun x => { x with badRegs := [5] }
      s.issuing = true ∧ rangeFault s.here.role (.add 4 5 (.reg 6)) = none ∧ privFault (.add 4 5 (.reg 6)) = none
      ∧ ((readCodes (.add 4 5 (.reg 6))).find? fun r => s.me.badRegs.contains r) = some 5) := by decide

theorem witness_StepKeepsCanonical : MemoryCanonical State.reset ∧ ∃ t, step (fetching 0x04A63813 0 0) = .next t := by
  refine ⟨⟨by decide, by decide, fun _ => rfl, fun _ h => by cases h⟩, ?_⟩
  have h : (match step (fetching 0x04A63813 0 0) with | .next _ => true | _ => false) = true := by decide
  split at h
  · exact ⟨_, by assumption⟩
  · cases h

/-- The scratchpads at reset are in canonical form. -/
theorem test_reset_memory : ∀ p : Site, p.toNat < 4 → (State.reset.core p).scratch.mem.wf = true := by
  intro p _
  rfl

/-! ## Hypotheses met: vectors, rings, tensors -/

/-- A row of every shape of format V. -/
def vectorRows : List Instr :=
  [.vaddF 0 1 (.reg 2), .vsubF 0 1 (.lit 1), .vmulF 0 1 (.reg 2), .vfmaF 0 1 (.reg 2) 3, .vfmsF 0 1 (.lit 2) 3,
    .vminF 0 1 (.reg 2), .vmaxF 0 1 (.reg 2), .vabsF 15 0, .vcltF 0 1 (.reg 2), .vceqF 0 1 (.reg 2), .vcleF 0 1 (.reg 2),
    .vaddI 0 1 (.reg 2), .vsubI 0 1 (.reg 2), .vmulI 0 1 (.lit 2), .vminI 0 1 (.reg 2), .vmaxI 0 1 (.reg 2),
    .vand 0 1 (.reg 2), .vor 0 1 (.reg 2), .vxor 0 1 (.reg 2), .vshl 0 1 (.reg 2), .vshr 0 1 (.reg 2), .vsra 0 1 (.reg 2),
    .vcltI 0 1 (.reg 2), .vceqI 0 1 (.reg 2), .vsel 0 1 (.reg 2) 3, .vmask 0 1 (.reg 2), .vshuf 0 1 (.reg 2),
    .vbcast 0 1 15, .vext 0 1 (.reg 2) 15, .vraddF 0 1, .vrmaxF 0 1, .vraddI 0 1, .vcvtfi 0 1, .vcvtif 0 1,
    .vpkbf 0 1 2 true, .vupbf 0 1 false, .vdec8 0 12 1 15, .vdec6 0 13 1 0, .venc8 0 1 true 63, .venc6 0 1 false 0,
    .vexp2 0 1, .vlog2 0 1, .vrcp 0 1, .vrsq 0 1, .vtanh 0 1, .vsmx 14 1, .vsmxap 0 1 14]

/-- n entries wait in the vector queue, the head of context 0. -/
def vectorBusy (n : Nat) (i : Instr) : State := world id fun c => { c with vec := List.replicate n (.op 0 0 i 0) }

theorem witness_VectorQueued :
    ∀ i ∈ vectorRows, formatV i = true ∧ clear i (vectorBusy 7 i) = true ∧ (vectorBusy 7 i).here.vec.length < 8
      ∧ clear i (vectorBusy 8 i) = true ∧ 8 ≤ (vectorBusy 8 i).here.vec.length := by decide

/-- For IntegerLanes, FloatLanes, LaneMovesAndReductions and VectorConversions. -/
theorem witness_VectorPerformed : ∀ i ∈ vectorRows,
    (vectorBusy 1 i).here.vec = [.op 0 0 i 0] ∧ vectorWaits (vectorBusy 1 i).here 0 0 i = false := by decide

/-- x5 to x9: a data address, a length, a stride, a slot offset, an odd end; v1 selects lanes 0 and 15, v2 and v3 hold data;
ring 0 has one of two slots filled. -/
def vectorMem : State :=
  let t (l : List (Nat × Word)) : Token :=
    { lanes := l.foldl (fun v e => vset v e.1 e.2) (Vector.replicate 16 0), valid := 0x8001 }
  world (fun x => { regs [(5, 0x3000), (6, 0x3E), (7, 16), (9, 0x2FFE)] x with
      v := ((x.v.set 1 (t [(0, 1), (15, 0x7FF)])).set 2 (t [(0, 3), (15, 4)])).set 3 (t [(0, 5), (15, 6)]) }) fun c =>
    c.onRing 0 fun _ => { Ring.blank with base := 0x20000, sz := 128, ns := 2, fill := 1, tail := 1 }

/-- The checks of a vector access, as VectorMemory states them. -/
def vectorReady (s : State) (store : Bool) (spans writes : List (Nat × Nat)) (o : MemOrd) : Prop :=
  vecPending s.here s.cur.2 = false ∧ spansFault s.here s.cur.2 store spans writes = none
    ∧ (∀ g ∈ spans, absent s.here g.1 g.2 = false) ∧ releaseStalls s o .core = false ∧ acquireStalls s o = false
    ∧ ∀ g ∈ spans, ∀ w ∈ s.here.scratch.soft, ¬ (w < g.1 + g.2 ∧ g.1 < w + 8)

theorem witness_VectorMemory :
    (∀ i ∈ [Instr.vld 1 5 6 .aq .core, .vld 15 9 0 .plain .task, .vst 1 5 6 .rl .core, .vldt 12 5 7, .vldq 1 0 8,
      .vstq 1 0 8, .vgath 1 5 6 .plain .task, .vscat 2 5 0 .rl .core, .vlds 1 5 9 7], Clear i vectorMem)
    ∧ (vectorReady vectorMem false [(0x3000, 62)] [(0x3000, 62)] .aq ∧ vectorReady vectorMem false [(0x2FFE, 64)] [(0x2FFE, 64)] .plain)
    ∧ vectorReady vectorMem true [(0x3000, 62)] (joinSpans (vstSpans (vectorMem.me.v.get 1) 0x3000 62)) .rl
    ∧ (let g := (List.range 16).map fun j => (0x3000 + 16 * j, 16); vectorReady vectorMem false g g .plain)
    ∧ (let r := vectorMem.here.ring 0; 0 < r.fill ∧ r.fill < r.ns ∧ 0 % 64 = 0 ∧ 0 < r.sz)
    ∧ (vectorReady vectorMem false [(0x20000, 64)] [(0x20000, 64)] .plain ∧ vectorReady vectorMem true [(0x20080, 64)] [(0x20080, 64)] .plain)
    ∧ vectorReady vectorMem false [(0x3004, 4)] [(0x3004, 4)] .plain
    ∧ vectorReady vectorMem true [(0x300C, 4), (0x3010, 4)] [(0x300C, 4), (0x3010, 4)] .rl
    ∧ vectorReady vectorMem false [(0x3000, 64), (0x2FFE, 2)] [(0x3000, 64), (0x2FFE, 2)] .plain
    ∧ (∀ n < 4, (vget vectorMem.here.tensor.sweeps n).valid = false)
    ∧ vectorMem.here.tensor.queue = [] ∧ vectorMem.here.tensor.run = [] := by
  refine ⟨all_clear (by decide), ⟨?_, ?_⟩, ?_, ?_, ?_, ⟨?_, ?_⟩, ?_, ?_, ?_, ?_, ?_, ?_⟩ <;>
    first | decide | exact ⟨by decide, by decide, by decide, by decide, by decide, by decide⟩

/-- Another context's instruction stands before theirs in the vector queue, with room after it, without, or with one of theirs. -/
theorem witness_VectorMemory_queues :
    let busy (l : List VecItem) : Core := (vectorMem.onHere fun c => { c with vec := l }).here
    let v : VecItem := .op 1 0 (.vabsF 0 0) 0
    (∀ l ∈ [[v], List.replicate 8 v, [v, .mem 0]], (busy l).vec.head? = some v)
      ∧ (memQueued (busy [v]) 0 = false ∧ (busy [v]).vec.length < 8 ∧ 8 ≤ (busy (List.replicate 8 v)).vec.length)
      ∧ memQueued (busy [v, .mem 0]) 0 = true ∧ releaseReady (busy [v]) 0 .system = true ∧ acquireReady (busy [v]) 0 = true := by decide

/-- The cases of the float functions, of the conversions and of churn rounding. -/
theorem witness_FloatLanes_functions :
    (NotNumber 0x7FC00000 ∧ InfWord 0x7F800000 ∧ InfWord 0xFF800000 ∧ FinWord 0x3F800000 ∧ ¬ NotNumber 0x7F800000
      ∧ FinWord 0x80000000 ∧ magOf 0x80000000 = 0)
    ∧ (let off := (valueOf 0x3F000000 - 0 * 2 ^ 149).natAbs; 2 * off = 2 ^ 149)
    ∧ (let off := ((magOf 0x3F808000 : Int) - (0x3F80 * 2 ^ 16 : Nat)).natAbs; 2 * off = 2 ^ 16)
    ∧ (valueOf 0xBF800000 < 0 ∧ 0 < valueOf 1 ∧ 2 ^ 156 ≤ valueOf 0x43000000 ∧ valueOf 0x40000000 = 2 * 2 ^ 149)
    ∧ (unitsOf (magOf 0x3F800000) = 2 ^ 149 ∧ negative 0x3F800000 = false)
    ∧ (FinWord 0x3F80A000 ∧ magOf 0x3F80A000 % 2 ^ 16 ≠ 0 ∧ 5 * 2 ^ 13 = magOf 0x3F80A000 % 2 ^ 16)
    ∧ ¬ (FinWord 0x3F800000 ∧ magOf 0x3F800000 % 2 ^ 16 ≠ 0) := by decide

/-- The lanes the gather and the scatter of that state reach. -/
theorem test_lanes_in_bound : (List.range 16).filter (fun m => (vectorMem.me.v.get 1).ok m
      && decide ((6 : XReg).val = 0 ∨ ((vectorMem.me.v.get 1).lane m).toNat < (vectorMem.me.rx 6).toNat)) = [0]
    ∧ (List.range 16).filter (fun m => (vectorMem.me.v.get 2).ok m && (vectorMem.me.v.get 3).ok m) = [0, 15] := by decide

/-- x6 and x7 describe a ring of 256 slots of 64 bytes; ring 1 is a ring with one of two slots filled, ring 2 a dry failed
one, ring 3 an unbound WIN ring. -/
def ringState (win : Bool) : State := world (regs [(6, 0x20000), (7, if win then 0x1FF00 else 0xFF00), (9, 1), (10, 2)]) fun c =>
  ((c.onRing 1 fun _ => { Ring.blank with base := 0x20000, sz := 64, ns := 2, fill := 1, tail := 1 }).onRing 2
    fun _ => { Ring.blank with base := 0x20000, sz := 64, ns := 2, fail := true }).onRing 3
    fun _ => { Ring.blank with base := 0x20000, sz := 64, ns := 2, win := true, fill := 2 }

theorem witness_RingInstructions : ∀ win : Bool, let s := ringState win; let c := s.here
    (∀ i ∈ [Instr.qcfg 0 6, .qwaitf 1 1 0, .qwaitf 1 0 10, .qwaite 1 1 0, .qwaite 1 0 10, .qadvh 1 0 9, .qadvh 3 2 0,
      .qadvt 1 1 0, .qstat 15 4, .qreset 2], clear i s = true)
    ∧ s.me.kind = .ordinary ∧ ((c.ring 0).cbound = [] ∧ (c.ring 0).pbound = [])
    ∧ ((s.me.rpair 6).toNat % 2 ^ 32 = 0x20000 ∧ (s.me.rpair 6).toNat / 2 ^ 32 < 2 ^ 17)
    ∧ spanOutside c.role [.ring] 0x20000 (256 * 64) = none
    ∧ (let r := c.ring 1; 1 ≤ r.fill ∧ r.fill < 2 ∧ 2 ≤ r.ns ∧ 1 ≤ r.ns - r.fill ∧ r.ns - r.fill < 2 ∧ r.fail = false
      ∧ r.cbound = [] ∧ r.pb = false)
    ∧ (2 ≤ (c.ring 3).fill ∧ (c.ring 3).cbound = []) ∧ releaseReady c 0 .core = true ∧ acquireReady c 0 = true := by decide

/-- The state in which a packet alone in the mesh has landed. -/
def arrived (s : State) (p : Packet) : State :=
  let u := State.countRetries { s with mesh := [] } p.dst
  if p.body.isMessage = true then u.onCore p.dst fun c => { c with progress := true } else u

theorem arrived_mesh (s : State) (p : Packet) : (arrived s p).mesh = [] := by
  unfold arrived
  dsimp only
  split
  · exact countRetries_mesh _ _
  · exact countRetries_mesh _ _

/-- A packet alone in the mesh may land. -/
theorem lands (s : State) (p : Packet) (n : s.num = 0) (m : s.mesh = [p]) : Lands s p (arrived s p) := by
  refine ⟨?_, ?_, ?_⟩
  · rw [n, m, arrived_mesh]
    rfl
  · rw [n]
    intro q h
    cases h
  · rw [arrived_mesh]
    rfl

/-- The module with one packet in the mesh, on its way to core (0, 0). -/
def sending (b : Body) (f : Ctx → Ctx := id) (g : Core → Core := id) (src : Site := 1) : State :=
  { world f g with num := 0, mesh := [{ src := src, dst := 0, cls := .control, ctx := 0, body := b }] }

theorem sending_lands (b : Body) (f : Ctx → Ctx) (g : Core → Core) (src : Site) :
    ∃ p t, Lands (sending b f g src) p t ∧ p.body = b ∧ p.dst = 0 ∧ p.src = src :=
  ⟨_, _, lands _ _ rfl rfl, rfl, rfl, rfl⟩

theorem witness_WaveFramesLand :
    let c := (ringState true).here
    let frame := sending (.frame 2 [1, 2]) id fun _ => c.onRing 2 fun r => { r with win := true }
    (∀ b ∈ [Body.frame 1 [1], .credit 15 1, .creditReset 0 255, .failFrame 3, .failFrame 1],
      ∃ p t, Lands (sending b id fun _ => c) p t ∧ p.body = b)
    ∧ (let r := (frame.core 0).ring 2; r.win = true ∧ 2 ≤ r.sz ∧ r.fill < r.ns ∧ absent (frame.core 0) (r.base + r.tail * r.sz) 2 = false)
    ∧ ((c.ring 1).win = false ∧ (c.ring 3).win = true)
    ∧ (let r : Ring := { (frame.core 0).ring 2 with sz := 64, landed := 16 }
       16 * (1 : CtxNo).val - (r.base + r.tail * r.sz + r.landed) % 16 < ((List.replicate 40 (1 : Byte)).drop r.landed).length
        ∧ ((List.replicate 40 (1 : Byte)).drop r.landed).length ≤ 16 * (2 : CtxNo).val - (r.base + r.tail * r.sz + r.landed) % 16) := by
  refine ⟨fun b _ => ?_, by decide, by decide, by decide⟩
  obtain ⟨p, t, h, hb, _⟩ := sending_lands b id (fun _ => (ringState true).here) 1
  exact ⟨p, t, h, hb⟩

/-- TG registers: dimensions, formats, bases of the wide, packed and header spans, the extents and stride of two
dimensions, and TG6. -/
def tgOf (ndim wfmt pfmt w p h x2 h2 e0 e1 st six : Nat) : TG :=
  #v[BitVec.ofNat 64 (ndim * 2 ^ 55 + wfmt * 2 ^ 52 + pfmt * 2 ^ 50 + p * 2 ^ 18 + w),
    BitVec.ofNat 64 (h2 * 2 ^ 36 + x2 * 2 ^ 18 + h), BitVec.ofNat 64 (e0 * 2 ^ 20 + e1 * 2 ^ 52 + st * 2 ^ 32), 0, 0, 0,
    BitVec.ofNat 64 six, 0]

def tgQnt : TG := tgOf 1 0 1 0x2000 0x4000 0x6000 0 0 2 0 0 0
def tgPair : TG := tgOf 2 0 2 0x2000 0x4000 0x6000 0x8000 0xA000 1 16 64 0
def tgAcc : TG := tgOf 1 2 0 0x2000 0 0 0x4000 0 2 0 0 0
def tgMma (rows : Nat) : TG := tgOf 2 2 0 0x2000 0 0 0 0 1 rows 104 0x5000

/-- A core whose context 0 has a shape; rings 1 and 2 configured; x5 a data address, x6 the least target. -/
def tensorState (g : TG) (h : Core → Core := id) : State :=
  world (fun x => { regs [(5, 0x3000), (8, 0x0000)] x with tg := g }) fun c =>
    h { ((c.onRing 1 fun _ => { Ring.blank with base := 0x20000, sz := 64, ns := 2 }).onRing 2
      fun _ => { Ring.blank with base := 0x20400, sz := 64, ns := 5 }) with
        role := { c.role with launchRects := [⟨0, 0, 2, 1⟩] } }

theorem witness_TensorGeometry :
    (∀ i ∈ [Instr.tgeom 6 7, .tgeom 0 0, .tshape 5 4, .tshape 8 9], clear i (tensorState tgQnt) = true)
    ∧ (let s := tensorState tgQnt fun c => c.put 0x3000 ((List.range 8).flatMap fun n => bytesOfNat 8 (vget tgQnt n).toNat)
      Readable s 0x3000 8 64 ∧ shapeFault s.here.role (words8 s.here 0x3000) 4 0 = none) :=
  ⟨by decide, ⟨by decide, by decide, by decide, by decide, by decide⟩, by decide⟩

theorem witness_TensorCommandsQueue :
    (∀ f ∈ [((2 : Nat), tgMma 1), (2, tgMma 128), (3, tgMma 128), (4, tgQnt), (5, tgQnt), (6, tgPair), (7, tgAcc), (8, tgAcc),
      (9, tgAcc)], shapeFault placedRole f.2 f.1 0 = none)
    ∧ shapeFault placedRole tgAcc 9 4094 = none
    ∧ (∀ i ∈ [Instr.mma 1 2 0x80, .mmaw 1 2 62, .tqnt 62, .tdqnt 0x80, .tstpair 0, .tdecay 3 0x80, .tdecaySweep 3 0x80,
      .tdecayDrop 3 0x80, .tsadd 0x80, .tnorm 0 0x80, .tscl 31 5 32, .tfact 5 0x80, .tfact 5 0], clear i (tensorState (tgMma 1)) = true)
    ∧ (let c := (tensorState (tgMma 1)).here; (c.ring 1).ns ≠ 0 ∧ (c.ring 2).ns ≠ 0 ∧ rowBytes (tgMma 1) ≤ (c.ring 1).sz
      ∧ panelSlots (tgMma 1) (c.ring 2).sz ≤ (c.ring 2).ns ∧ c.tensor.queue.length < 8 ∧ c.locks = []
      ∧ (launchNeighbour (tensorState (tgMma 1)) 0 .east).isSome = true
      ∧ inKind c.role [.data, .code] 0x3000 128 = true ∧ inKind c.role [.data, .code] 0x3000 32 = true) := by decide

/-- A queued or started command of context 0. -/
def tensorCmd0 (fn : TensorFn) (g : TG) : TensorCmd := { id := 0, ctx := 0, serial := 0, fn := fn, tg := g, counter := none }

theorem witness_TensorStarts : ∀ e ∈ [TensorItem.mts 0 0 0x200 1, .mts 0 0 0x220 1, .mts 0 0 0x27F 1, .cmd (tensorCmd0 (.drop 3) tgAcc),
      .cmd (tensorCmd0 (.scl 32 32 0x3000) tgAcc), .cmd (tensorCmd0 .qnt tgQnt), .cmd (tensorCmd0 (.norm 0) tgAcc)],
    let s := tensorState tgAcc fun c => { c with
      tensor := { c.tensor with queue := [e] }, locks := lockOf 0 0x3000 128 false }
    Running s ∧ s.here.tensor.queue = [e] ∧ held s.here 0 0x3000 128 false = false ∧ absent s.here 0x3000 128 = false
      ∧ s.here.scratch.bad = [] := by
  have h : ∀ e ∈ [TensorItem.mts 0 0 0x200 1, .mts 0 0 0x220 1, .mts 0 0 0x27F 1, .cmd (tensorCmd0 (.drop 3) tgAcc),
      .cmd (tensorCmd0 (.scl 32 32 0x3000) tgAcc), .cmd (tensorCmd0 .qnt tgQnt), .cmd (tensorCmd0 (.norm 0) tgAcc)],
    let s := tensorState tgAcc fun c => { c with
      tensor := { c.tensor with queue := [e] }, locks := lockOf 0 0x3000 128 false }
    (s.here.live = true ∧ s.here.halted = false) ∧ s.here.tensor.queue = [e] ∧ held s.here 0 0x3000 128 false = false
      ∧ absent s.here 0x3000 128 = false ∧ s.here.scratch.bad = [] := by decide
  exact h

/-- A started command. -/
def run0 (fn : TensorFn) (g : TG) (row : Nat) : TensorRun :=
  { cmd := tensorCmd0 fn g, step := 0, sc := Vector.replicate 64 0, df := Vector.replicate 8 0, row := row }

/-- The core of tensorState with a started command that binds rings 1 and 2, and a sweep slot with a pending crossing. -/
def tensorRunning (r : TensorRun) (fill : Nat) (fail : Bool) : State :=
  tensorState r.cmd.tg fun c => { ((c.onRing 1 fun q => { q with cbound := [0], fill := fill, fail := fail }).onRing 2
    fun q => { q with cbound := [0], fill := 5 }) with
      locks := (spansOf r.cmd.tg r.cmd.fn.number).flatMap fun g => lockOf 0 g.1 g.2.1 g.2.2
      tensor := { ((c.onRing 1 fun q => { q with cbound := [0], fill := fill, fail := fail }).onRing 2
        fun q => { q with cbound := [0], fill := 5 }).tensor with
          run := [r], sweeps := vset c.tensor.sweeps 0 { Sweep.blank with valid := true, tg := tgOf 1 2 0 0x8000 0 0 0 0 2 0 0 0, pend := [0x2000] } } }

theorem witness_TensorRuns :
    (let r := run0 (.mma 1 2 false) (tgMma 128) 127; let s := tensorRunning r 1 false; let c := s.here
     (c.live = true ∧ c.halted = false) ∧ c.tensor.run[s.num]? = some r ∧ r.row < tgExt r.cmd.tg 1
      ∧ (c.ring 1).cbound.head? = some 0 ∧ (c.ring 2).cbound.head? = some 0 ∧ 0 < (c.ring 1).fill
      ∧ panelSlots r.cmd.tg (c.ring 2).sz ≤ (c.ring 2).fill ∧ 0 < panelSlots r.cmd.tg (c.ring 2).sz ∧ (c.ring 1).win = false
      ∧ (∀ k < tgExt r.cmd.tg 0, let x := tgWide r.cmd.tg (k + tgExt r.cmd.tg 0 * r.row)
          held c r.cmd.id x 104 true = false ∧ absent c x 104 = false)
      ∧ absent c 0x20000 128 = false ∧ absent c 0x20400 320 = false)
    ∧ (let r := run0 (.mma 1 2 false) (tgMma 1) 0; let s := tensorRunning r 0 true
       s.here.tensor.run[s.num]? = some r ∧ r.row < tgExt r.cmd.tg 1 ∧ 0 < panelSlots r.cmd.tg (s.here.ring 2).sz ∧ (s.here.ring 1).fill = 0 ∧ (s.here.ring 1).fail = true)
    ∧ (let r := run0 (.mma 1 2 false) (tgMma 1) 1; tgExt r.cmd.tg 1 ≤ r.row ∧ tgPop r.cmd.tg = false ∧ r.cmd.counter = none)
    ∧ (∀ e ∈ [(TensorFn.qnt, tgQnt), (.dqnt, tgQnt), (.stpair, tgPair), (.decay none, tgAcc), (.sadd, tgAcc)],
        ∀ row < if e.1 = .stpair then 1 else tgBlocks e.2, let r := run0 e.1 e.2 row
          tensorWaits (tensorRunning r 0 false).here r = false ∧ r.row < 2)
    ∧ (tgBlocks tgQnt = 2 ∧ tgBlocks tgAcc = 2)
    ∧ (let s := tensorRunning (run0 .qnt tgQnt 0) 0 false; let w := vget s.here.tensor.sweeps 0
       w.valid = true ∧ w.pend = [0x2000] ∧ tgWide w.tg w.next = 0x8000
        ∧ (∀ l ∈ s.here.locks, l.meets 0x8000 (tgWB w.tg) = false ∧ l.meets (tgHeader w.tg w.next) 0 = false)
        ∧ absent s.here 0x8000 (tgWB w.tg) = false ∧ absent s.here (tgHeader w.tg w.next) 0 = false
        ∧ w.next + 1 < tgBlocks w.tg) := by decide

/-! ## Hypotheses met: messages and collectives -/

/-- Words as bytes. -/
def wordBytes (l : List Nat) : List Byte := l.flatMap (bytesOfNat 4)

/-- Descriptors of a SEND with no length, a PUT of 512 bytes, a GET and an AMO with a counter, an FSCFG of a root and of a
leaf, a CBCAST, a CJOIN and a CGATH; x2 to x5 point at the first four, x18 on at the others; x6 and x7 bind a tag. -/
def descriptors (f : Ctx → Ctx := id) (g : Core → Core := id) : State :=
  world (fun x => f (regs [(2, 0x2000), (3, 0x2010), (4, 0x2020), (5, 0x2030), (18, 0x2040), (19, 0x2050), (20, 0x2060),
    (21, 0x2080), (22, 0x20A0), (6, 0x80000010), (7, 0x3FC240), (9, 0x10000), (10, 1), (11, 0x3000)] x)) fun c =>
    g { c.put 0x2000 (wordBytes [1, 0x3000, 7, 0, 1, 0x08003000, 0x2000, 0, 1, 0x20103000, 0x2000, 0x1003E,
        1, 0x20103000, 0x2000, 0x10000, 0x0104, 2, 0x3000, 0x1003E, 0x0100, 0, 0, 1,
        0x48000000, 0, 0x201, 0x3000, 0, 0, 0, 0, 0x08000001, 0, 0x201, 0x4000, 0, 0, 0, 0,
        0x50000000, 0, 0x201, 0x3000, 0x4000, 0, 0, 0]) with
      role := { c.role with launchRects := [⟨0, 0, 2, 2⟩] } }

theorem witness_MessageCommands :
    (∀ i ∈ [Instr.msend 2 .core 63, .mput 3 .die, .mget 4 .core, .mamo 10 5 .system 0, .mamo 10 5 .core 9, .mbind 6 63, .mbind 0 0],
      clear i descriptors = true)
    ∧ (Readable descriptors 0x2000 16 16 ∧ Readable descriptors 0x2010 16 16 ∧ Readable descriptors 0x2020 16 16
      ∧ Readable descriptors 0x2030 16 16)
    ∧ (let d (n : Nat) := descAt descriptors.here (0x2000 + 16 * n)
      descFault descriptors (.msend 2 .core 63) (d 0) 0 63 = none ∧ descFault descriptors (.mput 3 .die) (d 1) 1 0 = none
      ∧ descFault descriptors (.mget 4 .core) (d 2) 2 0 = none ∧ descFault descriptors (.mamo 10 5 .system 0) (d 3) 3 0 = none)
    ∧ descriptors.here.msg.queue.length < 8 ∧ (lockOf 0 0x3000 512 false).length ≤ 32
    ∧ (vget descriptors.here.msg.tags 63 = none ∧ sendWaits descriptors.here 63 = false)
    ∧ (let v := (descriptors.me.rpair 6).toNat; 2 ^ 31 ≤ v % 2 ^ 32 ∧ v % 2 ^ 32 / 2 ^ 16 % 2 ^ 15 = 0 ∧ v / 2 ^ 32 < 2 ^ 22)
    ∧ inKind placedRole [.code] 0x40 4 = true ∧ spanOutside placedRole [.data, .ring] 0x2400 (16 * 512) = none
    ∧ descriptors.me.rpair 0 = 0
    ∧ (let s := world fun x => { x with kind := .handler }; clear (.mrecv 4 7) s = true ∧ s.me.kind = .handler) := by
  refine ⟨by decide, ⟨?_, ?_, ?_, ?_⟩, by decide⟩ <;> exact ⟨by decide, by decide, by decide, by decide, by decide⟩

/-- A header of a message from core (0, 0) to itself: kind, CA, LEN and tag, HADDR, LADDR, counter 62. -/
def hdrOf (kind : Nat) (ca : Bool) (len tag : Nat) : Hdr :=
  #v[BitVec.ofNat 32 ((if ca then 2 ^ 31 else 0) + kind * 2 ^ 24), 0, BitVec.ofNat 32 (len * 2 ^ 12 + tag), 0x3000, 0x4000, 5,
    0x1003E, 9]

/-- A request of this launch. -/
def request (kind len tag : Nat) : Request :=
  { hdr := hdrOf kind true len tag, payload := List.replicate (if kind ≤ 1 then len else 0) 1, rid := 0, launch := some 0 }

/-- A message of context 0 that awaits its reply, its lock on 0x3000. -/
def awaiting (kind : Nat) (c : Core) : Core :=
  { c with
    locks := lockOf 7 0x3000 4 true
    msg := { c.msg with out := [{ rid := 3, id := 7, ctx := 0, serial := 0, seq := 3, slot := none, hdr := hdrOf kind true 4 0, landed := 0 }] } }

theorem witness_MessagesMove :
    (∀ kind ∈ [0, 1, 2, 3], let m : MsgCmd := { id := 0, ctx := 0, serial := 0, hdr := hdrOf kind true 4 0, src := 0x3000, seq := 0, rel := true, early := [(0x300, [1])] }
      let s := world id fun c => { c with msg := { c.msg with queue := [m] } }
      (s.here.live = true ∧ s.here.halted = false) ∧ takeAt s.here.msg.queue s.num = some (m, [])
        ∧ s.here.msg.queue.take s.num = [] ∧ releaseBefore s.here 0 0 (decide (3 ≤ hdrScope m.hdr)) = true ∧ hdrKind m.hdr ≤ 3 ∧ hdrDmod m.hdr = 0
        ∧ held s.here 0 0x3000 4 false = false ∧ absent s.here 0x3000 4 = false ∧ s.here.scratch.bad ++ s.here.scratch.soft = [])
    ∧ (∃ p t, Lands (sending (.req (request 0 4 0))) p t ∧ p.body = .req (request 0 4 0) ∧ (t.core p.dst).msg.requests.length < 16)
    ∧ (∀ a ∈ [(4, 0), (4, 1), (5, 2), (6, 3), (7, 0), (7, 1), (7, 2), (7, 3)], ∃ p t,
        Lands (sending (.rep (hdrOf a.1 false 4 0) [1, 2, 3, 4] (some 3)) id (awaiting a.2)) p t
          ∧ p.body = .rep (hdrOf a.1 false 4 0) [1, 2, 3, 4] (some 3) ∧ hdrKind (hdrOf a.1 false 4 0) = a.1
          ∧ ((t.core p.dst).msg.out.find? fun m => m.rid == 3) = (awaiting a.2 Core.blank).msg.out.head?
          ∧ hdrKind (hdrOf a.2 true 4 0) = a.2 ∧ held (t.core p.dst) 7 0x3000 4 true = false
          ∧ absent (t.core p.dst) 0x3000 4 = false ∧ (t.core p.dst).scratch.bad ++ (t.core p.dst).scratch.soft = []
          ∧ ((t.core p.dst).counter 62).value.toNat + 1 < 2 ^ 64) := by
  refine ⟨by decide, ?_, ?_⟩
  · exact ⟨_, _, lands _ _ rfl rfl, rfl, by decide⟩
  · intro a ha
    refine ⟨_, _, lands _ _ rfl rfl, rfl, ?_⟩
    revert a
    decide

/-- A GETR of 40 bytes that lands line by line, its first line next or its second. -/
theorem witness_MessagesMove_pieces : ∀ done ∈ [0, 16],
    let o : OutMsg := { rid := 3, id := 7, ctx := 0, serial := 0, seq := 3, slot := none, hdr := hdrOf 2 true 40 0, landed := done }
    let h := hdrOf 5 false 40 0
    let s : State := { sending (.rep h (List.replicate 40 1) (some 3)) id fun c =>
      { c with locks := lockOf 7 0x3000 40 true, msg := { c.msg with out := [o] } } with cur := (0, 1) }
    ∃ p t, Lands s p t ∧ p.body = .rep h (List.replicate 40 1) (some 3) ∧ hdrKind h = 5
      ∧ ((t.core p.dst).msg.out.find? fun m => m.rid == 3) = some o
      ∧ (let a := 0x3000 + done; let b := t.core p.dst; let part := (List.replicate 40 (1 : Byte)).drop done
         ¬ (s.cur.2 = 0 ∨ part.length ≤ 16 * s.cur.2.val - a % 16) ∧ held b 7 a part.length true = false
          ∧ absent b a part.length = false ∧ b.scratch.bad ++ b.scratch.soft = []) := by
  intro done h
  refine ⟨_, _, lands _ _ rfl rfl, rfl, rfl, ?_⟩
  revert done
  decide

/-- Core (0, 0) with a handler context 7 and a request at the head of its queue; tag 63 has one slot. -/
def serving0 (r : Request) : State := world id fun c => { c with
  ctxs := c.ctxs.set 7 { Ctx.blank with kind := .handler }
  msg := { c.msg with
    requests := [r], tags := vset c.msg.tags 63 (some { handler := 0x40, base := 0x2400, size := 32, count := 1, owner := 0, pipe := false, busy := [] }) } }

theorem witness_RequestsServed :
    ∀ r ∈ [request 0 32 63, request 0 0 63, request 1 512 0, request 2 512 0, request 3 4 9, request 3 4 0, request 3 4 1,
        request 3 4 2, request 3 4 3, request 3 4 4, request 3 4 5, request 3 4 6, request 3 4 7, request 3 4 8], let s := serving0 r
      s.here.msg.requests = [r] ∧ refusalOf s 0 r = none ∧ hdrSmod r.hdr = 0 ∧ s.here.msg.landing = none ∧ s.cur.2 = 0
      ∧ (hdrKind r.hdr = 0 → sendPlace s.here r = some (7, ⟨0x40, 0x2400, 32, 1, 0, false, []⟩, 0, 0x2400))
      ∧ (∀ a ∈ [(0x2400, 32), (0x4000, 512)], lockFault s.here a.1 a.2 true = none ∧ absent s.here a.1 a.2 = false)
      ∧ s.here.scratch.bad ++ s.here.scratch.soft = [] := by decide

/-- A PUT that lands line by line, its first line next or its second. -/
theorem witness_RequestsServed_pieces : ∀ k ∈ [(1 : CtxNo), 2],
    let r := request 1 512 0
    let s : State := { (serving0 r).onHere fun c => { c with msg := { c.msg with
      landing := if k = 1 then none else some (0x4000, 16) } } with cur := (0, k) }
    let begun := if k = 1 then 0 else 16
    s.here.msg.requests = [r] ∧ refusalOf s 0 r = none ∧ s.here.msg.landing.getD (hdrLaddr r.hdr, 0) = (0x4000, begun)
      ∧ s.cur.2 ≠ 0 ∧ 16 * s.cur.2.val - (0x4000 + begun) % 16 < (r.payload.drop begun).length
      ∧ lockFault s.here (0x4000 + begun) (512 - begun) true = none ∧ absent s.here (0x4000 + begun) (512 - begun) = false
      ∧ s.here.scratch.bad ++ s.here.scratch.soft = [] := by decide

/-- A GET that is read line by line, its first lines next or its last. -/
theorem witness_RequestsServed_reads : ∀ k ∈ [(1 : CtxNo), 2],
    let r := request 2 40 0
    let begun := if k = 1 then 0 else 16
    let s : State := { (serving0 r).onHere fun c => { c with msg := { c.msg with
      landing := if k = 1 then none else some (0x4000, 16), gathered := List.replicate begun 1 } } with cur := (0, k) }
    let line := 16 * s.cur.2.val - (0x4000 + begun) % 16
    s.here.msg.requests = [r] ∧ refusalOf s 0 r = none ∧ s.here.msg.landing.getD (hdrLaddr r.hdr, 0) = (0x4000, begun) ∧ s.cur.2 ≠ 0
      ∧ (line < hdrLen r.hdr - begun ↔ k = 1) ∧ lockFault s.here (0x4000 + begun) (40 - begun) false = none
      ∧ absent s.here (0x4000 + begun) (40 - begun) = false ∧ s.here.scratch.bad ++ s.here.scratch.soft = [] := by decide

/-- A sum tag: its node, and one block. -/
def sumCfg0 (children : List Dir) : SumCfg :=
  { own := true, children := children, parent := some .west, total := 0, res := 0, inc := 1, counter := 62, nblk := 1, ctx := 0
    serial := 0, resCmd := 0, srcCmd := 1 }
def sumBlk0 : SumBlk := { xa := 0, req := 0, p := List.replicate 16 (some 0), n := 0, got := [], sent := false, done := false }
def sumTag0 (children : List Dir) (given : Option (List Acc)) (k : SumBlk) : SumTag :=
  { cfg := some (sumCfg0 children), gen := 1, failed := false, busy := true, given := given, blks := [k] }

/-- Tags 0 to 3 of a core: node with and without its contribution. -/
def sums (given : Option (List Acc)) (k : SumBlk) (children : List Dir) (c : Core) : Core :=
  { c with msg := { c.msg with sums := vset c.msg.sums 3 (sumTag0 children given k) } }

theorem witness_FabricSumCommands :
    (∀ i ∈ [Instr.fscfg 18 3, .fscfg 19 0, .fsum 11 3, .fsraise 9 3, .fsres 4 0 0], clear i descriptors = true)
    ∧ (Readable descriptors 0x2040 16 16 ∧ Readable descriptors 0x2050 16 16)
    ∧ (∀ a ∈ [0x2040, 0x2050], let d := sumDesc (descAt descriptors.here a)
        d.counter ≠ 63 ∧ d.counter < descriptors.here.role.counters ∧ (descriptors.here.sum 3).busy = false
        ∧ sumDescBad descriptors d = false ∧ d.res % 8 = 0
        ∧ (d.dir = 4 → inKind descriptors.here.role [.data] d.res (104 * d.nblk) = true))
    ∧ (let s := descriptors id (sums none sumBlk0 [.east]); let g := s.here.sum 3
       g.cfg = some (sumCfg0 [.east]) ∧ g.failed = false ∧ g.given = none ∧ sumQueued s.here 3 = false
        ∧ oneRegion s.here.role 0 .load 0x3000 104 = true ∧ s.here.msg.queue.length < 8
        ∧ g.blks[0]? = some sumBlk0)
    ∧ clear (.fsraise 0 3) descriptors = true ∧ (descriptors.me.rx 9).toNat = 0x10000
    ∧ (let v := 0x10000; v % 2 ^ 6 = 0 ∧ v / 2 ^ 6 % 2 ^ 10 = 0 ∧ v < 2 ^ 28 ∧ v / 2 ^ 16 % 2 ^ 12 ≠ 4095 ∧ sumBlk0.req < v / 2 ^ 16 % 2 ^ 12) := by
  refine ⟨by decide, ⟨?_, ?_⟩, by decide⟩ <;> exact ⟨by decide, by decide, by decide, by decide, by decide⟩

theorem witness_FabricSumBeats :
    (∀ e ∈ [(Body.sum 3 0 1 0 (List.replicate 16 (some 1)) (2 ^ 18), none, (1 : Site)), (.sum 3 0 1 0 [] 1, some [default], 1),
      (.renup 3 0 1 1, none, 1)], ∃ p t, Lands (sending e.1 id (sums e.2.1 sumBlk0 [.east])) p t ∧ p.body = e.1
        ∧ ((t.core p.dst).sum 3).cfg = some (sumCfg0 [.east]) ∧ ((t.core p.dst).sum 3).blks[0]? = some sumBlk0
        ∧ ((t.core p.dst).sum 3).gen = 1 ∧ ((t.core p.dst).sum 3).failed = false ∧ fromDir t p.dst p.src = some .east
        ∧ (∀ e ∈ (sumCfg0 [.east]).children, e ∈ [Dir.east]))
    ∧ (∃ e ∈ (sumCfg0 [.east, .north]).children, e ∉ [Dir.east])
    ∧ (∀ b ∈ [Body.rendn 3 0 1 1, .sumDone 3 0 1, .sumFail 3 0 1],
        let s : State := { State.reset with
          cores := [(1, sums none sumBlk0 [.east] (core0 ctx0))], num := 0
          mesh := [{ src := 0, dst := 1, cls := .control, ctx := 0, body := b }] }
        ∃ p t, Lands s p t ∧ p.body = b ∧ ((t.core p.dst).sum 3).cfg = some (sumCfg0 [.east])
        ∧ ((t.core p.dst).sum 3).blks[0]? = some sumBlk0 ∧ fromDir t p.dst p.src = some .west
        ∧ ((t.core p.dst).counter 62).value.toNat + 1 < 2 ^ 64) := by
  refine ⟨?_, by decide, ?_⟩
  · intro e he
    refine ⟨_, _, lands _ _ rfl rfl, rfl, ?_⟩
    revert e
    decide
  · intro b hb
    refine ⟨_, _, lands _ _ rfl rfl, rfl, ?_⟩
    revert b
    decide

/-- The root of a tree whose last child's beat counts five contributors, as many as it waits for or fewer. -/
theorem witness_FabricSumRoot : ∀ total ∈ [5, 6],
    let f : SumCfg := { sumCfg0 [.east] with own := false, parent := none, total := total, res := 0x4000 }
    let lanes : List Lane := List.replicate 16 (some 1)
    ∃ p t, Lands (sending (.sum 3 0 1 0 lanes 5) id fun c =>
        { c with msg := { c.msg with sums := vset c.msg.sums 3 { sumTag0 [.east] none sumBlk0 with cfg := some f } } }) p t
      ∧ p.body = .sum 3 0 1 0 lanes 5
      ∧ (let c := t.core p.dst; let g := c.sum 3
         g.cfg = some f ∧ g.blks[0]? = some sumBlk0 ∧ g.gen = 1 ∧ g.failed = false ∧ fromDir t p.dst p.src = some .east
          ∧ (∀ e ∈ f.children, e ∈ [Dir.east]) ∧ (sumBlk0.p.zipWith laneAdd lanes).length = 16
          ∧ held c f.resCmd 0x4000 104 true = false ∧ absent c 0x4000 104 = false
          ∧ (c.counter f.counter).value.toNat + f.inc < 2 ^ 64 ∧ (c.ctx f.ctx).status ≠ .dormant
          ∧ (c.ctx f.ctx).serial = f.serial ∧ (c.ctx f.ctx).pending.length < 16) := by
  intro total h
  refine ⟨_, _, lands _ _ rfl rfl, rfl, ?_⟩
  revert total
  decide

/-- A cream tag in a mode, with one tile and one train of a source. -/
def creamTag0 (mode : CreamMode) (src : Site) (w : Tile) (branches : List Branch) : CreamTag :=
  { CreamTag.blank with
    mode := mode, gen := 1, busy := true, p := 8, rect := ⟨0, 0, 2, 2⟩, src := src, counter := 62, recvCmd := 0, srcCmd := 1
    tiles := [w], trains := [{ src := src, toSend := [], branches := branches, cutSent := false, ended := false }] }
def tile0 (n : Nat) : Tile := { base := 0x4000, count := n, final := false, fail := false, cut := false }
def branch0 (d : Dir) (cut ended : Bool) : Branch := { dir := d, cut := cut, ended := ended, sent := 0 }
def creams (g : CreamTag) (c : Core) : Core := { c with msg := { c.msg with creams := vset c.msg.creams 3 g } }

theorem witness_CreamCommands :
    (∀ i ∈ [Instr.cbcast 20 3, .cjoin 21 3, .cgath 22 3, .cprec 4 0 3, .cskim 1 4 0 3, .ccut 0 3], clear i descriptors = true)
    ∧ (Readable descriptors 0x2060 16 16 ∧ Readable descriptors 0x2080 16 16 ∧ Readable descriptors 0x20A0 32 32)
    ∧ creamFault descriptors (.cbcast 20 3) 3 .bcast (creamDesc descriptors.here 0x2060 .bcast) = none
    ∧ creamFault descriptors (.cjoin 21 3) 3 .join (creamDesc descriptors.here 0x2080 .join) = none
    ∧ creamFault descriptors (.cgath 22 3) 3 .gather (creamDesc descriptors.here 0x20A0 .gather) = none
    ∧ (descriptors.here.cream 3).joined = false
    ∧ (∀ n ∈ [0, 9], let s := descriptors id (creams (creamTag0 .join 1 (tile0 n) []))
        (s.here.cream 3).joined = true ∧ (s.here.cream 3).tiles[0]? = some (tile0 n) ∧ vecPending s.here 0 = false
        ∧ (∀ l ∈ [0x4000, 0x4040], absent s.here l 2 = false) ∧ s.here.scratch.bad ++ s.here.scratch.soft = [])
    ∧ (∀ b ∈ [[branch0 .north false false], [branch0 .north true false], []],
        let h := (descriptors id (creams (creamTag0 .join 1 (tile0 0) b))).here.cream 3
        h.src ≠ 0 ∧ treeParent 1 0 = some .east ∧ h.tileOf 1 = 0 ∧ (h.train 1).map (·.cutSent) = some false)
    ∧ [branch0 .north false false].any (fun b => !b.cut) = true ∧ [branch0 .north true false].all (·.cut) = true := by
  refine ⟨by decide, ⟨?_, ?_, ?_⟩, by decide⟩ <;> exact ⟨by decide, by decide, by decide, by decide, by decide⟩

/-- A command of tag 3 at the head of the message queue, from a kind. -/
def injecting (kind : Nat) (g : Core → Core) : State := world id fun c =>
  let c := g c
  { c with msg := { c.msg with queue := [{ id := 1, ctx := 0, serial := 0, seq := 0, rel := false, early := [], src := 0x3000
                                           hdr := #v[BitVec.ofNat 32 (kind * 2 ^ 24), 0, 3, 0, 0, 0, 0, 0] }] } }

/-- An FSUM at a leaf, and a CBCAST of a tile in plane form. -/
theorem witness_MessagesMove_collectives :
    (∀ kind ∈ [8, 13], let s := injecting kind (sums none sumBlk0 [] ∘ creams (creamTag0 .bcast 0 (tile0 0) [])); let c := s.here
      (c.live = true ∧ c.halted = false) ∧ (∃ m, takeAt c.msg.queue s.num = some (m, []) ∧ hdrKind m.hdr = kind ∧ hdrTag m.hdr = 3 ∧ m.src = 0x3000
            ∧ m.rel = false ∧ vget m.hdr 3 = 0)
        ∧ ((c.sum 3).cfg = some (sumCfg0 []) ∧ (sumCfg0 []).parent = some .west ∧ (sumCfg0 []).own = true
          ∧ (c.sum 3).failed = false ∧ (c.sum 3).blks = [sumBlk0] ∧ (sumCfg0 []).nblk = 1)
        ∧ ((c.cream 3).train 0).isSome = true
        ∧ (∀ n ∈ [104, 352], held c 1 0x3000 n false = false ∧ absent c 0x3000 n = false)
        ∧ c.scratch.bad ++ c.scratch.soft = [])
    ∧ ∀ k j, [sumBlk0][k]? = some j → j.sent = false ∧ j.done = false ∧ j.req ≤ j.xa ∧ j.xa ≤ 4094
        ∧ ∀ l ∈ (accOfNat ((injecting 8 id).here.nat (0x3000 + 104 * k) 104)).lanes, ∀ v,
            accAlign l (accOfNat ((injecting 8 id).here.nat (0x3000 + 104 * k) 104)).x j.xa = some v → v.natAbs < 2 ^ 28 := by
  refine ⟨fun kind h => ⟨?_, ⟨_, rfl, ?_, ?_, rfl, rfl, rfl⟩, ?_⟩, fun k j h => ?_⟩
  iterate 4
    revert kind
    decide
  match k with
  | 0 =>
    cases h
    refine ⟨rfl, rfl, by decide, by decide, fun l hl v hv => ?_⟩
    have e : ∀ l ∈ (accOfNat ((injecting 8 id).here.nat (0x3000 + 104 * 0) 104)).lanes,
        (accAlign l (accOfNat ((injecting 8 id).here.nat (0x3000 + 104 * 0) 104)).x sumBlk0.xa).all (fun v => decide (v.natAbs < 2 ^ 28))
          = true := by decide
    have := e l hl
    rw [hv] at this
    exact of_decide_eq_true this
  | _ + 1 => cases h

/-- A beat of that tag from source (1, 0). -/
def beat0 (k : BeatKind) : CreamBeat :=
  { tag := 3, gen := 1, p := 8, src := 1, rect := ⟨0, 0, 2, 2⟩, kind := k, data := [] }
/-- The same tag, its train open from the east under number 5, and to the north under number 6 if `numbered`. -/
def train0 (numbered : Bool) (branches : List Branch) (c : Core) : Core :=
  { creams (creamTag0 .join 1 (tile0 9) branches) c with msg := { (creams (creamTag0 .join 1 (tile0 9) branches) c).msg with
      trainLinks := (vset (vset c.msg.trainLinks 0 { TrainLink.blank with inn := [(5, some (beat0 .opn)), (6, none)] }) 2
        { TrainLink.blank with out := if numbered then [(6, 3, 1, 1)] else [] }) } }

/-- A bridgehead of a train: a joined node with a branch to the north gets an OPEN, a beat and an END of it. -/
theorem witness_CreamBeats_down :
    ∀ e ∈ [(Body.creamHeader (headerWords 1 0 (beat0 .opn)) 5, beat0 .opn, false), (.trainBeat 5 0 [1, 2], { beat0 .exponents with data := [1, 2] }, true),
        (.trainBeat 5 1 [1, 2], { beat0 (.plane 1) with data := [1, 2] }, true),
        (.creamHeader (headerWords 1 0 (beat0 (.fin 9))) 5, beat0 (.fin 9), true)],
      ∃ p t, Lands (sending e.1 id (train0 e.2.2 [branch0 .north false false])) p t ∧ p.body = e.1
        ∧ (let c := t.core p.dst; let g := c.cream 3
           g.gen = 1 ∧ g.mode ≠ .idle ∧ (g.train 1).map (·.branches) = some [branch0 .north false false] ∧ fromDir t p.dst p.src = some .east
            ∧ g.joined = true ∧ treeParent 1 p.dst = some .east ∧ g.tiles[g.tileOf 1]? = some (tile0 9) ∧ g.toLand = []
            ∧ t.trainOf p.dst p.src 5 = some (some (beat0 .opn)) ∧ t.trainOf p.dst p.src 6 = some none
            ∧ held c g.recvCmd 0x4000 64 true = false ∧ absent c 0x4000 64 = false ∧ g.counter < 64
            ∧ (c.trainLink .north).wait = [] ∧ (e.2.2 = false → (c.trainLink .north).number e.2.1 = none
                ∧ (c.trainLink .north).freeNumber = some 0) ∧ (e.2.2 = true → (c.trainLink .north).number e.2.1 = some 6)) := by
  intro e he
  refine ⟨_, _, lands _ _ rfl rfl, rfl, ?_⟩
  revert e
  decide

/-- A CUT, an END and an OPEN of the generation just past and of another. -/
theorem witness_CreamBeats_discarded : ∀ e ∈ [(BeatKind.cut, (0 : BitVec 8)), (.cut, 5), (.fin 9, 0), (.fin 9, 5), (.opn, 0), (.opn, 5)],
    let b : CreamBeat := { beat0 e.1 with gen := e.2 }
    ∃ p t, Lands (sending (.creamHeader (headerWords 1 0 b) 5) id (creams (creamTag0 .join 1 (tile0 9) []))) p t
      ∧ p.body = .creamHeader (headerWords 1 0 b) 5 ∧ beatOfHdr (headerWords 1 0 b) = b ∧ t.trainOf p.dst p.src 5 = none
      ∧ fromDir t p.dst p.src = some .east ∧ (b.gen + 1 = ((t.core p.dst).cream 3).gen ↔ e.2 = 0)
      ∧ b.gen ≠ ((t.core p.dst).cream 3).gen := by
  intro e h
  refine ⟨_, _, lands _ _ rfl rfl, rfl, ?_⟩
  revert e
  decide

theorem witness_CreamBeats :
    (∀ k ∈ [BeatKind.opn, .fin 9], beatOfHdr (headerWords 1 0 (beat0 k)) = beat0 k)
    ∧ (∃ p t, Lands (sending (.creamHeader (headerWords 1 0 { beat0 .cut with src := 0 }) 64) id
          (creams (creamTag0 .bcast 0 (tile0 0) [branch0 .east false false, branch0 .north false false]))) p t
        ∧ beatOfHdr (headerWords 1 0 { beat0 .cut with src := 0 }) = { beat0 .cut with src := 0 }
        ∧ (let g := (t.core p.dst).cream 3; (g.train 0).isSome = true ∧ fromDir t p.dst p.src = some .east
          ∧ ((g.train 0).bind fun r => r.branch .east) = some (branch0 .east false false)))
    ∧ (let g := creamTag0 .bcast 0 (tile0 0) [branch0 .east false false]
       let b : CreamBeat := { beat0 .opn with src := 0 }
       let s : State := { world id (creams { g with trains := [{ src := 0, toSend := [b], branches := [branch0 .east false false], cutSent := false, ended := false }] }) with cur := (0, 7) }
       (s.here.live = true ∧ s.here.halted = false) ∧ s.mesh.length ≤ s.num ∧ (s.here.cream (s.cur.2.val % 4)).mode = .bcast
        ∧ ((s.here.cream 3).train 0).map (·.toSend) = some [b] ∧ b.gen = (s.here.cream 3).gen
        ∧ (s.here.trainLink .east).wait = [] ∧ (s.here.trainLink .east).number b = none ∧ (s.here.trainLink .east).freeNumber = some 0)
    ∧ (let g := creamTag0 .gather 0 (tile0 0) []
       let b : CreamBeat := { beat0 (.plane 1) with src := 0, data := [1, 2] }
       let s : State := { world id (creams { g with trains := [{ src := 0, toSend := [b], branches := [], cutSent := false, ended := false }] }) with cur := (0, 7) }
       let own := s.here.cream 3
       own.mode = .gather ∧ (own.train 0).map (·.toSend) = some [b] ∧ own.tiles[own.tileOf 0]? = some (tile0 0)
        ∧ held s.here own.recvCmd 0x4040 2 true = false ∧ absent s.here 0x4040 2 = false)
    ∧ (let s := world id (creams (creamTag0 .bcast 0 (tile0 0) [branch0 .east true true])); let g := s.here.cream 3
       g.busy = true ∧ g.mode = .bcast ∧ (g.train 0).map (·.ended) = some false ∧ (g.train 0).map (fun r => r.branches.all (·.ended)) = some true
        ∧ creamQueued s.here 3 = false ∧ (s.here.trainLink .east).wait = [])
    ∧ (let s : State := { State.reset with cores := [(1, creams (creamTag0 .join 0 (tile0 0) []) (core0 ctx0))] }
       neighbour s 0 .east = some 1 ∧ neighbour s 1 (oppositeDir .east) = some 0 ∧ (∀ i < 4, (s.here.cream i).trains = [])
        ∧ (∀ i < 4, i ≠ 3 → ((s.core 1).cream i).trains = []) ∧ ((s.core 1).cream 3).busy = true
        ∧ treeParent 0 1 = some (oppositeDir .east) ∧ ((s.core 1).cream 3).tiles = [tile0 0]) := by
  refine ⟨by decide, ⟨_, _, lands _ _ rfl rfl, by decide⟩, by decide, by decide, by decide, by decide⟩

/-! ## Hypotheses met: synchronisation -/

/-- x9 and x10 make a goal of 2^32 + 5; counters 0 to 2 below, at and broken; a CADD and a CRAISE of context 0 wait. -/
def counting (q : List SyncOp) (f : Ctx → Ctx := id) (source : Site := 0) : State :=
  world (fun x => f (regs [(9, 1), (10, 5)] x)) fun c => { c with
    role := { c.role with stepSource := source, launchRects := [⟨0, 0, 2, 1⟩] }
    sync := { c.sync with queue := q, counters := ((vset c.sync.counters 1 ⟨0x100000005, false⟩).set 2 ⟨0, true⟩) } }

theorem witness_CounterResults :
    (∀ i ∈ [Instr.cadd 9 .core 62, .craise 9 10 .core 62, .cread 4 63, .cread 0 1, .ctest 4 9 63, .cbrk 62, .cbrk 2, .cwait 9 10 .core 0,
      .cwait 9 10 .task 1, .cwait 9 10 .system 2, .stepadv, .steprd 4, .fence .system, .fencee], clear i (counting []) = true)
    ∧ (let c := (counting []).here; c.sync.queue = [] ∧ (c.counter 1).broken = false ∧ 0x100000005 ≤ (c.counter 1).value.toNat
      ∧ (c.counter 0).broken = false ∧ (c.counter 0).value.toNat < 0x100000005 ∧ (c.counter 2).broken = true
      ∧ releaseReady c 0 .device = true ∧ releaseReady c 0 .system = true ∧ acquireReady c 0 = true ∧ engineBusy c 0 = false ∧ c.role.stepSource = 0 ∧ (c.counter 63).value.toNat + 1 < 2 ^ 64)
    ∧ (counting []).me.kind = .ordinary
    ∧ (let s := counting [] fun x => { x with kind := .handler }; clear (.cwait 9 10 .core 0) s = true ∧ s.me.kind ≠ .ordinary)
    ∧ (let s := counting [] id 1; clear .stepadv s = true ∧ s.cur.1 ≠ s.here.role.stepSource)
    ∧ (∀ raise : Bool, let o : SyncOp := { ctx := 0, serial := 0, raise := raise, counter := 62, val := 5, after := 0, wide := true }
        let s := counting [o]
        (s.here.live = true ∧ s.here.halted = false) ∧ takeAt s.here.sync.queue s.num = some (o, []) ∧ s.here.msg.out = []
        ∧ edgeReading s.here o.ctx o.after = false ∧ (s.here.counter 62).value.toNat + o.val < 2 ^ 64 ∧ acquireReady s.here 0 = false
        ∧ ∀ i ∈ [Instr.cread 4 62, .ctest 4 9 62, .cbrk 62, .cwait 9 10 .core 62], clear i s = true) := by decide

/-- A CADD that comes to 2^64. -/
theorem witness_CounterOverflow :
    let o : SyncOp := { ctx := 0, serial := 0, raise := false, counter := 62, val := 5, after := 0, wide := false }
    let s := (counting [o]).onHere fun c => c.setCounter 62 ⟨0xFFFFFFFFFFFFFFFB, false⟩
    takeAt s.here.sync.queue s.num = some (o, []) ∧ 2 ^ 64 ≤ (s.here.counter 62).value.toNat + o.val
      ∧ (s.here.ctx 0).status ≠ .dormant ∧ (s.here.ctx 0).serial = 0 ∧ (s.here.ctx 0).pending.length < 16 := by decide

theorem witness_StepBeat : ∃ p t, Lands (sending .step) p t ∧ p.body = .step := ⟨_, _, lands _ _ rfl rfl, rfl⟩

/-- Barriers of core (0, 0): 0 idle, 1 configured for the core alone at GEN 2, generation 2 failed, 2 arrived
by context 5. -/
def barriers (c : Core) : Core :=
  let one : Barrier := { Barrier.blank with configured := true, rect := ⟨0, 0, 1, 1⟩ }
  ((c.onBar 1 fun _ => { one with gen := 2, failedGens := [2] }).onBar 2 fun _ =>
    { one with arrived := true, arriver := some (5, 0, 0) }).onBar 7 fun _ => { one with rect := ⟨0, 0, 2, 2⟩ }
def barrierState : State := world (regs [(9, 1), (10, 2), (11, 3)]) barriers

theorem witness_BarrierResults :
    (∀ i ∈ [Instr.barcfg 0 0, .barrive .core 1, .barwait 9 .core 1, .barwait 0 .task 2, .barwait 11 .task 1, .bartap 1 7],
      clear i barrierState = true)
    ∧ (let c := barrierState.here; let one : Rect := ⟨0, 0, 1, 1⟩
       barrierState.me.rpair 0 = 0 ∧ one.x0 + one.w ≤ 512 ∧ one.y0 + one.h ≤ barrierState.meshH
        ∧ one.inside c.role.partRect = true ∧ one.has 0 = true
        ∧ ((c.bar 0).arrived = false ∧ (c.bar 0).east = none ∧ (c.bar 0).north = none)
        ∧ ((c.bar 1).configured = true ∧ (c.bar 1).arrived = false ∧ (c.bar 1).tap = none ∧ (c.bar 1).gen ≠ 0xFFFFFFFF)
        ∧ (1 ≤ (c.bar 1).gen.toNat ∧ (∃ g ∈ (c.bar 1).failedGens, 1 ≤ g ∧ g ≤ (c.bar 1).gen.toNat) ∧ (c.bar 1).gen.toNat < 3)
        ∧ (0 ≤ (c.bar 2).gen.toNat ∧ (c.bar 2).failedGens = []) ∧ barrierState.me.kind = .ordinary ∧ acquireReady c 0 = true
        ∧ acquireReady (c.onBar 2 fun b => { b with arriver := some (0, 0, 0) }) 0 = false
        ∧ (∀ b ∈ c.sync.barriers.toList, b.tap ≠ some 7)) := by decide

theorem witness_BarrierBeats :
    (∃ p t, Lands (sending (.arrival 7 ⟨⟨0, 0, 2, 2⟩, false⟩) id barriers 1) p t
        ∧ p.body = .arrival 7 ⟨⟨0, 0, 2, 2⟩, false⟩ ∧ ((t.core p.dst).bar 7).configured = true
        ∧ ((t.core p.dst).bar 7).rect = ⟨0, 0, 2, 2⟩ ∧ ((t.core p.dst).bar 7).arrived = false
        ∧ ((t.core p.dst).bar 7).east = none ∧ ((t.core p.dst).bar 7).north = none ∧ neighbour t p.dst .east = some p.src)
    ∧ (∃ p t, Lands (sending (.arrival 7 ⟨⟨0, 0, 2, 2⟩, false⟩) id barriers 512) p t
        ∧ p.body = .arrival 7 ⟨⟨0, 0, 2, 2⟩, false⟩ ∧ ((t.core p.dst).bar 7).configured = true
        ∧ ((t.core p.dst).bar 7).rect = ⟨0, 0, 2, 2⟩ ∧ ((t.core p.dst).bar 7).arrived = false
        ∧ ((t.core p.dst).bar 7).east = none ∧ ((t.core p.dst).bar 7).north = none ∧ neighbour t p.dst .east ≠ some p.src)
    ∧ ∃ p t, Lands (sending (.release 7 ⟨0, 0, 2, 2⟩ 1 true) id barriers) p t ∧ p.body = .release 7 ⟨0, 0, 2, 2⟩ 1 true := by
  refine ⟨⟨_, _, lands _ _ rfl rfl, rfl, ?_, ?_, ?_, ?_, ?_, ?_⟩, ⟨_, _, lands _ _ rfl rfl, rfl, ?_, ?_, ?_, ?_, ?_, ?_⟩,
    _, _, lands _ _ rfl rfl, rfl⟩ <;> decide

/-- An arrival beat that completes a set: at a core of the bottom row, in the west column, and at the south-west corner. -/
theorem witness_BarrierBeats_last : ∀ e ∈ [((513 : Site), (514 : Site), (⟨0, 1, 3, 1⟩ : Rect)), (512, 1024, ⟨0, 0, 1, 3⟩), (0, 1, ⟨0, 0, 2, 1⟩)],
    let s : State := { State.reset with
      cores := [(e.1.toNat, (core0 ctx0).onBar 2 fun _ => { Barrier.blank with configured := true, rect := e.2.2, arrived := true, counted := true })]
      num := 0, mesh := [{ src := e.2.1, dst := e.1, cls := .control, ctx := 0, body := .arrival 2 ⟨e.2.2, false⟩ }] }
    ∃ p t, Lands s p t ∧ p.body = .arrival 2 ⟨e.2.2, false⟩ ∧ p.dst = e.1
      ∧ (let b := (t.core p.dst).bar 2; let r := b.rect
         b.configured = true ∧ r = e.2.2 ∧ b.arrived = true ∧ b.counted = true ∧ b.sent = false ∧ b.east = none ∧ b.north = none
          ∧ (neighbour t p.dst .east = some p.src ↔ e.1 ≠ 512) ∧ (e.1.x + 1 < r.x0 + r.w ↔ e.1 ≠ 512)
          ∧ (e.1.x = r.x0 ∧ e.1.y + 1 < r.y0 + r.h ↔ e.1 = 512) ∧ (r.x0 < e.1.x ↔ e.1 = 513) ∧ (r.y0 < e.1.y ↔ e.1 = 512)) := by
  intro e h
  refine ⟨_, _, lands _ _ rfl rfl, rfl, rfl, ?_⟩
  revert e
  decide

/-- The core at the east end of the bottom row of a barrier's rectangle. -/
def eastEnd : State := { State.reset with
  cores := [(1, (core0 ctx0).onBar 2 fun _ => { Barrier.blank with
    configured := true, rect := ⟨0, 0, 2, 1⟩, arrived := true, counted := true })], cur := (1, 0), num := 2 }

theorem witness_BarrierSends :
    (let s : State := { barrierState with num := 2 }; let b := s.here.bar 2
     (s.here.live = true ∧ s.here.halted = false) ∧ b.configured = true ∧ b.arrived = true ∧ b.sent = false
      ∧ b.arriver = some (5, 0, 0) ∧ releaseBefore s.here 5 0 b.wide = true ∧ b.rect = ⟨0, 0, 1, 1⟩)
    ∧ (eastEnd.here.bar 2).arriver = none ∧ (eastEnd.here.bar 2).counted = true ∧ eastEnd.cur.1.x = 1
    ∧ (eastEnd.here.bar 2).rect = ⟨0, 0, 2, 1⟩ := by decide

/-- Crossing 31 of core (0, 0), owned by context 0, its partner at site (1, 0). -/
def crossing0 : Crossing := { Crossing.blank with valid := true, partner := 1, pctx := 4, pk := 3 }
def crossings (f : Crossing → Crossing) (c : Core) : Core := c.onCrossing 31 fun _ => f crossing0
def reversal (f : Crossing → Crossing) : State :=
  world (fun x => { regs [(6, 0x10000001), (7, 0x300)] x with kind := .edgeReversal }) fun c =>
    let c := crossings f c
    { c with role := { c.role with launchRects := [⟨0, 0, 2, 1⟩] } }

theorem witness_EdgeReversalResults :
    (∀ i ∈ [Instr.erinit 6 0, .erdone .device, .erpass, .erhalt, .erchk 4 31, .erstat 4 0], clear i (reversal id) = true)
    ∧ (let s := reversal id; let c := s.here; let x := c.crossingAt 0
       (x.valid = false ∧ x.held = none ∧ x.clash = false) ∧ (s.me.rpair 6).toNat % 2 ^ 32 < 2 ^ 29 ∧ (s.me.rpair 6).toNat / 2 ^ 32 < 2 ^ 28
        ∧ (c.role.ord ≤ 4 ∧ 4 < c.role.ord + c.role.er) ∧ (∃ r ∈ c.role.launchRects, r.has 1 = true)
        ∧ inKind c.role [.data] 0x3000 16 = true ∧ releaseReady c 0 .device = true
        ∧ (s.me.kind = .edgeReversal ∧ vecPending c 0 = false ∧ ownedBy c 0 = [31] ∧ (c.crossingAt 31).partner ≠ 0
          ∧ inScope 0 (c.crossingAt 31).partner .device = true))
    ∧ (let x := (reversal fun y => { y with paired := true }).here.crossingAt 31
       x.valid = true ∧ x.mismatch = false ∧ x.paired = true ∧ x.initFace ≠ keyLt (ownKey (reversal id).here 0 x) (partnerKey x))
    ∧ (let x := (reversal fun y => { y with paired := true, initFace := true }).here.crossingAt 31
       x.initFace = keyLt (ownKey (reversal id).here 0 x) (partnerKey x)) := by decide

/-- The owner of crossing 31 alone, its partner entry 3 of its own core, under another context. -/
theorem witness_EdgeReversalResults_near :
    let c := (reversal fun y => { y with partner := 0 }).here
    ownedBy c 0 = [31] ∧ ((c.crossingAt 31).partner == 0) = true ∧ (c.crossingAt 31).pk = 3 ∧ 3 ∉ ownedBy c 0
      ∧ inScope 0 (c.crossingAt 31).partner .device = true ∧ vecPending c 0 = false := by decide

/-- A context that waits. -/
def waitingFor (w : Wait) (i : Instr := .barwait 9 .core 1) : State := world (fun x => { x with status := .waiting w i }) fun c =>
  { (barriers c).onRing 1 fun _ => { Ring.blank with ns := 2, fill := 1, fail := true } with
    sync := { (barriers c).sync with counters := (barriers c).sync.counters.set 2 ⟨0, true⟩ } }

theorem witness_EdgeReversalAndWakeRows :
    (∀ e ∈ [(Body.handshake 31 ⟨1, 4, 3, 0, 0⟩, true), (.handshake 0 ⟨1, 4, 3, 0, 0⟩, false), (.mismatch 31, true), (.flip 31, true), (.halt 31, true)],
      ∃ p t, Lands (sending e.1 id (crossings id)) p t ∧ p.body = e.1 ∧ 31 < (t.core p.dst).role.crossings
        ∧ ((t.core p.dst).crossingAt 31 = crossing0 ∧ crossing0.partner = 1 ∧ crossing0.pctx = 4 ∧ crossing0.pk = 3 ∧ crossing0.octx = 0)
        ∧ (((t.core p.dst).crossingAt 0).valid = false ∧ ((t.core p.dst).crossingAt 0).held = none))
    ∧ (let s := world (fun x => { x with kind := .edgeReversal, status := .dormant }) (crossings fun y => { y with paired := true, face := true })
       (s.here.live = true ∧ s.here.halted = false) ∧ s.me.kind = .edgeReversal ∧ s.me.status = .dormant ∧ s.me.retired = false
        ∧ s.here.late = [] ∧ acquireReady s.here 0 = true ∧ ownedBy s.here 0 = [31] ∧ (s.here.crossingAt 31).paired = true ∧ (s.here.crossingAt 31).face = true
        ∧ absent s.here 0 16 = false)
    ∧ (∀ w ∈ [Wait.counter 0 0, .counter 2 9, .barrier 2 0, .barrier 1 1, .ringFilled 1 1, .ringFilled 1 2, .ringFree 1 1], let s := waitingFor w
       (s.here.live = true ∧ s.here.halted = false) ∧ s.me.status = .waiting w (.barwait 9 .core 1) ∧ acquireReady s.here 0 = true
        ∧ s.me.pending = [])
    ∧ (let c := (waitingFor (.counter 0 0)).here
       1 ≤ (c.bar 1).gen.toNat ∧ (∃ f ∈ (c.bar 1).failedGens, 1 ≤ f ∧ f ≤ (c.bar 1).gen.toNat)
        ∧ (c.counter 0).broken = false ∧ (c.counter 2).broken = true ∧ (c.bar 2).failedGens = [] ∧ (c.ring 1).fill = 1
        ∧ (c.ring 1).fail = true ∧ (c.ring 1).ns = 2) := by
  refine ⟨?_, by decide, by decide, by decide⟩
  intro e h
  refine ⟨_, _, lands _ _ rfl rfl, rfl, ?_⟩
  revert e
  decide

/-! ## Hypotheses met: streams, links, stations -/

/-- SG0 and SG1: a pattern of 16 words from 0x3000. -/
def sg0 : SG := (Vector.replicate 8 0).set 0 (BitVec.ofNat 64 (16 * 2 ^ 48 + 0x3000))
/-- Descriptors of the transfers at 0x2000 and every 32 bytes from there; x2 to x6 point at them; ring 1 configured; slot 6
faulted, slot 7 busy with a stream. -/
def job0 (m : StreamCmd) : StreamJob := { (default : StreamJob) with id := 3, cmd := m, sg := sg0, daddr := 0x4000, counter := 62, inc := 1, edge := edgeSide m false }
def streams : State :=
  { world (fun x => { regs [(2, 0x2000), (3, 0x2020), (4, 0x2040), (5, 0x2060), (9, 0x13E01), (10, 0x100), (11, 2), (12, 3), (13, 1)] x with sg := sg0 }) fun c =>
    { (((c.put 0x2000 (wordBytes [0, 0x4000, 0x3E0001, 0, 0, 0, 0, 0, 0, 0, 0x80000000, 0, 0x10000, 0, 0, 0,
        0x40000, 0x4000, 0x3E0001, 0, 0, 0, 0, 0])).onRing 1 fun _ => { Ring.blank with base := 0x20000, sz := 64, ns := 2 }).onSlot 6
          fun t => { t with state := .faulted, fsub := 1, job := some (job0 .sload) }).onSlot 7
          fun t => { t with state := .active, job := some (job0 .scopy) } with
      role := { c.role with regions := ⟨0x40000, 0x100, .code⟩ :: c.role.regions } } with modules := [0, 1] }

theorem witness_StreamCommands :
    (∀ i ∈ [Instr.sgeom 2 0, .sgeom 0 7, .sgeom 2 8, .scopy 2 .core 0, .sload 2 .device 5, .sstore 2 .core 0, .sfeed 3 0, .sdrain 3 1,
      .sred 2 .system 0, .sxput 4 .core 0, .simg 13 10 0, .sbar 0xFF, .scancel 0, .scancel 7, .sresume 6, .sstat 4 0 7, .sstat 4 13 6,
      .sstat 4 11 6, .sstat 4 12 0], clear i streams = true)
    ∧ (Readable streams 0x2000 8 64 ∧ Readable streams 0x2000 32 32 ∧ Readable streams 0x2020 32 32 ∧ Readable streams 0x2040 32 32)
    ∧ (let f (i : Instr) (n : Nat) (m : StreamCmd) :=
        streamFault streams i (BitVec.ofNat 32 (0x2000 + 32 * n)) 0 m (streamDesc streams.here (0x2000 + 32 * n)) sg0
       f (.scopy 2 .core 0) 0 .scopy = none ∧ f (.sload 2 .core 0) 0 .sload = none ∧ f (.sstore 2 .core 0) 0 .sstore = none
        ∧ f (.sfeed 3 0) 1 .sfeed = none ∧ f (.sdrain 3 0) 1 .sdrain = none ∧ f (.sred 2 .core 0) 0 .sred = none
        ∧ f (.sxput 4 .core 0) 2 .sxput = none)
    ∧ (vget streams.here.slots 0).state = .idle ∧ (vget streams.here.slots 0).job = none ∧ streams.here.locks = []
    ∧ ((vget streams.here.slots 7).job = some (job0 .scopy) ∧ granuleBegun streams 0 7 (job0 .scopy) = false)
    ∧ ((vget streams.here.slots 6).state = .faulted ∧ (vget streams.here.slots 6).fsub = 1)
    ∧ (let v := 1; v % 4 = 1 ∧ v / 2 ^ 8 % 2 ^ 6 ≠ 63 ∧ sgBad sg0 true = false ∧ sgLen sg0 = 64
      ∧ (streams.here.role.regions.filter fun r => r.kind == .code)[1]? = some ⟨0, 0x1000, .code⟩ ∧ 0x100 % 4 = 0 ∧ 0x100 + 64 ≤ 0x1000
      ∧ localOutside streams.here.role streamReads (sgSpan sg0).1 (sgSpan sg0).2 = none)
    ∧ (streams.me.rx 12).toNat = 3 ∧ streams.me.rx 13 = 1 ∧ streams.me.rx 11 = 2 := by
  refine ⟨by decide, ⟨?_, ?_, ?_, ?_⟩, by decide, by decide, by decide, by decide, by decide, by decide, by decide, by decide, by decide, by decide⟩ <;>
    exact ⟨by decide, by decide, by decide, by decide, by decide⟩

/-- A core whose slot 7 holds a stream. -/
def streaming (st : SlotState) (j : StreamJob) (f : State → State := id) : State :=
  f { world id fun c => c.onSlot 7 fun t => { t with state := st, job := some j } with num := 7 }
def edgeReq0 (op : EdgeOp) : EdgeReq := { site := 0, slot := 7, id := 3, va := 0, dev := 0x100, len := 64, aliasPg := none, op := op }
def contribution0 : Contribution := { (default : Contribution) with data := [0, 0, 0x80, 0x3F], source := 1 }
def merge0 : Merge := { (default : Merge) with target := 0x100, parts := [contribution0] }

theorem witness_StreamRows :
    (∀ e ∈ [(SlotState.held, StreamCmd.sload, 0), (.active, .scopy, 0), (.active, .scopy, 64)],
      let j : StreamJob := { job0 e.2.1 with start := e.2.2 }; let s := streaming e.1 j
      (s.here.live = true ∧ s.here.halted = false) ∧ s.num < 8 ∧ (vget s.here.slots s.num).state = e.1
        ∧ (vget s.here.slots s.num).job = some j ∧ j.waits = [] ∧ j.busy = false ∧ streamOver j = decide (e.2.2 = 64)
        ∧ j.remote = false ∧ j.cancel = false ∧ j.bytes = false ∧ j.nc = false ∧ j.counter < 64
        ∧ (s.here.counter j.counter).value.toNat + j.inc < 2 ^ 64)
    ∧ (let j := job0 .scopy; let c := (streaming .active j).here
       granuleLen j.sg 0 = 64 ∧ sgAddr j.sg 0 = 0x3000 ∧ streamReady c j 0x3000 64 false = true ∧ streamReady c j 0x4000 64 true = true
        ∧ c.scratch.bad ++ c.scratch.soft = [])
    ∧ (∀ e ∈ [(EdgeOp.read, StreamCmd.sload), (.write [1, 2], .sstore)],
        let s := streaming .active (job0 e.2) fun s => { s with num := 0, edgeReqs := [edgeReq0 e.1] }
        takeAt s.edgeReqs s.num = some (edgeReq0 e.1, []) ∧ (s.core 0).jobOf 7 3 = some (job0 e.2)
        ∧ deviceBad s 0x100 64 = false ∧ edgeBadPart s 0x100 64 = false ∧ streamReady (s.core 0) (job0 e.2) 0x4000 64 true = true)
    ∧ (takeAt [contribution0] 0 = some (contribution0, []) ∧ contribution0.window.rop = 0)
    ∧ (takeAt [merge0] 0 = some (merge0, []) ∧ merge0.window.home = State.reset.sysNum ∧ merge0.window.rop = 0
      ∧ (∀ q ∈ merge0.parts, q.source ≠ State.reset.sysNum) ∧ deviceBad State.reset 0x100 4 = false
      ∧ deviceBad { State.reset with edgeBad := [0x100] } 0x100 4 = true) := by decide

theorem crcBits_lt (v : Nat) : ∀ n c, c < 2 ^ 16 → crcBits v n c < 2 ^ 16
  | 0, _, h => h
  | n + 1, c, _ => by
    unfold crcBits
    apply crcBits_lt
    have h : c * 2 % 2 ^ 16 < 2 ^ 16 := Nat.mod_lt _ (by decide)
    split
    · exact Nat.xor_lt_two_pow h (by decide)
    · exact h

/-- A flit of class 0 with SEQ 0 is good, whatever the CRC starts from. -/
theorem flitGood_mkFlit (type : Nat) (h : type < 4) (data : BitVec 512) : flitGood (mkFlit 0 type 0 data) = true := by
  have lt : flitCrc data (type * 2 ^ 12) < 2 ^ 16 := crcBits_lt _ _ _ Config.crcInit.isLt
  have e : (mkFlit 0 type 0 data).ctl.toNat = type * 2 ^ 12 * 2 ^ 16 + flitCrc data (type * 2 ^ 12) := by
    have z : (0 : BitVec 12).toNat = 0 := rfl
    simp only [mkFlit, BitVec.toNat_ofNat, Nat.zero_mul, Nat.zero_add, z, Nat.add_zero]
    omega
  have hi : bitsN (mkFlit 0 type 0 data).ctl.toNat 31 16 = type * 2 ^ 12 := by unfold bitsN; rw [e]; omega
  have lo : bitsN (mkFlit 0 type 0 data).ctl.toNat 15 0 = flitCrc data (type * 2 ^ 12) := by unfold bitsN; rw [e]; omega
  unfold flitGood
  rw [hi, lo]
  simp only [mkFlit, beq_self_eq_true]

/-- Its type is the one it was made with, and its SEQ is 0. -/
theorem flitType_mkFlit (type : Nat) (h : type < 4) (data : BitVec 512) :
    flitType (mkFlit 0 type 0 data) = type ∧ flitSeq (mkFlit 0 type 0 data) = 0 := by
  have lt : flitCrc data (type * 2 ^ 12) < 2 ^ 16 := crcBits_lt _ _ _ Config.crcInit.isLt
  have e : (mkFlit 0 type 0 data).ctl.toNat = type * 2 ^ 12 * 2 ^ 16 + flitCrc data (type * 2 ^ 12) := by
    have z : (0 : BitVec 12).toNat = 0 := rfl
    simp only [mkFlit, BitVec.toNat_ofNat, Nat.zero_mul, Nat.zero_add, z, Nat.add_zero]
    omega
  refine ⟨by unfold flitType bitsN; rw [e]; omega, ?_⟩
  have : bitsN (mkFlit 0 type 0 data).ctl.toNat 27 16 = 0 := by unfold bitsN; rw [e]; omega
  unfold flitSeq
  rw [this]
  rfl

/-- A head flit (of a packet of one flit, if its data say so) and a data flit. -/
theorem witness_LinkRows :
    (∀ data : BitVec 512, ∀ type < 2, flitGood (mkFlit 0 type 0 data) = true ∧ flitType (mkFlit 0 type 0 data) = type
      ∧ flitSeq (mkFlit 0 type 0 data) = (vget State.reset.links 31).recvSeq) ∧ (vget State.reset.links 31).state = .up
    ∧ (((1 : BitVec 512) <<< 272).toNat / 2 ^ 272 % 2 ^ 4 = 1 ∧ (unpack State.reset 31 [mkFlit 0 0 0 (1 <<< 272)]).isSome = true)
    ∧ (State.reset.core 0).halted = false
    ∧ (let a := mkFlit 0 0 0 0; let l : Link := { Link.blank with held := [] ++ a :: [] }
       l.state = .up ∧ l.held = [] ++ a :: [] ∧ l.held ≠ [] ∧ ∀ g ∈ ([] : List Flit), flitSeq g ≠ flitSeq a)
    ∧ { Link.blank with state := .retraining }.state = .retraining := by
  refine ⟨fun data type h => ⟨flitGood_mkFlit type (by omega) data, (flitType_mkFlit type (by omega) data).1, ?_⟩, ?_, ?_, ?_, ?_, ?_⟩
  · exact (flitType_mkFlit type (by omega) data).2
  · decide
  · exact ⟨by decide, by decide⟩
  · decide
  · exact ⟨rfl, rfl, by simp, by simp⟩
  · rfl

theorem witness_QueueRegisters : uploadOnly State.reset = false ∧ 32767 < 32768
    ∧ (let q := State.reset.queue 32767; q.submit.toNat ≤ 1 ∧ 1 - q.taken.toNat ≤ 2 ^ q.log2 ∧ 2 ^ q.log2 < 2 - q.taken.toNat ∧ q.en = false)
    ∧ (let s : State := { State.reset with station := { State.reset.station with queues := [(3, { Queue.blank with submit := 5, en := true })] } }
       4 < (s.queue 3).submit.toNat ∧ (s.queue 3).en = true) := by decide

/-! ## Hypotheses met: launches and stations -/

/-- A module whose fields all serve. -/
def station0 : Station := { Station.reset with state := .full, fields := Vector.replicate 64 { Field.blank with state := .service } }
/-- A partition over the whole mesh, its pool of some pages. -/
def pool0 (pages : Nat) : Partition := { fx := 0, fy := 0, fw := 8, fh := 7, poolBase := 0, poolSize := 1024 * pages }
/-- The role of a launch with one core, and the launch. -/
def role1 (id : Nat) : RoleInfo := { placedRole with launch := id }
def launchOf (id prio : Nat) (phase : Phase) : Launch :=
  { (default : Launch) with id := id, queue := 3, prio := prio, roles := [{ info := role1 id, content := [] }], phase := phase }
/-- The module with those launches, core (0, 0) as `c`. -/
def station1 (ls : List Launch) (c : Core) (num : Nat) : State :=
  { State.reset with station := { station0 with launches := ls, partitions := [pool0 0] }, cores := [(0, c)], num := num }
/-- The core of launch 1, running or at rest. -/
def core1 (x : Ctx) : Core := { core0 x with role := role1 1 }

/-- A record at 0x1000 of host memory, named by the first entry of queue 3. -/
def recordState : State :=
  { State.reset with
    station := { station0 with queues := [(3, { Queue.blank with en := true, submit := 1 })] }, num := 3
    host := writeBytes [(1, 0x10)] 0x1000 (wordBytes [0x52_39_57_4C, 64]) }

theorem witness_LaunchRows :
    (recordState.num ≠ 0 ∧ nextRecord recordState 3 = some 0x1000 ∧ queueHeld recordState 3 = false ∧ queueTurn recordState 3 = true
      ∧ recordReadable (recordState.hostRead 0 0x1000 64) = true)
    ∧ (let l := launchOf 1 0 .waiting; let s := station1 [l] Core.blank 1
       s.launch s.num = some l ∧ l.phase = .waiting ∧ serving s = true ∧ behind s l = false ∧ rectsFree s l = true ∧ pagesFree s l = true)
    ∧ (let l := launchOf 1 0 .placed; let s := station1 [l] (core1 Ctx.blank) 1
       s.launch s.num = some l ∧ l.phase = .placed ∧ ∀ x ∈ l.roles, ∀ y ∈ l.roles, y = x)
    ∧ (let l := launchOf 1 0 .running; let s := station1 [l] (core1 Ctx.blank) 1
       s.launch s.num = some l ∧ l.phase = .running ∧ launchQuiescent s l = true) := by decide

theorem witness_LaunchPlacement :
    let l := launchOf 1 0 .waiting
    ∀ p ∈ l.sites, ((station1 [l] Core.blank 1).core p).msg.requests = [] := by
  intro l p h
  have one : l.sites = [0] := by decide
  rw [one, List.mem_singleton] at h
  subst h
  rfl

/-- A saved launch, and the partition with a pool of one page. -/
def saved1 : Launch := { launchOf 1 0 .saved with saved := [(0, core1 ctx0)] }
def pooledFor (pages : Nat) (s : State) : State := { s with station := { s.station with partitions := [pool0 pages] } }
def pooled : State → State := pooledFor 1
def page0 (owner : Option Nat) (away : Bool) (c : Core) : Core :=
  { c with scratch := { c.scratch with pages := [(0, { owner := owner, absent := away })] } }
/-- Page 0 of core (0, 0) as it went to slot 0 of the pool. -/
def evicted0 : Evicted :=
  { launch := 1, site := 0, page := 0, part := 0, slot := 0, plain := [1], cipher := readBytes [] 0 1024, bad := [], digest := 0 }

/-- A launch that waits for the core of launch 1. -/
def incoming2 : Launch := { launchOf 2 5 .waiting with roles := [{ info := { role1 2 with regions := [] }, content := [] }] }

/-- The pool of a partition has as many pages as the saves before it need, however large a saved state is. -/
theorem witness_Preempt : ∃ n,
    let l := incoming2
    let m := launchOf 1 0 .running; let s := pooledFor n (station1 [l, m] (core1 ctx0) 2)
    s.launch s.num = some l ∧ l.phase = .waiting ∧ serving s = true ∧ behind s l = false ∧ fieldsServe s l = true
      ∧ inTheWay s l = [m] ∧ m.prio < l.prio ∧ m.phase = .running ∧ (∀ p ∈ m.sites, lateStuck (s.core p) = false)
      ∧ poolHolds s l (inTheWay s l) = true := by
  let n := spillOf (station1 [incoming2, launchOf 1 0 .running] (core1 ctx0) 2) (launchOf 1 0 .running)
  refine ⟨n, rfl, rfl, rfl, by decide, by decide, by decide, by decide, rfl, ?_, ?_⟩
  · intro p h
    have one : (launchOf 1 0 .running).sites = [0] := by decide
    rw [one, List.mem_singleton] at h
    subst h
    rfl
  have w : inTheWay (pooledFor n (station1 [incoming2, launchOf 1 0 .running] (core1 ctx0) 2)) incoming2 = [launchOf 1 0 .running] := by
    decide
  have slots : poolSlots (pooledFor n (station1 [incoming2, launchOf 1 0 .running] (core1 ctx0) 2)) 0 = n := by
    show 1024 * n / 1024 = n
    omega
  have owned : ownedPages (pooledFor n (station1 [incoming2, launchOf 1 0 .running] (core1 ctx0) 2)) incoming2 = 0 := by decide
  have used : poolUsed (pooledFor n (station1 [incoming2, launchOf 1 0 .running] (core1 ctx0) 2)) 0 = [] := rfl
  have part : incoming2.partition = 0 := rfl
  simp only [poolHolds, w, part, slots, owned, used, List.length_nil, Nat.zero_add, Nat.add_zero, decide_eq_true_eq]
  exact Nat.le_refl _

theorem witness_Drain : ∃ n,
    let l := launchOf 1 0 .draining; let s := pooledFor n (station1 [l] (core1 ctx0) 1)
    s.launch s.num = some l ∧ l.phase = .draining ∧ drained s l = true ∧ l.cancelled = none ∧ launchQuiescent s l = false
      ∧ spillOf s l + (poolUsed s l.partition).length ≤ poolSlots s l.partition := by
  let n := spillOf (station1 [launchOf 1 0 .draining] (core1 ctx0) 1) (launchOf 1 0 .draining)
  refine ⟨n, rfl, rfl, by decide, rfl, by decide, ?_⟩
  have slots : poolSlots (pooledFor n (station1 [launchOf 1 0 .draining] (core1 ctx0) 1)) 0 = n := by
    show 1024 * n / 1024 = n
    omega
  show n + 0 ≤ poolSlots (pooledFor n (station1 [launchOf 1 0 .draining] (core1 ctx0) 1)) 0
  omega

theorem witness_Resume :
    let s := station1 [saved1] Core.blank 1
    s.launch s.num = some saved1 ∧ saved1.phase = .saved ∧ serving s = true ∧ behind s saved1 = false ∧ rectsFree s saved1 = true
      ∧ (∀ p ∈ saved1.sites, (s.core p).msg.requests = []) ∧ saved1.saved = [(0, core1 ctx0)] :=
  ⟨rfl, by decide, by decide, by decide, by decide, fun p hp => by
    have h : saved1.sites = [0] := by decide
    rw [h, List.mem_singleton] at hp
    subst hp
    rfl, rfl⟩

theorem witness_PageEviction :
    let s := pooled (station1 [saved1, launchOf 2 5 .waiting] (page0 (some 1) false Core.blank) 0)
    assocGet s.here.scratch.pages 0 = some { owner := some 1, absent := false } ∧ s.launch 1 = some saved1
      ∧ pageWanted s 0 0 { owner := some 1, absent := false } = true ∧ freePoolSlot s saved1.partition = some 0 :=
  ⟨by decide, rfl, by decide, by decide⟩

theorem witness_PageRestore :
    let s := pooled (station1 [launchOf 1 0 .running] (page0 none true (core1 ctx0)) 0)
    let s : State := { s with station := { s.station with evicted := [evicted0] } }
    assocGet s.here.scratch.pages 0 = some { owner := none, absent := true } ∧ s.here.live = true
      ∧ (s.station.evicted.find? fun e => e.launch == s.here.role.launch && e.site == (0 : Site).toNat && e.page == 0) = some evicted0
      ∧ (poolOf s evicted0.part).1 + 1024 * evicted0.slot = 0 ∧ readBytes s.edge 0 1024 = evicted0.cipher
      ∧ deviceBad s 0 1024 = false ∧ evicted0.bad = [] := ⟨by decide, by decide, rfl, by decide, rfl, by decide, rfl⟩

/-- A record of queue 0 at 0x1000 of host memory: its command and the words from byte 16 on. -/
def adminState (code : Nat) (args : List Nat) (ls : List Launch) : State :=
  { State.reset with
    station := { station0 with launches := ls, queues := [(0, { Queue.blank with en := true, submit := 1 })] }, cores := [(0, core1 Ctx.blank)]
    host := writeBytes [(1, 0x10)] 0x1000 (wordBytes ([0x41_39_57_4C, code, 0x2000, 0] ++ args)) }

/-- That a record may be read, and holds the command. -/
def adminHolds (code : Nat) (args : List Nat) (ls : List Launch) : Bool :=
  let s := adminState code args ls
  let r := s.hostRead (s.queue 0).port 0x1000 adminBytes
  nextRecord s 0 == some 0x1000 && adminReadable r && fieldAt r 4 4 == code

/-- Each command's record with arguments that pass its checks. -/
def adminRecord (args : List Nat) : List Byte := (adminState 1 args []).hostRead 0 0x1000 adminBytes

theorem witness_AdministrationRecords : ∀ e ∈ [(1, [1, 0xDC0, 0, 0, 0, 0]), (2, [8191, 0, 0, 0, 0, 0]),
      (3, [0, 0, 4096, 0, 0, 0, 0, 0, 0x8001]), (4, [1]), (5, [8191]), (6, []), (7, [7]), (7, [3])],
    adminHolds e.1 e.2 [] = true := by decide

theorem witness_ConfigurePartitions :
    let s := adminState 1 [1, 0, 0, 0, 0, 0] [launchOf 1 0 .running]
    let q : Partition := { fx := 0, fy := 0, fw := 1, fh := 1, poolBase := 0, poolSize := 0 }
    let t : State := { s with station := { s.station with partitions := [q] } }
    recPartitions (adminRecord [1, 0, 0, 0, 0, 0]) = some [q]
      ∧ (configure t (adminRecord [1, 0, 0, 0, 0, 0])).map (·.2) = some none := by
  refine ⟨?_, ?_⟩ <;> decide

theorem witness_AdministrationCommands : (fieldAt (adminRecord [8191]) 16 4 = 8191 ∧ translatedFor (adminState 2 [] []) 8191 = false)
    ∧ (fieldAt (adminRecord [0, 0, 4096, 0, 0, 0, 0, 0, 0x8001]) 48 4 = 0x8001 ∧ 0 ∈ (adminState 3 [] []).modules)
    ∧ fieldAt (adminRecord []) 48 8 % 64 = 0 ∧ (adminState 4 [1] []).launch 1 = none := by decide

theorem witness_Cancel : ∀ ph ∈ [Phase.waiting, .running], let s := adminState 4 [1] [launchOf 1 0 ph]
    s.launch 1 = some (launchOf 1 0 ph) ∧ launchBusy s (launchOf 1 0 ph) = false := by decide

/-- A field in a state, number 63. -/
def fieldState (st : FieldState) (f : Station → Station := id) : State :=
  { State.reset with num := 63, station := f { station0 with fields := Vector.replicate 64 { Field.blank with state := st, opp := 10 } } }

theorem witness_StationRows :
    (let s := fieldState .service
     s.num < 64 ∧ s.station.state = .full ∧ (s.field s.num).state = .service ∧ (s.field s.num).opp ≤ 10 ∧ s.station.clamped = false
      ∧ s.station.lowSamples + 1 < 100)
    ∧ (49152 < 49153 ∧ 16383 < 16384 ∧ 8000 < 8001 ∧ 7599 < 7600)
    ∧ (let s := fieldState .testing; (s.field s.num).state = .testing
       ∧ ([5, 5] : List Nat).eraseDups.length ≤ 1 ∧ ¬ ([5, 6] : List Nat).eraseDups.length ≤ 1)
    ∧ uploadOnly (fieldState .service fun t => { t with state := .failed, sigBad := true }) = true
    ∧ (let s := pooled (station1 [launchOf 1 0 .running] (core1 { ctx0 with status := .waiting (.counter 0 1) (.cwait 0 1 .core 0) }) 0)
       s.station.partitions[0]?.isSome = true ∧ (∀ e ∈ s.cores, (∀ k : CtxNo, (e.2.ctx k).tlevel = 0) ∧ e.2.progress = false)
        ∧ (s.cores.flatMap fun e => waitEntries e.1 e.2) ≠ [])
    ∧ (let c := { core1 ctx0 with progress := true }
       let s := pooled (station1 [launchOf 1 0 .running] c 0)
       ∃ e ∈ s.cores, e.2.live = true ∧ e.2.progress = true)
    ∧ (let s := station1 [launchOf 1 0 .running] (core1 ctx0) 0
       (s.field s.num).state = .service ∧ ∃ l ∈ s.station.launches, l.resident = true ∧ ∃ r ∈ l.rects, r.meets (fieldRect 0) = true) := by
  refine ⟨by decide, by decide, by decide, by decide, ?_, ?_, ?_⟩ <;> decide

/-! ## Hypotheses met: the order of accesses (log entry 4) and the turns of a step -/

/-- The turn of a context whose words decode to i, all of them fetched. -/
theorem fetches_of {u : State} {i : Instr} {tail : List Byte} (h : Issues u)
    (d : decode (u.here.bytes u.me.pc.toNat 12) = some (i, tail)) (f : ∀ j < 3, fetchFault u (u.me.pc.toNat + 4 * j) = none)
    (b : fetchBad u = none) : Fetches u i :=
  ⟨h, b, tail, d, fun j hj => f j (by omega)⟩

/-- A context about to issue i, the turn being of a kind; x10 points at a word of the data region. -/
def issuing (t : Turn) (i : Instr) (g : Core → Core := id) : State :=
  { fetching ((encode i).headD 0) 0 0 (regs [(10, 0x2010)]) g with agenda := [t] }

/-- Accesses whose turn lets them be performed later. -/
def latecomers : List Instr :=
  [.lb 4 10 .plain .task 0, .lbn 4 10 .plain .task 0, .lh 4 10 .plain .task 0, .lhn 4 10 .plain .task 0, .lw 4 10 .plain .task 0,
    .ld 4 10 .plain .task 0, .sb 4 10 .plain .task 0, .sh 4 10 .plain .task 0, .sw 4 10 .plain .task 0, .sd 4 10 .plain .task 0,
    .sw 4 10 .rl .core 0, .amocas 4 10 (.pair 0) .plain .task] ++ amoRows 4 10 (.reg 5) .plain .task

/-- For LoadResults, StoreResults and AtomicResults. -/
theorem witness_IssueLate : ∀ i ∈ latecomers,
    let s := issuing (.issueLate 0 0) i
    let u := turnOf s
    s.agenda = [.issueLate 0 0] ∧ Fetches u i ∧ Alone u ∧ clear i u = true
      ∧ (∀ n ∈ [1, 2, 4, 8], Reaches u .load (eaOf u 10 0 n) n ∧ Reaches u .store (eaOf u 10 0 n) n)
      ∧ u.here.scratch.bad ++ u.here.scratch.soft = [] := by
  have h : ∀ i ∈ latecomers,
      let u := turnOf (issuing (.issueLate 0 0) i)
      (decode (u.here.bytes u.me.pc.toNat 12)).map (·.1) = some i ∧ (∀ j < 3, fetchFault u (u.me.pc.toNat + 4 * j) = none)
        ∧ u.issuing = true ∧ u.me.pending = [] ∧ fetchStalls u = false ∧ fetchBad u = none ∧ clear i u = true
        ∧ ∀ n ∈ [1, 2, 4, 8], (accessFault u.here u.cur.2 .load (eaOf u 10 0 n) n = none ∧ absent u.here (eaOf u 10 0 n) n = false)
          ∧ accessFault u.here u.cur.2 .store (eaOf u 10 0 n) n = none := by decide
  intro i hi s u
  obtain ⟨d, f, hi1, hp, hf, hb, hc, hr⟩ := h i hi
  obtain ⟨⟨j, tail⟩, hd, rfl⟩ := Option.map_eq_some_iff.mp d
  exact ⟨rfl, fetches_of ⟨hi1, .inr hp, hf⟩ hd f hb, ⟨rfl, rfl⟩, hc, fun n hn => ⟨(hr n hn).1, (hr n hn).2, (hr n hn).1.2⟩, rfl⟩

/-- An access still to be performed: its turn comes. -/
def waitingAccess (op : LateOp) : State :=
  { world (regs [(10, 0x2010)]) fun c => { c with late := [inFlight 0 0 op] } with agenda := [.perform 0 0] }

theorem witness_PerformLate : ∀ op ∈ [LateOp.load 0x2010 (.lw 4 10 .plain .task 0), .store [(0x2010, [1, 2, 3, 4])] none 0,
      .amo 0x2010 4 0 5 none 0, .amo 0x2010 4 9 0x500000000 none 0, .amo 0x2010 4 9 0x500000001 none 0,
      .rewrite [(0x2010, [1, 2, 3, 4])]],
    let s := waitingAccess op; let c := s.core 0
    s.agenda = [.perform 0 0] ∧ c.live = true ∧ (c.ctx 0).status ≠ .dormant ∧ (c.ctx 0).serial = 0
      ∧ c.late = [inFlight 0 0 op] ∧ absent c 0x2010 4 = false ∧ c.scratch.bad ++ c.scratch.soft = [] := by decide

/-- A state whose core is `guarded`, with x10 an address. -/
def guardedAt (a : Word) : State := { State.reset with cores := [(0, { guarded with ctxs := guarded.ctxs.set 0 (regs [(10, a)] ctx0) })] }

theorem witness_AccessFaults :
    (∀ e ∈ [(Instr.lh 4 10 .plain .task 0, (0x2001 : Word), Access.load, 2), (.amoadd 4 10 (.reg 5) .plain .task, 0x2002, .store, 4),
        (.lb 4 10 .plain .task 0, 0x40000, .load, 1), (.sw 4 10 .plain .task 0, 0xFFC, .store, 4),
        (.lbn 4 10 .plain .task 0, 0x200F, .load, 1), (.sb 4 10 .plain .task 0, 0x2010, .store, 1),
        (.ld 4 10 .plain .task 0, 0x2020, .load, 8), (.sw 4 10 .plain .task 0, 0x2024, .store, 4), (.sd 4 10 .plain .task 0, 0x2020, .store, 8)],
      clear e.1 (guardedAt e.2.1) = true ∧ scalarAccess (guardedAt e.2.1) e.1 = some (e.2.2.1, e.2.1.toNat, e.2.2.2))
    ∧ (0x2001 % 2 ≠ 0 ∧ 0x2002 % 4 ≠ 0)
    ∧ ∀ l ∈ guarded.locks, l.meets 0x2020 8 = false ∧ l.meets 0x2024 4 = false := by decide

theorem witness_StepOrder :
    (let i := Instr.div 5 6 (.reg 7); let u := turnOf (issuing (.issue 0 0) i)
     Fetches u i ∧ u.here.late = [] ∧ u.here.scratch.ahead = [] ∧ ∀ w ∈ u.here.tensor.sweeps.toList, w.pend = [])
    ∧ (let i := Instr.add 5 6 (.reg 7)
       let u := turnOf (issuing (.issue 0 0) i fun c => { c with late := [inFlight 0 0 (.store [(0x2010, [1])] none 0)] })
       effective u i = i ∧ Fetches u i ∧ ownMessage u.here 0 0 (passOf u i).spans (passOf u i).awaits = false
        ∧ (∀ e ∈ u.here.late, (e.inner = true → e.ctx = 0) ∧ (e.hold = true → e.ctx ≠ 0) ∧ e.before u i = false)
        ∧ ∃ t, exec i u = .next t ∧ u.here.late.any (lockClash u t) = false ∧ lateRoom u t = true ∧ demandOf u t i = none)
    ∧ (let u := turnOf (issuing (.issue 0 0) (.add 5 6 (.reg 7)) fun c =>
         { c with late := [{ inFlight 0 0 (.store [(0x2010, [1])] none 0) with hold := true }] })
       u.issuing = true ∧ (∀ e ∈ u.here.late, e.inner = true → e.ctx = 0) ∧ (∃ e ∈ u.here.late, e.hold = true ∧ e.ctx = 0)
        ∧ ∀ e ∈ u.here.late, e.hold = true → (∃ ps n, e.op = .store ps none n) ∨ (∃ ls q, e.op = .lanes ls q)
          ∨ ∃ v a n f r, e.op = .stamp v a n f r) := by
  refine ⟨⟨fetches_of (tail := List.replicate 8 0) ⟨by decide, by decide, by decide⟩ (by decide) (by decide) (by decide), rfl, rfl, by decide⟩,
    ⟨rfl, fetches_of (tail := List.replicate 8 0) ⟨by decide, by decide, by decide⟩ (by decide) (by decide) (by decide), by decide, by decide,
      _, rfl, by decide, by decide, rfl⟩, by decide, by decide, ⟨_, .head _, rfl, rfl⟩, fun e h _ => ?_⟩
  rw [show (turnOf _).here.late = [_] from rfl, List.mem_singleton] at h
  exact .inl ⟨_, _, by rw [h]; rfl⟩

/-- For StepTrapsOnBadFetch and AsyncFaultDelivery: nothing waits to be performed. -/
theorem witness_Unhurried : Unhurried (turnOf (fetching 0 0 0)) ∧ Unhurried (turnOf (fetching 0 0 0 fun x => { x with pc := 0x1000 }))
    ∧ Unhurried (turnOf (fetching 0 0 0 id fun c => { c with locks := [⟨0, 4, 4, true⟩] }))
    ∧ Unhurried (turnOf (fetching 0 0 0 fun x => { x with pending := [⟨0x0D, 1, 2, 3⟩] })) := ⟨⟨rfl, rfl⟩, ⟨rfl, rfl⟩, ⟨rfl, rfl⟩, rfl, rfl⟩

theorem witness_FullQueueAndReplay :
    (let s := world id fun c => { c with sync := { c.sync with queue := List.replicate 8 default } }; let i := Instr.cadd 5 .core 1
     i.encoded = true ∧ s.issuing = true ∧ rangeFault s.here.role i = none ∧ privFault i = none ∧ s.me.badRegs = [] ∧ queueFull s.here i = true)
    ∧ (let s := world fun x => { x with softRegs := [5] }; let i := Instr.add 4 5 (.reg 6)
       i.encoded = true ∧ s.issuing = true ∧ rangeFault s.here.role i = none ∧ privFault i = none ∧ s.me.badRegs = [] ∧ queueFull s.here i = false
        ∧ 5 ∈ readCodes i) := by decide

/-! ## Hypotheses met: clauses on the engines -/

theorem witness_TensorStarts_more :
    (∀ e ∈ [TensorItem.cmd (tensorCmd0 (.fact 0x81 0x3000) tgAcc), .cmd (tensorCmd0 (.fact 0 0x3000) tgAcc),
        .cmd (tensorCmd0 (.decay (some 3)) tgAcc), .cmd (tensorCmd0 (.mma 1 2 true) (tgMma 1)), .cmd (tensorCmd0 (.mma 1 2 false) (tgMma 1))],
      let s := tensorState tgAcc fun c => { c with tensor := { c.tensor with queue := [e] }, locks := lockOf 0 0x3000 32 false }
      (s.here.live = true ∧ s.here.halted = false) ∧ s.here.tensor.queue = [e] ∧ held s.here 0 0x3000 32 false = false
        ∧ held s.here 0 0x3000 0 false = false ∧ absent s.here 0x3000 32 = false ∧ absent s.here 0x3000 0 = false
        ∧ s.here.scratch.bad ++ s.here.scratch.soft = []) := by decide

/-- A stamped block 2^13 steps old, of either format. -/
theorem witness_SweepResults :
    (let c := core0 ctx0; let g := tgOf 1 1 0 0x2000 0 0x6000 0 0 2 0 0 0
     c.scratch.bad = [] ∧ tgWfmt g = 1 ∧ (2 ^ 13 + 2 ^ 16 - c.nat (tgHeader g 0) 2) % 2 ^ 16 = 2 ^ 13)
    ∧ (let c := (core0 ctx0).put 0x2000 (accBytes { lanes := List.replicate 16 (some 1), x := 9, fresh := false, stamped := true, stamp := 3 })
       let b := accOfNat (c.nat (tgWide tgAcc 0) 104)
       tgWfmt tgAcc ≠ 1 ∧ b.stamped = true ∧ (2 ^ 15 + 2 + 2 ^ 16 - b.stamp) % 2 ^ 16 = 2 ^ 15 - 1) := by decide

theorem witness_TensorRuns_more :
    (let r := run0 (.mma 1 2 true) (tgMma 1) 0
     let s := (tensorRunning r 1 false).onHere fun c => { c with tensor := { c.tensor with credits := Vector.replicate 16 1 } }
     s.here.tensor.run[s.num]? = some r ∧ 0 < vget s.here.tensor.credits 1 ∧ 0 < panelSlots r.cmd.tg (s.here.ring 2).sz
      ∧ ∀ k < tgExt r.cmd.tg 0, let x := tgWide r.cmd.tg (k + tgExt r.cmd.tg 0 * r.row)
          held s.here r.cmd.id x 104 true = false ∧ absent s.here x 104 = false)
    ∧ (let r := run0 (.mma 1 2 false) (tgOf 2 2 0 0x2000 0 0 0 0 1 1 104 (0x5000 + 2 ^ 18)) 1
       tgExt r.cmd.tg 1 ≤ r.row ∧ tgPop r.cmd.tg = true ∧ (tensorRunning r 1 false).here.tensor.run[0]? = some r)
    ∧ (let r := run0 (.decay (some 1)) tgAcc 1; let s := tensorRunning r 0 false
       s.here.tensor.run[s.num]? = some r ∧ tensorWaits s.here r = false ∧ (vget s.here.tensor.sweeps 1).pend = [])
    ∧ (let r := run0 (.decay (some 0)) tgAcc 1; let s := tensorRunning r 0 false
       tensorWaits s.here r = false ∧ (vget s.here.tensor.sweeps 0).pend = [0x2000])
    ∧ (let r := run0 (.decay (some 1)) tgAcc 2; tgBlocks tgAcc ≤ r.row ∧ (vget (tensorRunning r 0 false).here.tensor.sweeps 1).pend = [])
    ∧ (let r := run0 (.norm 5) tgAcc 0; tensorWaits (tensorRunning r 0 false).here r = false) := by decide

/-- BlockResults, RowResult and PhocyA: a core with no error and no sweep, blocks of each kind in it. -/
theorem witness_BlockArithmetic :
    (let c := core0 ctx0
     c.scratch.bad = [] ∧ (∀ j < 4, (vget c.tensor.sweeps j).pend = []) ∧ c.scratch.mem.wf = true ∧ c.nat 0x2060 8 < 2 ^ 30
      ∧ c.nat 0x2060 8 % 2 ^ 12 ≠ 4095 ∧ (accOfNat (c.nat 0x2000 104)).fresh = false ∧ (accOfNat (c.nat 0x2000 104)).stamped = false)
    ∧ (tgPfmt tgQnt = 1 ∧ tgPfmt tgPair = 2 ∧ tgPfmt (tgOf 1 1 3 0 0 0 0 0 2 0 0 0) = 3 ∧ tgWfmt (tgOf 1 1 3 0 0 0 0 0 2 0 0 0) = 1
      ∧ tgWfmt tgAcc = 2)
    ∧ (let g := tgPair; let apart (x y lx ly : Nat) : Prop := x + lx ≤ y ∨ y + ly ≤ x
       apart (tgPbase g) (tgHbase g) 192 32 ∧ apart (tgPbase g) (tgX2base g) 192 192 ∧ apart (tgPbase g) (tgH2base g) 192 32
        ∧ apart (tgHbase g) (tgX2base g) 32 192 ∧ apart (tgHbase g) (tgH2base g) 32 32 ∧ apart (tgX2base g) (tgH2base g) 192 32)
    ∧ (let b : Acc := { lanes := List.replicate 16 (some 1), x := 9, fresh := false, stamped := true, stamp := 3 }
       let at_ := (core0 ctx0).put 0x2000 (accBytes b)
       (accOfNat (at_.nat 0x2000 104)) = b ∧ (2 ^ 15 ≤ (2 ^ 15 + 4 + 2 ^ 16 - b.stamp) % 2 ^ 16) ∧ 5 < b.x ∧ b.lanes.all Option.isNone = false
        ∧ b.lanes.length = 16 ∧ (∀ l ∈ b.lanes, (l.map Int.natAbs).getD 0 < 2 ^ 47) ∧ b.x < 4095 ∧ b.stamp < 2 ^ 16)
    ∧ (let b : Acc := { lanes := List.replicate 16 none, x := 9, fresh := false, stamped := false, stamp := 0 }
       b.lanes.all Option.isNone = true ∧ 5 < b.x)
    ∧ (let ra : Ring := { Ring.blank with sz := 128, ns := 2 }; let g := tgMma 1
       0 < ra.sz ∧ 0 < ra.ns ∧ tgKb g * (16 + 2) ≤ ra.sz ∧ 0 < tgExt g 0) := by decide

/-- A scale VENC8 names is not written by any command the vector engine must follow, a list of 16 values, a pair. -/
theorem witness_VectorConversions_more :
    (∀ i ∈ [Instr.venc8 0 1 true 63, .venc6 0 1 false 0], vectorWaits (vectorBusy 1 i).here 0 0 i = false)
    ∧ (List.replicate 16 (0x3F800000 : Word)).length = 16 ∧ 0 < 1 ∧ (14 : VReg).val % 2 = 0
    ∧ (isNan 0x7FC00000 = true ∧ isNan 0xFF800000 = false ∧ fminmax true 0xFF800000 0xFF800000 = 0xFF800000
      ∧ fminmax true 0x3F800000 0xFF800000 ≠ 0xFF800000) := by decide

theorem witness_FabricSumRaise :
    let f : SumCfg := { sumCfg0 [.east] with parent := none }
    let s := descriptors (regs [(9, 0x50000)]) fun c =>
      let g : SumTag := { cfg := some f, gen := 1, failed := true, busy := true, given := none, blks := [sumBlk0] }
      { c with msg := { c.msg with sums := vset c.msg.sums 3 g } }
    clear (.fsraise 9 3) s = true ∧ (s.here.sum 3).cfg = some f ∧ (s.here.sum 3).blks[0]? = some sumBlk0 ∧ (s.me.rx 9).toNat = 0x50000
      ∧ sumBlk0.req < 5 ∧ f.own = true ∧ (s.here.sum 3).given = none := by decide

theorem witness_BarrierSouth :
    let s : State := { State.reset with
      cores := [(512, (core0 ctx0).onBar 2 fun _ => { Barrier.blank with
        configured := true, rect := ⟨0, 0, 1, 2⟩, arrived := true, counted := true })], cur := (512, 0), num := 2 }
    let b := s.here.bar 2
    (s.here.live = true ∧ s.here.halted = false) ∧ b.configured = true ∧ b.arrived = true ∧ b.sent = false ∧ b.arriver = none
      ∧ b.counted = true ∧ b.rect.x0 = s.cur.1.x ∧ b.rect.y0 < s.cur.1.y ∧ ¬ (s.cur.1.x + 1 < b.rect.x0 + b.rect.w)
      ∧ ¬ (s.cur.1.y + 1 < b.rect.y0 + b.rect.h) := by decide

/-- ERINIT of entry 5 with a low word, and a CADD that its release waits for or none. -/
def initing (w : Word) (ready : Bool) : State :=
  ((reversal id).onHere fun c => { c with sync := { c.sync with
    queue := if ready then [] else [{ (default : SyncOp) with ctx := 0 }] } }).onMe fun x => regs [(8, w), (9, 0x2000 / 16)] x
/-- What the clauses on ERINIT ask for. -/
def InitMeets (w : Word) (ready : Bool) : Prop :=
  let s := initing w ready
  let lo := (s.me.rpair 8).toNat % 2 ^ 32
  let hi := (s.me.rpair 8).toNat / 2 ^ 32
  (clear (.erinit 8 5) s = true ∧ (s.here.crossingAt 5).valid = false ∧ lo < 2 ^ 29 ∧ hi < 2 ^ 28)
    ∧ (s.here.role.ord ≤ lo / 2 ^ 26 % 2 ^ 3 ∧ lo / 2 ^ 26 % 2 ^ 3 < s.here.role.ord + s.here.role.er)
    ∧ (∃ r ∈ s.here.role.launchRects, r.has (BitVec.ofNat 18 (lo % 2 ^ 18)) = true)
    ∧ inKind s.here.role [.data] (hi % 2 ^ 14 * 16) ((hi / 2 ^ 14 % 2 ^ 14 + 1) * 16) = true
    ∧ ((s.here.crossingAt 5).held = none ∧ (s.here.crossingAt 5).clash = false)
    ∧ releaseReady s.here 0 (if BitVec.ofNat 18 (lo % 2 ^ 18) = s.cur.1 then .core else .device) = ready
    ∧ (lo / 2 ^ 21 % 2 ^ 5 < s.here.role.crossings ∧ (s.here.crossingAt 7).valid = false ∧ (s.here.crossingAt 7).held = none)

/-- A partner on another core, one on this core, and one behind a CADD. -/
theorem witness_Erinit : InitMeets 0x10000001 true ∧ InitMeets 0x10E00000 true ∧ InitMeets 0x10E00000 false := by
  refine ⟨?_, ?_, ?_⟩ <;> refine ⟨?_, ?_, ⟨_, .head _, ?_⟩, ?_, ?_, ?_, ?_⟩ <;> decide

/-- A wait that an unperformed release or a held fault keeps from ending. -/
theorem witness_WakeStalls :
    acquireReady ((waitingFor (.counter 0 0)).onHere fun c => { c with sync := { c.sync with queue := [{ (default : SyncOp) with ctx := 0 }] } }).here 0
      = false
    ∧ (let s := (waitingFor (.counter 0 0)).onMe fun x => { x with pending := [⟨1, 0, 0, 0⟩] }; s.me.tlevel = 0 ∧ s.me.pending ≠ []) := by decide

/-! ## Hypotheses met: clauses on streams, links and stations -/

/-- A BYTES stream cancelled after its last granule. -/
theorem witness_CancelBytes :
    let j : StreamJob := { job0 .sload with id := 9, bytes := true, last := 12, start := 64, off := 64 }
    let s := streams.onHere fun c => c.onSlot 5 fun t => { t with job := some j }
    clear (.scancel 5) s = true ∧ (vget s.here.slots 5).job = some j ∧ granuleBegun s 0 5 j = false ∧ sgLen j.sg ≤ j.start ∧ j.last ≠ 0
      ∧ j.counter < 64 ∧ (s.here.counter j.counter).value.toNat + j.last < 2 ^ 64 := by decide

/-- An edge request at its home port: on an alias page of 64 bytes at 0x80, the second half of its block; one that reduces a
word or a block at 0x100. -/
def aliasReq (op : EdgeOp) : EdgeReq := { edgeReq0 op with len := 16, aliasPg := some (64, 0x80, 16) }
def reduceReq (rop : Nat) (data : List Byte) : EdgeReq :=
  edgeReq0 (.reduce rop [{ pieces := [(0x100, data.length)], data := data, va := 0 }])
def asking (m : StreamCmd) (r : EdgeReq) : State := streaming .active (job0 m) fun s => { s with num := 0, edgeReqs := [r] }

theorem witness_EdgeMore :
    (∀ e ∈ [(StreamCmd.sload, aliasReq .read), (.sstore, aliasReq (.write (List.replicate 16 1)))], let s := asking e.1 e.2
      takeAt s.edgeReqs s.num = some (e.2, []) ∧ (s.core 0).jobOf 7 3 = some (job0 e.1) ∧ (job0 e.1).cancel = false
        ∧ (job0 e.1).bytes = false ∧ e.2.aliasPg = some (64, 0x80, 16) ∧ 16 + e.2.len ≤ 64
        ∧ deviceBad s 0x80 16 = false ∧ deviceBad s 0xA0 2 = false ∧ (s.core 0).scratch.bad ++ (s.core 0).scratch.soft = []
        ∧ streamReady (s.core 0) (job0 e.1) 0x4000 16 true = true)
    ∧ (∀ n ∈ [4, 104], let r := reduceReq (if n = 4 then 0 else 1) (List.replicate n 0); let s := asking .sred r
      takeAt s.edgeReqs s.num = some (r, []) ∧ (s.core 0).jobOf 7 3 = some (job0 .sred) ∧ r.aliasPg = none ∧ deviceBad s 0x100 n = false
        ∧ (vget (s.core 0).slots 7).state = .active)
    ∧ (accAlign (some 0) 0 0 = some 0 ∧ laneAdd (some 0) (some 0) = some 0 ∧ accAlign (some (2 ^ 30)) 0 0 = some (2 ^ 30))
    ∧ (vget State.reset.links contribution0.link).state = .up ∧ ({ contribution0 with window := merge0.window }).target = 0 := by decide

theorem witness_LinkMore :
    (let s : State := { State.reset with cores := [(0, { core0 ctx0 with halted := true })] }; (s.core 0).halted = true)
    ∧ (let l : Launch := { launchOf 1 0 .saved with roles := [{ info := { role1 1 with rect := ⟨0, 0, 1, 1⟩ }, content := [] }] }
       ∃ m ∈ [l], m.phase = .saved ∧ ∃ x ∈ m.roles, (0 : Site) ∈ x.info.rect.sites)
    ∧ (let o : OutMsg := { rid := 3, id := 7, ctx := 0, serial := 0, seq := 3, slot := none, hdr := hdrOf 1 true 4 0, landed := 0 }
       let l : Launch := { launchOf 1 0 .saved with saved := [(0, { core1 ctx0 with msg := { Msg.blank with out := [o] } })] }
       let s := station1 [l, launchOf 2 0 .running] (core1 ctx0) 0
       let p : Packet := { src := 0, dst := 0, cls := .reply, ctx := 8, body := .rep (hdrOf 4 true 0 0) [] none }
       (s.core p.dst).halted = false ∧ (s.core p.dst).live = true ∧ alike p s.heldArrivals < (awaited s p).length) := by decide

theorem witness_UploadOnly :
    uploadOnly (fieldState .service fun t => { t with state := .failed, sigBad := true }) = true ∧ uploadOnly recordState = false
    ∧ (let s : State := { recordState with station := { recordState.station with queues :=
          (2, { Queue.blank with en := true, submit := 1, prio := 1 }) :: recordState.station.queues } }
       nextRecord s 3 = some 0x1000 ∧ ∃ e ∈ s.station.queues, queueDue s e.1 = true ∧ (s.queue 3).prio < e.2.prio) := by decide

/-- Nothing of its saved state is lost; or the shadow storage of its core lost a word of it. -/
theorem witness_ResumeMore :
    let c := { Core.blank with shadow := some 1, shadowBad := [8] }
    let l := { saved1 with saved := [(0, { core1 ctx0 with ctxs := Vector.replicate 8 ctx0 })] }
    let s := station1 [l] c 1
    (∀ e ∈ saved1.saved, ((station1 [saved1] Core.blank 1).core (BitVec.ofNat 18 e.1)).shadowBad = [])
    ∧ (s.launch 1 = some l ∧ l.phase = .saved ∧ serving s = true ∧ behind s l = false ∧ rectsFree s l = true ∧ s.station.evicted = [])
    ∧ (s.core 0).shadow = some l.id ∧ (s.core 0).shadowBad = [8]
    ∧ ∀ k : CtxNo, (({ core1 ctx0 with ctxs := Vector.replicate 8 ctx0 } : Core).ctx k).status ≠ .dormant := by decide

/-- A page that comes back with other bytes than were written. -/
theorem witness_PageLost :
    let e := { evicted0 with cipher := List.replicate 1024 1 }
    let s := pooled (station1 [launchOf 1 0 .running] (page0 none true (core1 ctx0)) 0)
    let s : State := { s with station := { s.station with evicted := [e] } }
    (s.station.evicted.find? fun e => e.launch == s.here.role.launch && e.site == (0 : Site).toNat && e.page == 0) = some e
      ∧ poolGood s e = false ∧ ∀ k, vecPending s.here k = false := by decide

/-- A pool too small for what a save spills keeps a drained launch waiting. -/
theorem witness_DrainBlocked :
    let l := launchOf 1 0 .draining
    let s : State := { pooledFor 0 (station1 [l] (core1 ctx0) 1) with num := 1 }
    let s : State := { s with station := { s.station with evicted := [evicted0] } }
    s.launch s.num = some l ∧ drained s l = true ∧ launchQuiescent s l = false
      ∧ ¬ (spillOf s l + (poolUsed s l.partition).length ≤ poolSlots s l.partition) := by
  refine ⟨rfl, by decide, by decide, fun h => ?_⟩
  have h : spillOf _ _ + 1 ≤ 0 := h
  omega

/-- For a coolant fault and a lost field: a launch placed and not started, one saved there, and one far from the field. -/
theorem witness_StationMore :
    (let s := station1 [launchOf 1 0 .placed] (core1 Ctx.blank) 0
     ∃ l ∈ s.station.launches, l.resident = true ∧ l.phase = .placed ∧ s.launch l.id = some l)
    ∧ (let s := station1 [saved1] Core.blank 0; ∃ l ∈ s.station.launches, l.phase = .saved ∧ ∃ r ∈ l.rects, r.meets (fieldRect 0) = true)
    ∧ (let s := station1 [launchOf 1 0 .running] (core1 ctx0) 63
       ∃ l ∈ s.station.launches, l.resident = true ∧ (∀ m ∈ s.station.launches, m.id = l.id → m = l)
        ∧ ∀ r ∈ l.reach s, r.meets (fieldRect 63) = false)
    ∧ (let s := fieldState .service fun t => { t with clamped := true, lowSamples := 99 }
       s.station.state = .full ∧ s.station.clamped = true ∧ 100 ≤ s.station.lowSamples + 1) := by decide

/-- TDECAY op 00 names no sweep slot: its word with xa[1:0] not 0 is no instruction (R79, R329). -/
theorem test_tdecay_no_slot : decodeWords 0xC000073D 0 0 = some (.tdecay 0 61) ∧ decodeWords 0xC020073D 0 0 = none := by decide

end Sys2Proof.Tests
end

section
/-!
PROOFS. System registers: what MFS reads (R89 to R91, R137). One lemma for the run of an instruction that nothing stands in
the way of, one for each engine's order, one for each range of register numbers; then the statement.
-/
namespace Sys2Proof.Machine
open Sys2Proof Sys2Proof.Claim

/-! ## The checks before an instruction's own, in the words of the statements -/

/-- With nothing in its way, the instruction's own part runs. -/
theorem gate_of_clear {i : Instr} {s : State} (h : Clear i s) (own : State → State) : gate i s own = .next (own s) := by
  obtain ⟨hissue, hrange, hpriv, hregs, hqueue⟩ := h
  exact gate_clear own hissue hrange hpriv (fun r hr => (hregs r hr).1) (fun r hr => (hregs r hr).2) hqueue

/-- A privileged access traps with PRIV once its registers are in range (R88, R89). -/
theorem gate_privileged {i : Instr} {s : State} {v : Word} (own : State → State) (h : s.issuing = true)
    (hr : rangeFault s.here.role i = none) (hp : privFault i = some v) : gate i s own = .next (s.trap PRIV v) := by
  simp only [gate, h, hr, hp, if_true]

theorem rangeFault_mfs {ro : RoleInfo} {rd : XReg} (num : BitVec 12) (h : rd.val < ro.xn) :
    rangeFault ro (.mfs rd num) = none := by
  have : ¬ ro.xn ≤ rd.val := by omega
  simp [rangeFault, namedOf, namedBeyond, this]

theorem privFault_mfs {rd : XReg} {num : BitVec 12} (h : 0x600 ≤ num.toNat ∧ num.toNat ≤ 0x6FF) :
    privFault (.mfs rd num) = some (num.zeroExtend 32) :=
  if_pos h

/-- MFS moves on by one word. -/
theorem result_mfs (s : State) (rd : XReg) (num : BitVec 12) (v : Word) :
    s.result (.mfs rd num) rd v = wrote s rd v 4 := rfl

/-! ## Which reads wait (R89, R319) -/

/-- A register outside the engines' ranges waits for nothing. -/
theorem sysReadStalls_atIssue (s : State) {n : Nat} (h : n < 0x100 ∨ 0x500 ≤ n) : sysReadStalls s n = false := by
  unfold sysReadStalls
  dsimp only
  rw [if_neg (by omega), if_neg (by omega), if_neg (by omega), if_neg (by omega)]

theorem sysReadStalls_vector {s : State} {n : Nat} (h : 0x100 ≤ n ∧ n ≤ 0x1FF) (hv : s.here.vec = []) :
    sysReadStalls s n = false := by
  unfold sysReadStalls
  dsimp only
  rw [if_pos h, hv]
  rfl

/-- QSTAT, ACCOVF and PAIRERR wait for started commands and vector instructions too. -/
theorem sysReadStalls_errors {s : State} {n : Nat} (h : n = 0x200 ∨ n = 0x201 ∨ n = 0x203)
    (hq : s.here.tensor.queue = []) (hr : s.here.tensor.run = []) (hv : s.here.vec = []) : sysReadStalls s n = false := by
  unfold sysReadStalls
  dsimp only
  rw [if_neg (by omega), if_pos h, hq, hr, hv]
  rfl

theorem sysReadStalls_tensor {s : State} {n : Nat} (h : 0x202 ≤ n ∧ n ≤ 0x2FF) (hn : n ≠ 0x203)
    (hq : s.here.tensor.queue = []) : sysReadStalls s n = false := by
  unfold sysReadStalls
  dsimp only
  rw [if_neg (by omega), if_neg (by omega), if_pos h, hq]
  rfl

theorem sysReadStalls_sync {s : State} {n : Nat} (h : 0x400 ≤ n ∧ n ≤ 0x4FF) (hq : s.here.sync.queue = []) :
    sysReadStalls s n = false := by
  unfold sysReadStalls
  dsimp only
  rw [if_neg (by omega), if_neg (by omega), if_neg (by omega), if_pos h, hq]
  rfl

/-! ## What stands in the numbered registers (R66, R90, R91) -/

theorem half_low (v : Vector DWord 8) (n : Nat) : half v (2 * n) = (vget v n).extractLsb' 0 32 := by
  simp [half, show 2 * n / 2 = n by omega]

theorem half_high (v : Vector DWord 8) (n : Nat) : half v (2 * n + 1) = (vget v n).extractLsb' 32 32 := by
  simp [half, show (2 * n + 1) / 2 = n by omega, show (2 * n + 1) % 2 = 1 by omega]

theorem sysRead_lvl (s : State) {n : Nat} (h : n < 8) : sysRead s (0x010 + n) = vget s.me.lvl n := by
  unfold sysRead
  dsimp only
  rw [if_pos (by omega), Nat.add_sub_cancel_left]

theorem sysRead_lvlx (s : State) {n : Nat} (h : n < 8) : sysRead s (0x018 + n) = vget s.me.lvlx n := by
  unfold sysRead
  dsimp only
  rw [if_neg (by omega), if_pos (by omega), Nat.add_sub_cancel_left]

theorem sysRead_tg (s : State) {n : Nat} (h : n < 16) :
    sysRead s (0x210 + n) = half (Vector.ofFn fun r => tgRead s.me.tg r.val) n := by
  unfold sysRead
  dsimp only
  rw [if_neg (by omega), if_neg (by omega), if_pos (by omega), Nat.add_sub_cancel_left]

theorem sysRead_df (s : State) {n : Nat} (h : n < 8) : sysRead s (0x220 + n) = vget s.here.tensor.df n := by
  unfold sysRead
  dsimp only
  rw [if_neg (by omega), if_neg (by omega), if_neg (by omega), if_pos (by omega), Nat.add_sub_cancel_left]

theorem sysRead_sc (s : State) {n : Nat} (h : n < 64) : sysRead s (0x240 + n) = vget s.here.tensor.sc n := by
  unfold sysRead
  dsimp only
  rw [if_neg (by omega), if_neg (by omega), if_neg (by omega), if_neg (by omega), if_pos (by omega),
    Nat.add_sub_cancel_left]

theorem sysRead_errank (s : State) {n : Nat} (h : n < 8) : sysRead s (0x400 + n) = vget s.here.errank n := by
  unfold sysRead
  dsimp only
  rw [if_neg (by omega), if_neg (by omega), if_neg (by omega), if_neg (by omega), if_neg (by omega),
    if_pos (by omega), Nat.add_sub_cancel_left]

theorem sysRead_sg (s : State) {n : Nat} (h : n < 16) : sysRead s (0x510 + n) = half s.me.sg n := by
  unfold sysRead
  dsimp only
  rw [if_neg (by omega), if_neg (by omega), if_neg (by omega), if_neg (by omega), if_neg (by omega),
    if_neg (by omega), if_pos (by omega), Nat.add_sub_cancel_left]

/-! ## The defined bits of the TG registers (R311, R312) -/

/-- The defined bits of dimension word d: none from NDIM on, and of dimension 0 the extent alone. -/
def tgDimMask (g : TG) (d : Nat) : BitVec 32 := if tgNdim g ≤ d then 0 else if d = 0 then 0xFFF00000 else 0xFFFFFFFF

/-- The defined bits of TG0 to TG7. -/
def tgMasks (g : TG) : List DWord :=
  [0x07FFFF8FFFFFFFFF, 0x003FFFFFFFFFFFFF, tgDimMask g 1 ++ tgDimMask g 0, tgDimMask g 3 ++ tgDimMask g 2,
    tgDimMask g 5 ++ tgDimMask g 4, tgDimMask g 7 ++ tgDimMask g 6, 0x00000000000CF0FF, 0]

theorem toNat_tgDimMask (g : TG) (d : Nat) :
    (tgDimMask g d).toNat = if tgNdim g ≤ d then 0 else if d = 0 then 0xFFF00000 else 0xFFFFFFFF := by
  unfold tgDimMask
  split
  · rfl
  · split <;> rfl

/-- Two words side by side, as a number. -/
theorem ofNat_eq_append (a b : BitVec 32) : BitVec.ofNat 64 (a.toNat * 2 ^ 32 + b.toNat) = a ++ b := by
  apply BitVec.eq_of_toNat_eq
  have ha := a.isLt
  have hb := b.isLt
  rw [BitVec.toNat_append, ← Nat.shiftLeft_add_eq_or_of_lt b.isLt, Nat.shiftLeft_eq, BitVec.toNat_ofNat]
  omega

/-- The dimension registers TG2 to TG5 keep the defined bits of their two words. -/
theorem tgRead_dims (g : TG) {r : Nat} (h : 2 ≤ r ∧ r ≤ 5) :
    tgRead g r = vget g r &&& (tgDimMask g (2 * (r - 2) + 1) ++ tgDimMask g (2 * (r - 2))) := by
  rw [← ofNat_eq_append, toNat_tgDimMask, toNat_tgDimMask, tgRead]
  simp only [show r ≠ 0 by omega, show r ≠ 1 by omega, h, if_false, if_true, and_self]

theorem tgRead_eq_masked (g : TG) {r : Nat} (h : r < 8) : tgRead g r = vget g r &&& (tgMasks g).getD r 0 := by
  match r with
  | 0 | 1 | 6 | 7 => rfl
  | 2 | 3 | 4 | 5 => exact tgRead_dims g (by omega)
  | n + 8 => omega

theorem vget_tgRead (g : TG) {n : Nat} (h : n < 8) :
    vget (Vector.ofFn fun r : Fin 8 => tgRead g r.val) n = vget g n &&& (tgMasks g).getD n 0 := by
  rw [vget_eq_getElem _ _ h, Vector.getElem_ofFn, tgRead_eq_masked g h]

theorem sysRead_tgLow (s : State) {n : Nat} (h : n < 8) :
    sysRead s (0x210 + 2 * n) = (vget s.me.tg n &&& (tgMasks s.me.tg).getD n 0).extractLsb' 0 32 := by
  rw [sysRead_tg s (by omega), half_low, vget_tgRead _ h]

theorem sysRead_tgHigh (s : State) {n : Nat} (h : n < 8) :
    sysRead s (0x211 + 2 * n) = (vget s.me.tg n &&& (tgMasks s.me.tg).getD n 0).extractLsb' 32 32 := by
  rw [show 0x211 + 2 * n = 0x210 + (2 * n + 1) by omega, sysRead_tg s (by omega), half_high, vget_tgRead _ h]

theorem sysRead_sgLow (s : State) {n : Nat} (h : n < 8) :
    sysRead s (0x510 + 2 * n) = (vget s.me.sg n).extractLsb' 0 32 := by
  rw [sysRead_sg s (by omega), half_low]

theorem sysRead_sgHigh (s : State) {n : Nat} (h : n < 8) :
    sysRead s (0x511 + 2 * n) = (vget s.me.sg n).extractLsb' 32 32 := by
  rw [show 0x511 + 2 * n = 0x510 + (2 * n + 1) by omega, sysRead_sg s (by omega), half_high]

/-! ## MFS (R89, R90, R137) -/

/-- MFS of a register other than LCYC that waits for nothing writes the register's value to xd. -/
theorem mfs_writes {s : State} {rd : XReg} {num : Nat} {v : Word} (hn : num < 2 ^ 12) (hl : num ≠ 0x002)
    (hs : sysReadStalls s num = false) (hv : sysRead s num = v) : Writes (.mfs rd (BitVec.ofNat 12 num)) s rd v 4 := by
  intro hc
  have hnum : (BitVec.ofNat 12 num).toNat = num := by rw [BitVec.toNat_ofNat, Nat.mod_eq_of_lt hn]
  have hne : BitVec.ofNat 12 num ≠ 0x002 := fun e => hl (by simpa [hnum] using congrArg BitVec.toNat e)
  rw [exec_mfs, execMfs, gate_of_clear hc]
  simp only [hnum, hs, hv, hne, false_and, Bool.false_eq_true, if_false, result_mfs]

/-- A register outside the engines' ranges reads as it stands at issue. -/
theorem mfs_writes_atIssue {s : State} {rd : XReg} {num : Nat} {v : Word}
    (hn : (num < 0x100 ∧ num ≠ 0x002) ∨ (0x500 ≤ num ∧ num < 2 ^ 12)) (hv : sysRead s num = v) :
    Writes (.mfs rd (BitVec.ofNat 12 num)) s rd v 4 :=
  mfs_writes (by omega) (by omega) (sysReadStalls_atIssue s (by omega)) hv

/-- The state after LCYC was read: cycles have passed, and LCYCH holds the upper half of their count (R90). -/
def State.latched (s : State) : State := s.tick.onMe fun x => { x with lcych := s.tick.here.cycles.extractLsb' 32 32 }

@[simp] theorem tick_cur (s : State) : s.tick.cur = s.cur := rfl

/-- The passing of cycles changes no context. -/
@[simp] theorem tick_me (s : State) : s.tick.me = s.me := me_onHere s fun c =>
  { c with cycles := c.cycles + Config.elapsed s.freeCount }

@[simp] theorem latched_cycles (s : State) : s.latched.here.cycles = s.tick.here.cycles := by simp [State.latched]

@[simp] theorem latched_me (s : State) :
    s.latched.me = { s.me with lcych := s.latched.here.cycles.extractLsb' 32 32 } := by
  rw [latched_cycles, State.latched, me_onMe, tick_me]

theorem latched_rx (s : State) (r : XReg) : s.latched.me.rx r = s.me.rx r := by
  rw [latched_me]
  rfl

theorem sysRead_lcyc (s : State) : sysRead s 0x002 = s.here.cycles.extractLsb' 0 32 := rfl

/-- MFS of LCYC into a register other than x0 writes the lower half of the cycles and latches the upper. -/
theorem exec_mfs_lcyc {s : State} {rd : XReg} (hc : Clear (.mfs rd 0x002) s) (hd : rd ≠ 0) :
    exec (.mfs rd 0x002) s = .next (wrote s.latched rd (s.latched.here.cycles.extractLsb' 0 32) 4) := by
  have hd' : rd.val ≠ 0 := fun e => hd (Fin.ext e)
  have hs : sysReadStalls s 2 = false := sysReadStalls_atIssue s (by decide)
  rw [exec_mfs, execMfs, gate_of_clear hc, ← sysRead_lcyc, ← result_mfs _ _ 0x002]
  simp [hs, hd', State.latched]

@[simp] theorem wrote_me (s : State) (rd : XReg) (v : Word) (n : Nat) :
    (wrote s rd v n).me = { s.me.wx rd v with pc := s.me.pc + BitVec.ofNat 32 n } := by simp [wrote]

theorem wrote_rx (s : State) (rd r : XReg) (v : Word) (n : Nat) : (wrote s rd v n).me.rx r = (s.me.wx rd v).rx r := by
  rw [wrote_me]
  rfl

@[simp] theorem wrote_cycles (s : State) (rd : XReg) (v : Word) (n : Nat) :
    (wrote s rd v n).here.cycles = s.here.cycles := by simp [wrote]

/-- MFS of a privileged number traps with PRIV. -/
theorem exec_mfs_privileged {s : State} {rd : XReg} {num : BitVec 12} (h : 0x600 ≤ num ∧ num ≤ 0x6FF)
    (hi : s.issuing = true) (hx : rd.val < s.here.role.xn) :
    exec (.mfs rd num) s = .next (s.trap PRIV (num.zeroExtend 32)) := by
  rw [exec_mfs, execMfs, gate_privileged _ hi (rangeFault_mfs num hx) (privFault_mfs h)]

/-- Settles O15: each register number by the lemma for its range, its wait by the lemma for its engine. -/
theorem systemRegisterReads : Obligations.SystemRegisterReads := by
  unfold Obligations.SystemRegisterReads
  intro s rd x t ndim dim defined tg reads
  refine ⟨?identity, ?levels, ?trapLevel, ?trapState, ?vector, ?errors, ?sweep, ?tensor, ?errank, ?asid, ?sg, ?priv, ?lcyc⟩
  case identity =>
    exact ⟨mfs_writes_atIssue (by decide) rfl, mfs_writes_atIssue (by decide) rfl, mfs_writes_atIssue (by decide) rfl⟩
  case levels =>
    exact fun n hn => ⟨mfs_writes_atIssue (by omega) (sysRead_lvl s hn), mfs_writes_atIssue (by omega) (sysRead_lvlx s hn)⟩
  case trapLevel =>
    exact ⟨mfs_writes_atIssue (by decide) rfl, mfs_writes_atIssue (by decide) rfl, mfs_writes_atIssue (by decide) rfl⟩
  case trapState =>
    exact ⟨mfs_writes_atIssue (by decide) rfl, mfs_writes_atIssue (by decide) rfl, mfs_writes_atIssue (by decide) rfl,
      mfs_writes_atIssue (by decide) rfl, mfs_writes_atIssue (by decide) rfl, mfs_writes_atIssue (by decide) rfl,
      mfs_writes_atIssue (by decide) rfl⟩
  case vector => exact fun hv => mfs_writes (by decide) (by decide) (sysReadStalls_vector (by decide) hv) rfl
  case errors =>
    intro hq hr hv
    have errors {num : Nat} {v : Word} (hn : num = 0x200 ∨ num = 0x201 ∨ num = 0x203) (e : sysRead s num = v) : reads num v :=
      mfs_writes (by omega) (by omega) (sysReadStalls_errors hn hq hr hv) e
    exact ⟨errors (by decide) rfl, errors (by decide) rfl, errors (by decide) rfl⟩
  case sweep => exact fun hq => mfs_writes (by decide) (by decide) (sysReadStalls_tensor (by decide) (by decide) hq) rfl
  case tensor =>
    intro hq
    have tensor {num : Nat} {v : Word} (hn : 0x210 ≤ num ∧ num ≤ 0x2FF) (e : sysRead s num = v) : reads num v :=
      mfs_writes (by omega) (by omega) (sysReadStalls_tensor (by omega) (by omega) hq) e
    exact ⟨fun n hn => ⟨tensor (by omega) (sysRead_tgLow s hn), tensor (by omega) (sysRead_tgHigh s hn),
      tensor (by omega) (sysRead_df s hn)⟩, fun n hn => tensor (by omega) (sysRead_sc s hn)⟩
  case errank =>
    exact fun hq n hn => mfs_writes (by omega) (by omega) (sysReadStalls_sync (by omega) hq) (sysRead_errank s hn)
  case asid => exact mfs_writes_atIssue (by decide) rfl
  case sg =>
    exact fun n hn => ⟨mfs_writes_atIssue (by omega) (sysRead_sgLow s hn),
      mfs_writes_atIssue (by omega) (sysRead_sgHigh s hn)⟩
  case priv => exact fun num hlo hhi hi hx => exec_mfs_privileged ⟨hlo, hhi⟩ hi hx
  case lcyc =>
    intro hc hd
    refine ⟨_, exec_mfs_lcyc hc hd, ?_, ?_, ?_, fun r hr => ?_⟩
    · rw [wrote_rx, rx_wx_self _ _ _ hd, wrote_cycles]
    · simp
    · simp [x]
    · rw [wrote_rx, rx_wx_ne _ _ _ _ hr, latched_rx]

end Sys2Proof.Machine
end
